-- ==== Sys2Proof/Word.lean ====
section
/-! DEFINITION. The word types of the LN2260: bytes of links, ports and stored images, and 12-bit pixels. -/

namespace Sys2Proof

/-- A byte, as links, ports and stored images carry it. -/
abbrev Byte := BitVec 8

/-- A sensor pixel: 12-bit linear luminance (00 section 4). -/
abbrev Pixel := BitVec 12

/-- A frame number: 16 bits, compared modulo 65536 (00 section 5.1). -/
abbrev FrameNumber := BitVec 16

end Sys2Proof
end

