-- ==== Sys2Proof/Config.lean ====
section
/-! DEFINITION. What the part fixes and no rule computes (sizes, durations), and the free values: constants
without a body, so that no proof can know them. -/

namespace Sys2Proof.Config

/-- Lines of a frame (01 section 1.1). -/
def lines : Nat := 1440

/-- Pixels of a line (01 section 1.1). -/
def columns : Nat := 1920

/-- Bytes that carry the pixels of a line: two 12-bit pixels in three bytes (11 section 11.6). -/
def linePixelBytes : Nat := 2880

/-- Tiles of a side (00 section 4). -/
def tiles : Nat := 192

/-- Pixels of a tile (00 section 4). -/
def tilePixels : Nat := 14400

/-- Counts held by the line-CRC window (R13). -/
def crcWindow : Nat := 60

/-- Digest slots of a recorder (R133). -/
def slots : Nat := 2048

/-- Duration of the negotiation timer and of the up deadline, in milliseconds (R86, R92). Events carry the
durations (log 11): no step reads these five. -/
def negotiationMs : Nat := 500

/-- Duration of the failed timer, in milliseconds (R89). -/
def failedMs : Nat := 1000

/-- Duration of the protect window, in milliseconds (R174). -/
def protectWindowMs : Nat := 2000

/-- Duration of a programming period, in milliseconds (R179). -/
def programmingMs : Nat := 40

/-- Time from a request's chip-select rise to its reply, in microseconds (R161). -/
def replyUs : Nat := 20

/-- Free: which order is taken where one action acts on several members of a set and the spec gives no order
(DESIGN CHOICE, log 6). Applied to the count of choices drawn so far. -/
opaque freeOrder : Nat → Nat

/-- Free: the item byte that a failed programming leaves (R180: "keeps whatever item bytes reached it"), for a
draw, a region number and a byte offset (DESIGN CHOICE, log 7). -/
opaque leftByte : Nat → Nat → Nat → Byte

/-- Free: the checksum that a failed programming leaves, before it is made invalid (R180; DESIGN CHOICE, log 8). -/
opaque leftChecksum : Nat → Nat → BitVec 16

end Sys2Proof.Config
end

