-- ==== Sys2Proof/Syntax.lean ====
section
/-! DEFINITION. The commands of the LN2260: one constructor of Instr per row of spec/opcode_table.json, with
the operands its rule names. -/

namespace Sys2Proof

/-- A side of the truck (00 section 5.3). -/
inductive Side where
  | left
  | right
deriving DecidableEq, Repr

/-- A management port, and the master on it (00 section 1). -/
inductive Port where
  | v
  | c
deriving DecidableEq, Repr

/-- The five calibration regions, in region order (10 section 10.1). -/
inductive Region where
  | geometry
  | image
  | integrity
  | capture
  | access
deriving DecidableEq, Repr

/-- One value per calibration region. -/
structure PerRegion (α : Type) where
  geometry : α
  image : α
  integrity : α
  capture : α
  access : α
deriving DecidableEq, Repr

/-- A set of regions: one flag per region. -/
abbrev RegionSet := PerRegion Bool

/-- The fields of a FRAME_START, as carried (01 section 1.1, 11 section 11.6). -/
structure Header where
  frameNumber : FrameNumber
  tRep : BitVec 16
  gRep : BitVec 16
  appliedTag : Byte
  sensorTemp : BitVec 16
  sensorFlags : Byte
deriving DecidableEq, Repr

/-- The commands. A request is the chip-select rise of a transaction whose frame passes R162 with that request's
code; it carries the frame's tag and parameter bytes (DEDUCED from R161 and R163, log 4). -/
inductive Instr where
  | powerOnReset
  | load
  | supplyFail
  | timeTick
  | cameraLockAcquired (side : Side)
  | cameraLockLost (side : Side)
  | discardedPacket (side : Side) (kind : Byte)
  | frameStart (side : Side) (header : Header)
  | line (side : Side) (index : BitVec 16) (pixels : List Byte) (crc : BitVec 16)
  | frameEnd (side : Side) (lineCount : BitVec 16)
  | commandTransmissionComplete (side : Side)
  | testFrameEnd (side : Side)
  | frameCompletion (side : Side)
  | droppedFrameCompletion (side : Side)
  | outputFrameStart (side : Side)
  | backChannelLockAcquired (side : Side)
  | backChannelLockLost (side : Side)
  | monitorAbilityWord (side : Side) (word : Byte)
  | frameReturn (side : Side) (tag : Byte) (signature : BitVec 32) (ambient actual flags : BitVec 16)
  | negotiationTimerExpiry (side : Side)
  | failedTimerExpiry (side : Side)
  | upDeadlineExpiry (side : Side)
  | vehicleStateExpiry
  | crossTrigger (side : Side)
  | eventInEdge
  | chipSelectFall (port : Port)
  | replyReady (port : Port)
  | requestDiscarded (port : Port)
  | badFrame (port : Port) (received : List Byte)
  | noOperation (port : Port) (tag : BitVec 4) (params : List Byte)
  | getStatus (port : Port) (tag : BitVec 4) (params : List Byte)
  | readCounters (port : Port) (tag : BitVec 4) (params : List Byte)
  | readFault (port : Port) (tag : BitVec 4) (params : List Byte)
  | readFaultKey (port : Port) (tag : BitVec 4) (params : List Byte)
  | ackFault (port : Port) (tag : BitVec 4) (params : List Byte)
  | ackAll (port : Port) (tag : BitVec 4) (params : List Byte)
  | setVehicleState (port : Port) (tag : BitVec 4) (params : List Byte)
  | setTime (port : Port) (tag : BitVec 4) (params : List Byte)
  | setViewOffset (port : Port) (tag : BitVec 4) (params : List Byte)
  | setNightPolicy (port : Port) (tag : BitVec 4) (params : List Byte)
  | setBrightness (port : Port) (tag : BitVec 4) (params : List Byte)
  | setExposureMode (port : Port) (tag : BitVec 4) (params : List Byte)
  | testImage (port : Port) (tag : BitVec 4) (params : List Byte)
  | readTileMap (port : Port) (tag : BitVec 4) (params : List Byte)
  | triggerCapture (port : Port) (tag : BitVec 4) (params : List Byte)
  | captureControl (port : Port) (tag : BitVec 4) (params : List Byte)
  | setCaptureParams (port : Port) (tag : BitVec 4) (params : List Byte)
  | clearCapture (port : Port) (tag : BitVec 4) (params : List Byte)
  | releaseCapture (port : Port) (tag : BitVec 4) (params : List Byte)
  | getCaptureStatus (port : Port) (tag : BitVec 4) (params : List Byte)
  | readCaptureHeader (port : Port) (tag : BitVec 4) (params : List Byte)
  | readCaptureSlot (port : Port) (tag : BitVec 4) (params : List Byte)
  | readCaptureNext (port : Port) (tag : BitVec 4) (params : List Byte)
  | calStage (port : Port) (tag : BitVec 4) (params : List Byte)
  | calDiscard (port : Port) (tag : BitVec 4) (params : List Byte)
  | calProgram (port : Port) (tag : BitVec 4) (params : List Byte) (supplyOk : Bool)
  | calProtect (port : Port) (tag : BitVec 4) (params : List Byte)
  | calRead (port : Port) (tag : BitVec 4) (params : List Byte)
  | restart (port : Port) (tag : BitVec 4) (params : List Byte)
  | protectWindowExpiry
  | programmingPeriodEnd (unverified : RegionSet)
  | eventInFall
deriving DecidableEq, Repr

end Sys2Proof
end

