-- ==== Sys2Proof/Machine/Bytes.lean ====
section
/-! DEFINITION. Byte order, bit fields and clamps: how numbers and sets stand in the bytes of frames, images and
records (11 intro, R182). -/

namespace Sys2Proof.Machine

/-- clamp(x, a, b) of 00 section 5.1. -/
def clampNat (x a b : Nat) : Nat := if x < a then a else if b < x then b else x

/-- clamp(x, a, b) of 00 section 5.1, on signed numbers. -/
def clampInt (x a b : Int) : Int := if x < a then a else if b < x then b else x

/-- The number that bytes hold, most significant byte first (11 intro). -/
def natOfBytes (bs : List Byte) : Nat := bs.foldl (fun acc b => acc * 256 + b.toNat) 0

/-- The low n bytes of a number, most significant byte first (11 intro). -/
def bytesOfNat : Nat → Nat → List Byte
  | 0, _ => []
  | n + 1, v => BitVec.ofNat 8 (v / 256 ^ n) :: bytesOfNat n v

/-- One byte of a number. -/
def byte (v : Nat) : List Byte := bytesOfNat 1 v

/-- Two bytes of a number, most significant first. -/
def word16 (v : Nat) : List Byte := bytesOfNat 2 v

/-- Two bytes of a signed number, two's complement (11 intro). -/
def signed16 (v : Int) : List Byte := word16 (BitVec.ofInt 16 v).toNat

/-- The signed number that 16 bits hold (11 intro: two's complement). -/
def signedOf16 (v : Nat) : Int := (BitVec.ofNat 16 v).toInt

/-- n bytes at an offset of a list; bytes past its end read as 0. -/
def field (bs : List Byte) (offset n : Nat) : Nat :=
  natOfBytes ((List.range n).map fun i => bs.getD (offset + i) 0)

/-- The number with bit i set where flag i is (bit 0 first): the wire form of a set (11 section 11.2). -/
def bitsOf : List Bool → Nat
  | [] => 0
  | b :: bs => b.toNat + 2 * bitsOf bs

/-- One byte that holds a boolean: 0 FALSE or OFF, 1 TRUE or ON (11 section 11.2). -/
def flagByte (b : Bool) : List Byte := byte b.toNat

/-- The bytes of an absent field are 0 (R182). -/
def orZero (n : Nat) : Option Nat → List Byte
  | some v => bytesOfNat n v
  | none => bytesOfNat n 0

/-- The regions in region order (10 section 10.1). -/
def regions : List Region := [.geometry, .image, .integrity, .capture, .access]

/-- The value of a region (11 section 11.2). -/
def regionNumber : Region → Nat
  | .geometry => 0
  | .image => 1
  | .integrity => 2
  | .capture => 3
  | .access => 4

/-- The entry of one region. -/
def perRegionGet {α : Type} (p : PerRegion α) : Region → α
  | .geometry => p.geometry
  | .image => p.image
  | .integrity => p.integrity
  | .capture => p.capture
  | .access => p.access

/-- The entries with one region's replaced. -/
def perRegionSet {α : Type} (p : PerRegion α) (r : Region) (v : α) : PerRegion α :=
  match r with
  | .geometry => { p with geometry := v }
  | .image => { p with image := v }
  | .integrity => { p with integrity := v }
  | .capture => { p with capture := v }
  | .access => { p with access := v }

/-- One entry per region, formed from the region. -/
def perRegion {α : Type} (f : Region → α) : PerRegion α :=
  { geometry := f .geometry, image := f .image, integrity := f .integrity,
    capture := f .capture, access := f .access }

/-- The wire form of a region set (11 section 11.2). -/
def regionBits (r : RegionSet) : Nat :=
  bitsOf [r.geometry, r.image, r.integrity, r.capture, r.access]

/-- The region set of a byte, or none where a bit beyond the five is set (R182). -/
def regionSetOfByte (b : Byte) : Option RegionSet :=
  if b.toNat < 32 then
    some (perRegion fun r => b.getLsbD (regionNumber r))
  else none

/-- Whether a region set is empty. -/
def noRegion (r : RegionSet) : Bool :=
  !(r.geometry || r.image || r.integrity || r.capture || r.access)

/-- Two pixels from three bytes (11 section 11.6). -/
def pixelPair (a b c : Byte) : List Pixel :=
  [(a ++ (b.extractLsb' 4 4) : BitVec 12), ((b.extractLsb' 0 4) ++ c : BitVec 12)]

/-- The pixels that bytes carry: two 12-bit pixels in three bytes, lower x first, each most significant bit
first (11 section 11.6; the place of the halves is DEDUCED from 11's byte order, log 9). -/
def pixelsOfBytes : List Byte → List Pixel
  | a :: b :: c :: rest => pixelPair a b c ++ pixelsOfBytes rest
  | _ => []

end Sys2Proof.Machine
end

