-- ==== Sys2Proof/Machine/Crc.lean ====
section
/-! DEFINITION. The three CRCs of the part (R183). -/

namespace Sys2Proof.Machine

/-- One bit of a CRC, no reflection: the top bit of the register is compared with the data bit, the register
moves up, and the polynomial is added where they differ (R183). -/
def crcBit {n : Nat} (poly : BitVec n) (acc : BitVec n) (b : Bool) : BitVec n :=
  if acc.msb != b then (acc <<< 1) ^^^ poly else acc <<< 1

/-- One byte of a CRC, most significant bit first (R183). -/
def crcByte {n : Nat} (poly : BitVec n) (acc : BitVec n) (x : Byte) : BitVec n :=
  [7, 6, 5, 4, 3, 2, 1, 0].foldl (fun a i => crcBit poly a (x.getLsbD i)) acc

/-- The register after bytes taken in order. -/
def crcBytes {n : Nat} (poly init : BitVec n) (bs : List Byte) : BitVec n :=
  bs.foldl (crcByte poly) init

/-- CRC-8: x^8 + x^2 + x + 1, initial value 0xFF, no final step: management frames (R183). -/
def crc8 (bs : List Byte) : BitVec 8 := crcBytes 0x07#8 0xFF#8 bs

/-- CRC-16: x^16 + x^12 + x^5 + 1, initial value 0xFFFF, no final step: camera LINE and calibration region (R183). -/
def crc16 (bs : List Byte) : BitVec 16 := crcBytes 0x1021#16 0xFFFF#16 bs

/-- CRC-32: initial value 0xFFFFFFFF, final value complemented: output frame (R183, R93). -/
def crc32 (bs : List Byte) : BitVec 32 := ~~~ crcBytes 0x04C11DB7#32 0xFFFFFFFF#32 bs

/-- The CRC-16 of a camera LINE: the two line_index bytes, then the pixel bytes (R183). -/
def lineCrc (index : BitVec 16) (pixels : List Byte) : BitVec 16 :=
  crc16 (word16 index.toNat ++ pixels)

end Sys2Proof.Machine
end

