-- ==== Sys2Proof/Machine/Calibration.lean ====
section
/-! DEFINITION. The calibration: its items, its built-in defaults, the bytes of its regions (11 section 11.5) and
the validation of a stored region (R173). -/

namespace Sys2Proof.Machine

/-- GEOMETRY items of one side. -/
structure GeometrySide where
  x0 : Nat
  y0 : Nat
  panGain : Nat
  reverseDy : Int
  panSlew : Nat
  panReturn : Nat
deriving DecidableEq, Repr

/-- GEOMETRY region. -/
structure GeometryCal where
  left : GeometrySide
  right : GeometrySide
deriving DecidableEq, Repr

/-- A point of the backlight curve (R97). -/
structure CurvePoint where
  lux : Nat
  level : Nat
deriving DecidableEq, Repr

/-- IMAGE region. -/
structure ImageCal where
  brightLevel : Nat
  kneeIn : Nat
  kneeOut : Nat
  gmin : Nat
  glareRatio : Nat
  glarePixMin : Nat
  glarePixMax : Nat
  attack : Nat
  releaseStep : Nat
  holdFrames : Nat
  tgt : Nat
  eMin : Nat
  eMax : Nat
  tMax : Nat
  nightEnter : Nat
  nightExit : Nat
  nightFrames : Nat
  dayFrames : Nat
  /-- left tiles 0..191, then right -/
  weights : List Nat
  /-- pattern 0..3, tiles 0..191 each -/
  patterns : List Nat
  curve : List CurvePoint
  blMin : Nat
  blNightMax : Nat
  blRamp : Nat
deriving DecidableEq, Repr

/-- INTEGRITY region. -/
structure IntegrityCal where
  holdLimit : Nat
  startLimit : Nat
  recoverFrames : Nat
  frozenFrames : Nat
  frozenSpeed : Nat
  lineRepairMax : Nat
  crcLimit : Nat
  sigLimit : Nat
  tempLimit : Int
  stateHold : Nat
deriving DecidableEq, Repr

/-- CAPTURE region. -/
structure CaptureCal where
  size : Nat
  npre : Nat
  crossLink : Bool
  autostart : Bool
  /-- bit n for fault code n (11 section 11.2) -/
  triggerMask : BitVec 16
deriving DecidableEq, Repr

/-- The ports a request group holds. -/
structure Authority where
  v : Bool
  c : Bool
deriving DecidableEq, Repr

/-- The request groups of R166. -/
inductive Group where
  | vehicle
  | view
  | image
  | captureCtrl
  | trigger
  | cal
deriving DecidableEq, Repr

/-- ACCESS region. -/
structure AccessCal where
  vehicle : Authority
  view : Authority
  image : Authority
  captureCtrl : Authority
  trigger : Authority
  cal : Authority
  storedMask : RegionSet
deriving DecidableEq, Repr

/-- The working copy: every item of the five regions (10 intro). -/
structure Calibration where
  geometry : GeometryCal
  image : ImageCal
  integrity : IntegrityCal
  capture : CaptureCal
  access : AccessCal
deriving DecidableEq, Repr

/-! ### Built-in defaults (10 section 10.1) -/

/-- Default GEOMETRY items of a side. -/
def defaultGeometrySide : GeometrySide :=
  { x0 := 240, y0 := 360, panGain := 8, reverseDy := 180, panSlew := 16, panReturn := 4 }

/-- Default test patterns: 0: 1024 everywhere; 1: 256c + 128; 2: 4095 where c + r is even, 0 elsewhere; 3: 4095
everywhere. -/
def defaultPatterns : List Nat :=
  List.replicate 192 1024
    ++ (List.range 192).map (fun t => 256 * (t % 16) + 128)
    ++ (List.range 192).map (fun t => if (t % 16 + t / 16) % 2 = 0 then 4095 else 0)
    ++ List.replicate 192 4095

/-- Default backlight curve (05 section 5.6). -/
def defaultCurve : List CurvePoint :=
  [⟨0, 50⟩, ⟨10, 80⟩, ⟨50, 150⟩, ⟨200, 300⟩, ⟨1000, 500⟩, ⟨5000, 750⟩, ⟨20000, 950⟩, ⟨60000, 1000⟩]

/-- Default GEOMETRY region. -/
def defaultGeometry : GeometryCal := { left := defaultGeometrySide, right := defaultGeometrySide }

/-- Default IMAGE region. -/
def defaultImage : ImageCal :=
  { brightLevel := 2048, kneeIn := 1024, kneeOut := 1536, gmin := 48, glareRatio := 128
    glarePixMin := 16, glarePixMax := 2000, attack := 8, releaseStep := 4, holdFrames := 6
    tgt := 1200, eMin := 16, eMax := 358400, tMax := 1400, nightEnter := 400, nightExit := 800
    nightFrames := 60, dayFrames := 120, weights := List.replicate 384 1, patterns := defaultPatterns
    curve := defaultCurve, blMin := 20, blNightMax := 300, blRamp := 10 }

/-- Default INTEGRITY region. -/
def defaultIntegrity : IntegrityCal :=
  { holdLimit := 6, startLimit := 180, recoverFrames := 30, frozenFrames := 90, frozenSpeed := 10
    lineRepairMax := 4, crcLimit := 32, sigLimit := 3, tempLimit := 105, stateHold := 300 }

/-- Default CAPTURE region: the mask is set for the six VIEW_LOSS codes 0..5. -/
def defaultCapture : CaptureCal :=
  { size := 256, npre := 180, crossLink := true, autostart := true, triggerMask := 0x003F#16 }

/-- Default ACCESS region. -/
def defaultAccess : AccessCal :=
  { vehicle := ⟨true, false⟩, view := ⟨false, true⟩, image := ⟨true, false⟩
    captureCtrl := ⟨true, false⟩, trigger := ⟨true, true⟩, cal := ⟨true, false⟩
    storedMask := { geometry := false, image := false, integrity := true, capture := false, access := true } }

/-- The built-in defaults. -/
def defaultCalibration : Calibration :=
  { geometry := defaultGeometry, image := defaultImage, integrity := defaultIntegrity
    capture := defaultCapture, access := defaultAccess }

/-! ### Item bytes (11 section 11.5) -/

/-- Item bytes of a region. -/
def regionLength : Region → Nat
  | .geometry => 22
  | .image => 1992
  | .integrity => 15
  | .capture => 8
  | .access => 7

/-- Item bytes of one side of GEOMETRY. -/
def encodeGeometrySide (g : GeometrySide) : List Byte :=
  word16 g.x0 ++ word16 g.y0 ++ byte g.panGain ++ signed16 g.reverseDy ++ word16 g.panSlew ++ word16 g.panReturn

/-- Item bytes of GEOMETRY: left, then right. -/
def encodeGeometry (g : GeometryCal) : List Byte :=
  encodeGeometrySide g.left ++ encodeGeometrySide g.right

/-- Item bytes of IMAGE. The curve holds lux and level point by point (DEDUCED, log 9). -/
def encodeImage (i : ImageCal) : List Byte :=
  word16 i.brightLevel ++ word16 i.kneeIn ++ word16 i.kneeOut ++ word16 i.gmin ++ word16 i.glareRatio
    ++ word16 i.glarePixMin ++ word16 i.glarePixMax ++ byte i.attack ++ byte i.releaseStep ++ byte i.holdFrames
    ++ word16 i.tgt ++ word16 i.eMin ++ bytesOfNat 3 i.eMax ++ word16 i.tMax ++ bytesOfNat 3 i.nightEnter
    ++ bytesOfNat 3 i.nightExit ++ byte i.nightFrames ++ byte i.dayFrames
    ++ i.weights.flatMap byte ++ i.patterns.flatMap word16
    ++ i.curve.flatMap (fun p => word16 p.lux ++ word16 p.level)
    ++ word16 i.blMin ++ word16 i.blNightMax ++ word16 i.blRamp

/-- Item bytes of INTEGRITY. -/
def encodeIntegrity (i : IntegrityCal) : List Byte :=
  byte i.holdLimit ++ word16 i.startLimit ++ byte i.recoverFrames ++ word16 i.frozenFrames ++ byte i.frozenSpeed
    ++ byte i.lineRepairMax ++ word16 i.crcLimit ++ byte i.sigLimit ++ signed16 i.tempLimit ++ word16 i.stateHold

/-- Item bytes of CAPTURE. -/
def encodeCapture (k : CaptureCal) : List Byte :=
  word16 k.size ++ word16 k.npre ++ flagByte k.crossLink ++ flagByte k.autostart ++ word16 k.triggerMask.toNat

/-- An authority entry: 1 for V, 2 for C, 3 for both (11 section 11.5). -/
def encodeAuthority (a : Authority) : List Byte := byte (bitsOf [a.v, a.c])

/-- Item bytes of ACCESS. -/
def encodeAccess (a : AccessCal) : List Byte :=
  encodeAuthority a.vehicle ++ encodeAuthority a.view ++ encodeAuthority a.image ++ encodeAuthority a.captureCtrl
    ++ encodeAuthority a.trigger ++ encodeAuthority a.cal ++ byte (regionBits a.storedMask)

/-- Item bytes of a region of the working copy. -/
def encodeRegion (k : Calibration) : Region → List Byte
  | .geometry => encodeGeometry k.geometry
  | .image => encodeImage k.image
  | .integrity => encodeIntegrity k.integrity
  | .capture => encodeCapture k.capture
  | .access => encodeAccess k.access

/-! ### Items from bytes -/

/-- Items of one side of GEOMETRY, from its offset. -/
def parseGeometrySide (b : List Byte) (o : Nat) : GeometrySide :=
  { x0 := field b o 2, y0 := field b (o + 2) 2, panGain := field b (o + 4) 1
    reverseDy := signedOf16 (field b (o + 5) 2), panSlew := field b (o + 7) 2, panReturn := field b (o + 9) 2 }

/-- Items of GEOMETRY. -/
def parseGeometry (b : List Byte) : GeometryCal :=
  { left := parseGeometrySide b 0, right := parseGeometrySide b 11 }

/-- Items of IMAGE. -/
def parseImage (b : List Byte) : ImageCal :=
  { brightLevel := field b 0 2, kneeIn := field b 2 2, kneeOut := field b 4 2, gmin := field b 6 2
    glareRatio := field b 8 2, glarePixMin := field b 10 2, glarePixMax := field b 12 2
    attack := field b 14 1, releaseStep := field b 15 1, holdFrames := field b 16 1
    tgt := field b 17 2, eMin := field b 19 2, eMax := field b 21 3, tMax := field b 24 2
    nightEnter := field b 26 3, nightExit := field b 29 3, nightFrames := field b 32 1, dayFrames := field b 33 1
    weights := (List.range 384).map (fun i => field b (34 + i) 1)
    patterns := (List.range 768).map (fun i => field b (418 + 2 * i) 2)
    curve := (List.range 8).map (fun i => ⟨field b (1954 + 4 * i) 2, field b (1956 + 4 * i) 2⟩)
    blMin := field b 1986 2, blNightMax := field b 1988 2, blRamp := field b 1990 2 }

/-- Items of INTEGRITY. -/
def parseIntegrity (b : List Byte) : IntegrityCal :=
  { holdLimit := field b 0 1, startLimit := field b 1 2, recoverFrames := field b 3 1, frozenFrames := field b 4 2
    frozenSpeed := field b 6 1, lineRepairMax := field b 7 1, crcLimit := field b 8 2, sigLimit := field b 10 1
    tempLimit := signedOf16 (field b 11 2), stateHold := field b 13 2 }

/-- Items of CAPTURE. -/
def parseCapture (b : List Byte) : CaptureCal :=
  { size := field b 0 2, npre := field b 2 2, crossLink := decide (field b 4 1 = 1)
    autostart := decide (field b 5 1 = 1), triggerMask := BitVec.ofNat 16 (field b 6 2) }

/-- The ports of an authority entry (11 section 11.5). -/
def parseAuthority (v : Nat) : Authority := { v := v.testBit 0, c := v.testBit 1 }

/-- Items of ACCESS. -/
def parseAccess (b : List Byte) : AccessCal :=
  { vehicle := parseAuthority (field b 0 1), view := parseAuthority (field b 1 1)
    image := parseAuthority (field b 2 1), captureCtrl := parseAuthority (field b 3 1)
    trigger := parseAuthority (field b 4 1), cal := parseAuthority (field b 5 1)
    storedMask := perRegion fun r => (field b 6 1).testBit (regionNumber r) }

/-! ### Validation of a stored region (R173) -/

/-- Whether a number lies in a range, both ends included. -/
def inRange (x a b : Nat) : Bool := decide (a ≤ x) && decide (x ≤ b)

/-- Whether a signed number lies in a range, both ends included. -/
def inRangeInt (x a b : Int) : Bool := decide (a ≤ x) && decide (x ≤ b)

/-- R173 condition 2 for one side of GEOMETRY. -/
def geometrySideInRange (g : GeometrySide) : Bool :=
  inRange g.x0 0 960 && inRange g.y0 0 720 && inRange g.panGain 0 10 && inRangeInt g.reverseDy (-720) 720
    && inRange g.panSlew 1 960 && inRange g.panReturn 1 960

/-- R173 condition 2 for GEOMETRY. -/
def geometryInRange (g : GeometryCal) : Bool := geometrySideInRange g.left && geometrySideInRange g.right

/-- R173 condition 2 for IMAGE. -/
def imageInRange (i : ImageCal) : Bool :=
  inRange i.brightLevel 0 4095 && inRange i.kneeIn 0 4094 && inRange i.kneeOut 1 4095 && inRange i.gmin 16 256
    && inRange i.glareRatio 16 4095 && inRange i.glarePixMin 1 14400 && inRange i.glarePixMax 1 14400
    && inRange i.attack 1 16 && inRange i.releaseStep 1 255 && inRange i.holdFrames 0 255
    && inRange i.tgt 1 4095 && inRange i.eMin 16 256 && inRange i.eMax 16 384000 && inRange i.tMax 1 1500
    && inRange i.nightEnter 0 16777214 && inRange i.nightExit 1 16777215
    && inRange i.nightFrames 1 255 && inRange i.dayFrames 1 255
    && i.weights.all (fun w => inRange w 0 15) && i.patterns.all (fun p => inRange p 0 4095)
    && i.curve.all (fun p => inRange p.lux 0 65535 && inRange p.level 0 1000)
    && inRange i.blMin 0 1000 && inRange i.blNightMax 0 1000 && inRange i.blRamp 1 1000

/-- Whether the lux values of a curve are strictly ascending. -/
def luxAscending : List CurvePoint → Bool
  | p :: q :: rest => decide (p.lux < q.lux) && luxAscending (q :: rest)
  | _ => true

/-- R173 condition 3 for IMAGE. -/
def imageConsistent (i : ImageCal) : Bool :=
  decide (i.kneeIn < i.kneeOut) && decide (i.nightEnter < i.nightExit) && decide (i.glarePixMin ≤ i.glarePixMax)
    && decide (i.eMax ≤ i.tMax * 256) && decide (i.eMin ≤ i.eMax) && luxAscending i.curve

/-- R173 condition 2 for INTEGRITY. -/
def integrityInRange (i : IntegrityCal) : Bool :=
  inRange i.holdLimit 1 255 && inRange i.startLimit 1 3600 && inRange i.recoverFrames 1 255
    && inRange i.frozenFrames 2 1000 && inRange i.frozenSpeed 1 250 && inRange i.lineRepairMax 0 16
    && inRange i.crcLimit 2 65535 && inRange i.sigLimit 1 255 && inRangeInt i.tempLimit (-35) 150
    && inRange i.stateHold 20 5000

/-- The buffer sizes of R133. -/
def bufferSizes : List Nat := [128, 256, 512, 1024]

/-- R173 conditions 2 and 3 for CAPTURE, on its item bytes: an ON/OFF byte is 0 or 1, and no mask bit stands
beyond bit 12. -/
def captureValid (b : List Byte) : Bool :=
  let k := parseCapture b
  decide (k.size ∈ bufferSizes) && inRange k.npre 1 (k.size - 1) && inRange (field b 4 1) 0 1
    && inRange (field b 5 1) 0 1 && decide (field b 6 2 < 2 ^ 13)

/-- R173 conditions 2 and 3 for ACCESS, on its item bytes: an authority entry is 1, 2 or 3, and no mask bit
stands beyond bit 4. -/
def accessValid (b : List Byte) : Bool :=
  (List.range 6).all (fun i => inRange (field b i 1) 1 3) && decide (field b 6 1 < 2 ^ 5)

/-- R173 conditions 2 and 3 for a region's item bytes. -/
def itemsValid (r : Region) (b : List Byte) : Bool :=
  match r with
  | .geometry => geometryInRange (parseGeometry b)
  | .image => imageInRange (parseImage b) && imageConsistent (parseImage b)
  | .integrity => integrityInRange (parseIntegrity b)
  | .capture => captureValid b
  | .access => accessValid b

/-- A region of the stored image: its items followed by a 16-bit checksum (10 section 10.1). -/
structure StoredRegion where
  items : List Byte
  checksum : BitVec 16
deriving DecidableEq, Repr

/-- Whether a stored region's checksum checks (R173 condition 1). -/
def checksumOk (r : StoredRegion) : Bool := r.checksum == crc16 r.items

/-- R173: a stored region is valid when its checksum checks and its items are in range and consistent. -/
def regionValid (r : Region) (st : StoredRegion) : Bool := checksumOk st && itemsValid r st.items

/-- The stored region that programming writes: the items, then a checksum newly formed over them (R180). -/
def withChecksum (items : List Byte) : StoredRegion := { items := items, checksum := crc16 items }

/-- The working copy that a load forms: each region whole from its stored items, or whole from the built-in
defaults (R173). -/
def loadCalibration (st : PerRegion StoredRegion) : Calibration :=
  { geometry := if regionValid .geometry st.geometry then parseGeometry st.geometry.items else defaultGeometry
    image := if regionValid .image st.image then parseImage st.image.items else defaultImage
    integrity := if regionValid .integrity st.integrity then parseIntegrity st.integrity.items else defaultIntegrity
    capture := if regionValid .capture st.capture then parseCapture st.capture.items else defaultCapture
    access := if regionValid .access st.access then parseAccess st.access.items else defaultAccess }

/-- The regions that a load replaces by their defaults (R174 step 1). -/
def defaultedRegions (st : PerRegion StoredRegion) : RegionSet :=
  perRegion fun r => !regionValid r (perRegionGet st r)

/-- The stored image that holds the built-in defaults with checksums that check. -/
def defaultStored : PerRegion StoredRegion :=
  perRegion fun r => withChecksum (encodeRegion defaultCalibration r)

/-- The items of a side in GEOMETRY. -/
def geometryOf (k : Calibration) : Side → GeometrySide
  | .left => k.geometry.left
  | .right => k.geometry.right

/-- The calibrated metering weights of a side's 192 tiles (R30). -/
def weightsOf (k : Calibration) : Side → List Nat
  | .left => k.image.weights.take 192
  | .right => (k.image.weights.drop 192).take 192

/-- The 192 tile values of a test pattern (01 section 1.8). -/
def patternOf (k : Calibration) (n : Nat) : List Nat := (k.image.patterns.drop (192 * n)).take 192

/-- The ports that a request group holds (R166). -/
def authorityOf (k : Calibration) : Group → Authority
  | .vehicle => k.access.vehicle
  | .view => k.access.view
  | .image => k.access.image
  | .captureCtrl => k.access.captureCtrl
  | .trigger => k.access.trigger
  | .cal => k.access.cal

/-- Whether an authority entry includes a port. -/
def authorityHolds (a : Authority) : Port → Bool
  | .v => a.v
  | .c => a.c

end Sys2Proof.Machine
end

