-- ==== Sys2Proof/Machine/Blocks.lean ====
section
/-! DEFINITION. The records and blocks that State is made of: what each block of the part holds, as its chapter
lists it. -/

namespace Sys2Proof.Machine

/-! ### Codes and sets (11 section 11.2) -/

/-- The fourteen fault codes, in code order (R112, 11 section 11.2). -/
inductive FaultCode where
  | linkLoss
  | staleView
  | frozenImage
  | dispLink
  | dispSignature
  | monitorFault
  | seqError
  | lineCrc
  | exposureTrack
  | sensorTemp
  | vehicleStale
  | calDefaults
  | calProgramFail
  | captureLost
deriving DecidableEq, Repr

/-- The side of a fault record: a side, or COMMON (07 section 7.1). -/
inductive FaultSide where
  | left
  | right
  | common
deriving DecidableEq, Repr

/-- A set of masters (11 section 11.2). -/
structure MasterSet where
  v : Bool
  c : Bool
deriving DecidableEq, Repr

/-- A stamp: epoch and millisecond count read together (06 section 6.3). -/
structure Stamp where
  epoch : BitVec 8
  ms : BitVec 32
deriving DecidableEq, Repr

/-- A fault record (07 section 7.2). Its severity, kind and audience are fixed by its code (R112). -/
structure FaultRecord where
  code : FaultCode
  side : FaultSide
  /-- state ACTIVE; PASSIVE otherwise -/
  active : Bool
  firstRaise : Stamp
  lastRaise : Stamp
  lastClear : Option Stamp
  onsets : Nat
  detail : BitVec 16
  ackedBy : MasterSet
deriving DecidableEq, Repr

/-- The fault table: the records in creation order and the generation count (07 section 7.2, R132). -/
structure FaultTable where
  records : List FaultRecord
  generation : BitVec 16
deriving DecidableEq, Repr

/-- View states (04 section 4.5). -/
inductive ViewState where
  | starting
  | live
  | holding
  | invalid
  | test
deriving DecidableEq, Repr

/-- DAY or NIGHT (02 section 2.7). -/
inductive DayNight where
  | day
  | night
deriving DecidableEq, Repr

/-- Exposure modes (02 section 2.5). -/
inductive ExposureMode where
  | auto
  | hold
  | manual
deriving DecidableEq, Repr

/-- Night policies (02 section 2.7). -/
inductive NightPolicy where
  | auto
  | forceDay
  | forceNight
deriving DecidableEq, Repr

/-- Frame status of a digest (11 section 11.2). -/
inductive FrameStatus where
  | accepted
  | repaired
  | dropped
deriving DecidableEq, Repr

/-- Trigger sources, in value order (08 section 8.4, 11 section 11.2). -/
inductive TriggerSource where
  | fault
  | cross
  | masterV
  | masterC
  | eventIn
deriving DecidableEq, Repr

/-- A set of trigger sources. -/
structure SourceSet where
  fault : Bool
  cross : Bool
  masterV : Bool
  masterC : Bool
  eventIn : Bool
deriving DecidableEq, Repr

/-- A set of notice kinds (R167). -/
structure NoticeSet where
  view : Bool
  display : Bool
  night : Bool
  capture : Bool
  cal : Bool
deriving DecidableEq, Repr

/-! ### Camera Link Receiver (chapter 1) -/

/-- An exposure command (01 section 1.6). -/
structure Command where
  tag : BitVec 4
  t : Nat
  g : Nat
deriving DecidableEq, Repr

/-- State of the frame-in-progress record (01 section 1.3). -/
inductive FrameState where
  | idle
  | receiving
  | discarding
deriving DecidableEq, Repr

/-- The frame-in-progress record (01 section 1.3), with the rows taken so far, row 0 first. -/
structure FrameInProgress where
  state : FrameState
  header : Option Header
  nextLine : Nat
  badCount : Nat
  badLines : List Nat
  rows : List (List Pixel)
deriving DecidableEq, Repr

/-- The Camera Link Receiver of a side. -/
structure Clr where
  locked : Bool
  frame : FrameInProgress
  lastAccepted : Option FrameNumber
  contRun : Nat
  /-- line-CRC window, oldest count first (R13) -/
  window : List Nat
  sending : Option Command
  waiting : Option Command
  /-- T_rep and G_rep of the last well-formed header since the last reset (R19) -/
  lastHeader : Option (Nat × Nat)
  framesAccepted : BitVec 32
  framesDropped : BitVec 32
  linesRepaired : BitVec 32
  seqGaps : BitVec 32
deriving DecidableEq, Repr

/-! ### Frame completion and Statistics Unit (chapter 2) -/

/-- The pixels of an accepted frame: the rows of a repaired camera frame, or the 192 tile values of a synthetic
frame (R8, R19). -/
inductive Image where
  | camera (rows : List (List Pixel))
  | synthetic (tiles : List Nat)
deriving DecidableEq, Repr

/-- An accepted frame as handed to frame completion (R10, R19). -/
structure AcceptedFrame where
  number : FrameNumber
  status : FrameStatus
  repairedLines : Nat
  tRep : Nat
  gRep : Nat
  image : Image
deriving DecidableEq, Repr

/-- A dropped-frame report (R9). -/
structure DroppedReport where
  number : FrameNumber
  exposure : Option (Nat × Nat)
deriving DecidableEq, Repr

/-- An input of the frame-completion operation (02 section 2.1). -/
inductive CompletionInput where
  | accepted (frame : AcceptedFrame)
  | dropped (report : DroppedReport)
deriving DecidableEq, Repr

/-- The six stages of frame completion, in order (R24). -/
inductive Stage where
  | statistics
  | glare
  | exposure
  | dayNight
  | digest
  | offer
deriving DecidableEq, Repr

/-- A frame-completion operation that is running on an accepted frame (R23, R24): the stage that comes next, and the
command that stage 3 has issued, once it has run. -/
structure Completion where
  frame : AcceptedFrame
  next : Stage
  command : Option Command
deriving DecidableEq, Repr

/-- Statistics of one tile (R27). -/
structure TileStat where
  mean : Nat
  peak : Nat
  bright : Nat
deriving DecidableEq, Repr

/-- The Statistics Unit of a side. -/
structure Stats where
  tiles : List TileStat
  fmean : Nat
  statsFrame : Option FrameNumber
  prevMeans : Option (List Nat)
  identRun : Nat
deriving DecidableEq, Repr

/-! ### Exposure Controller (chapter 2) -/

/-- An entry of the list of pending exposure commands (02 section 2.6). -/
structure PendingCommand where
  tag : BitVec 4
  t : Nat
  g : Nat
  due : FrameNumber
deriving DecidableEq, Repr

/-- The Exposure Controller of a side. -/
structure Exposure where
  mode : ExposureMode
  manual : Option (Nat × Nat)
  manualSend : Bool
  m : Nat
  l : Nat
  commands : List PendingCommand
  lastIssued : BitVec 4
  lastReported : Option Byte
  confirmedRun : Nat
  dayNight : DayNight
  policy : NightPolicy
  nightRun : Nat
  dayRun : Nat
deriving DecidableEq, Repr

/-! ### Glare Map Engine (chapter 3) -/

/-- A tile record of the glare map (R43). -/
structure GlareTile where
  flag : Bool
  gt : Nat
  ge : Nat
  ga : Nat
  h : Nat
deriving DecidableEq, Repr

/-- The glare map of a side (R43). -/
structure GlareMap where
  tiles : List GlareTile
  lastUpdate : Option FrameNumber
  lastBref : Option Nat
deriving DecidableEq, Repr

/-! ### View Composer (chapter 4) -/

/-- The frame of the newest-frame slot: its pixels, its number, and by its image its kind (04 section 4.2). -/
structure SlotFrame where
  image : Image
  number : FrameNumber
deriving DecidableEq, Repr

/-- The View Composer of a side. -/
structure Composer where
  state : ViewState
  startCount : Nat
  heldCount : Nat
  slot : Option SlotFrame
  fresh : Bool
  /-- the codes of the last composed frame in scan order (R67) -/
  lastComposed : Option (List Byte)
  /-- a synthetic frame has been composed since TEST entry (R78) -/
  testComposed : Bool
  originX : Nat
  originY : Nat
  targetX : Nat
  targetY : Nat
  driverDx : Int
  driverDy : Int
  trailer : Nat
  panLimited : Bool
  firstFrame : Bool
  recoverCount : Nat
  lastRecovered : Option FrameNumber
  framesHeld : BitVec 32
deriving DecidableEq, Repr

/-! ### Display Link Transmitter (chapter 5) -/

/-- Negotiation states (05 section 5.2). -/
inductive NegState where
  | down
  | offer
  | confirm
  | up
  | failed
deriving DecidableEq, Repr

/-- Output modes (05 section 5.2). -/
inductive OutputMode where
  | m60
  | m30
deriving DecidableEq, Repr

/-- A monitor ability word without its ack, which R84 leaves out of the comparison. -/
structure Ability where
  m60 : Bool
  m30 : Bool
  signature : Bool
deriving DecidableEq, Repr

/-- An entry of the sent-signature list (05 section 5.3). -/
structure SentFrame where
  tag : Byte
  signature : BitVec 32
deriving DecidableEq, Repr

/-- The message of the present output frame slot on the forward link (R86, R87, R88, R93). -/
inductive Forward where
  | nothing
  | abilityWord (ack : Bool)
  | outputFrame (tag : Byte) (level : Nat) (codes : List Byte)
deriving DecidableEq, Repr

/-- The Display Link Transmitter of a side. -/
structure Dlt where
  locked : Bool
  state : NegState
  reference : Option Ability
  run : Nat
  confirmed : Option Ability
  chosen : Option OutputMode
  /-- running or idle, for each of the three timers -/
  negTimer : Bool
  failedTimer : Bool
  upDeadline : Bool
  retry : Bool
  tagCounter : Byte
  /-- oldest first -/
  sent : List SentFrame
  mismatchRun : Nat
  matchRun : Nat
  blCommand : Nat
  blSent : Nat
  pref : Nat
  ambient : Option (BitVec 16)
  actual : Option (BitVec 16)
  sigMismatches : BitVec 32
  forward : Forward
deriving DecidableEq, Repr

/-! ### Vehicle State Block and Time Base (chapter 6) -/

/-- The Vehicle State Block. Freshness is a function of held, age and STATE_HOLD (06 section 6.1). -/
structure Vehicle where
  held : Bool
  speed : Option Nat
  angle : Option Int
  reverse : Option Bool
  permitted : Option Bool
  age : Nat
  lastPermission : Bool
deriving DecidableEq, Repr

/-! ### Incident Recorder (chapter 8) -/

/-- A digest (R135). -/
structure Digest where
  frameNumber : FrameNumber
  synthetic : Bool
  time : Stamp
  status : FrameStatus
  repairedLines : Nat
  exposure : Option (Nat × Nat)
  command : Option Command
  m : Nat
  l : Nat
  mode : DayNight
  /-- set on a drop, marking M, L and mode -/
  stale : Bool
  glareTiles : Nat
  minGa : Nat
  view : ViewState
  originX : Nat
  originY : Nat
  speed : Option Nat
  angle : Option Int
  activeCodes : List FaultCode
  tileMeans : Option (List Nat)
deriving DecidableEq, Repr

/-- Digest slots: the slots that hold a digest, by rising slot index; an unlisted slot is empty (R133; log 22). -/
abbrev Slots := List (Nat × Digest)

/-- Recorder states (08 section 8.3). -/
inductive RecorderState where
  | stopped
  | filling
  | armed
  | post
  | full
deriving DecidableEq, Repr

/-- The current capture record (R145, R141). -/
structure Capture where
  sources : SourceSet
  faultCodes : List FaultCode
  seen : List FaultCode
  extraCodes : Nat
  triggerFrame : Option FrameNumber
  triggerTime : Stamp
  preCount : Nat
  postCount : Nat
  continues : Bool
deriving DecidableEq, Repr

/-- A capture header (R148). -/
structure CaptureHeader where
  seq : BitVec 8
  buffer : Nat
  triggerFrame : Option FrameNumber
  triggerTime : Stamp
  freezeTime : Stamp
  stopSlot : Nat
  preCount : Nat
  postCount : Nat
  sources : SourceSet
  faultCodes : List FaultCode
  extraCodes : Nat
  continues : Bool
  windowBypassed : Bool
deriving DecidableEq, Repr

/-- The Incident Recorder of a side. -/
structure Recorder where
  /-- S: slots per buffer -/
  size : Nat
  npre : Nat
  crossLink : Bool
  state : RecorderState
  rp : Nat
  /-- F: number of FROZEN buffers -/
  frozen : Nat
  w : Nat
  fill : Nat
  post : Nat
  /-- pending trigger set -/
  waiting : SourceSet
  current : Option Capture
  /-- header queue, head first -/
  headers : List CaptureHeader
  seq : BitVec 8
  cursorV : Nat
  cursorC : Nat
  slots : Slots
  /-- CROSS triggers handed to this recorder and not yet taken (R142; log 14) -/
  crossIncoming : Nat
  triggersLost : BitVec 32
  framesSuppressed : BitVec 32
deriving DecidableEq, Repr

/-! ### Management Port Controller (chapter 9) -/

/-- Status codes (11 section 11.3). -/
inductive Status where
  | ok
  | okClamped
  | refusedAuthority
  | refusedState
  | refusedParam
  | notFound
  | busy
  | badFrame
  | notReady
  | resetReply
deriving DecidableEq, Repr

/-- A reply: status, code echo, tag echo and payload (09 section 9.2). -/
structure Reply where
  status : Status
  code : Byte
  tag : BitVec 4
  payload : List Byte
deriving DecidableEq, Repr

/-- The reply slot (R161): READY with a reply, or PREPARING with the reply being formed, or with none after a
reset. The reply is formed when the request is taken, so the slot can hold it while PREPARING. -/
inductive ReplySlot where
  | ready (reply : Reply)
  | preparing (reply : Option Reply)
deriving DecidableEq, Repr

/-- The transaction in progress (R160, R161, R165): none, begun on READY, begun on PREPARING, or cut: begun while
RESET_N was low, or in progress when a reset was taken. -/
inductive Transaction where
  | none
  | onReady
  | onPreparing
  | cut
deriving DecidableEq, Repr

/-- The eight counters of a side, in the order of 09 section 9.8. -/
structure Counters where
  framesAccepted : BitVec 32
  framesDropped : BitVec 32
  linesRepaired : BitVec 32
  seqGaps : BitVec 32
  framesHeld : BitVec 32
  sigMismatches : BitVec 32
  triggersLost : BitVec 32
  framesSuppressed : BitVec 32
deriving DecidableEq, Repr

/-- A Management Port Controller. -/
structure PortState where
  slot : ReplySlot
  txn : Transaction
  /-- the frame sent in the transaction in progress; zero bytes follow it (R160) -/
  shiftOut : List Byte
  notices : NoticeSet
  baseL : Counters
  baseR : Counters
deriving DecidableEq, Repr

/-! ### Calibration Store (chapter 10) -/

/-- The Calibration Store. -/
structure Store where
  stored : PerRegion StoredRegion
  staging : PerRegion (List Byte)
  /-- the working copy -/
  cal : Calibration
  /-- regions DEFAULTED at the last load -/
  defaulted : RegionSet
  /-- protection mask in force -/
  mask : RegionSet
  /-- protect window running; expired otherwise -/
  window : Bool
  /-- lowering mark -/
  lowered : Bool
  /-- IDLE, or BUSY with the regions being programmed -/
  programming : Option RegionSet
deriving DecidableEq, Repr

/-- One side of the part. -/
structure SideState where
  clr : Clr
  testFlag : Bool
  testNumber : FrameNumber
  /-- inputs handed to frame completion and not yet taken, oldest first (R23) -/
  inputs : List CompletionInput
  /-- the operation that is running (R23) -/
  running : Option Completion
  stats : Stats
  expo : Exposure
  glare : GlareMap
  view : Composer
  dlt : Dlt
  recorder : Recorder
deriving DecidableEq, Repr

/-- The cause that a RESET_REPLY carries (R165). -/
inductive ResetCause where
  | powerOn
  | restart
deriving DecidableEq, Repr

/-- Where the part stands between a reset and its running (R174, R181). -/
inductive Phase where
  /-- RESET_N is low -/
  | resetHeld
  /-- RESET_N is high after a power-on, and step 5 of the load is to come -/
  | loading
  /-- a RESTART has been taken, and step 5 of its load is to come -/
  | restarting
  /-- step 5 of a load is done and the blocks run; steps 6 and 7 are to come -/
  | reporting (cause : ResetCause)
  | running
deriving DecidableEq, Repr

/-- Whether the blocks run: from step 5 of the load on (R174). -/
def blocksRun : Phase → Bool
  | .resetHeld | .loading | .restarting => false
  | .reporting _ | .running => true

end Sys2Proof.Machine
end

