-- ==== Sys2Proof/Machine/Frames.lean ====
section
/-! DEFINITION. Management frames: request codes with their group and parameter length, status codes, the bytes of
a reply, and the framing checks of a request (R162, 11 section 11.3). -/

namespace Sys2Proof.Machine

/-- The requests of the request code table (11 section 11.3). -/
inductive RequestCode where
  | noOperation
  | getStatus
  | readCounters
  | readFault
  | readFaultKey
  | ackFault
  | ackAll
  | setVehicleState
  | setTime
  | setViewOffset
  | setNightPolicy
  | setBrightness
  | setExposureMode
  | testImage
  | readTileMap
  | triggerCapture
  | captureControl
  | setCaptureParams
  | clearCapture
  | releaseCapture
  | getCaptureStatus
  | readCaptureHeader
  | readCaptureSlot
  | readCaptureNext
  | calStage
  | calDiscard
  | calProgram
  | calProtect
  | calRead
  | restart
deriving DecidableEq, Repr

/-- The code byte of a request. -/
def codeByte : RequestCode → Byte
  | .noOperation => 0x00
  | .getStatus => 0x01
  | .readCounters => 0x02
  | .readFault => 0x10
  | .readFaultKey => 0x11
  | .ackFault => 0x12
  | .ackAll => 0x13
  | .setVehicleState => 0x20
  | .setTime => 0x21
  | .setViewOffset => 0x30
  | .setNightPolicy => 0x31
  | .setBrightness => 0x32
  | .setExposureMode => 0x40
  | .testImage => 0x41
  | .readTileMap => 0x42
  | .triggerCapture => 0x50
  | .captureControl => 0x51
  | .setCaptureParams => 0x52
  | .clearCapture => 0x53
  | .releaseCapture => 0x54
  | .getCaptureStatus => 0x55
  | .readCaptureHeader => 0x56
  | .readCaptureSlot => 0x57
  | .readCaptureNext => 0x58
  | .calStage => 0x60
  | .calDiscard => 0x61
  | .calProgram => 0x62
  | .calProtect => 0x63
  | .calRead => 0x64
  | .restart => 0x6F

/-- The request codes, in table order. -/
def requestCodes : List RequestCode :=
  [.noOperation, .getStatus, .readCounters, .readFault, .readFaultKey, .ackFault, .ackAll, .setVehicleState,
    .setTime, .setViewOffset, .setNightPolicy, .setBrightness, .setExposureMode, .testImage, .readTileMap,
    .triggerCapture, .captureControl, .setCaptureParams, .clearCapture, .releaseCapture, .getCaptureStatus,
    .readCaptureHeader, .readCaptureSlot, .readCaptureNext, .calStage, .calDiscard, .calProgram, .calProtect,
    .calRead, .restart]

/-- The request of a code byte, if the table has one. -/
def requestOfByte (b : Byte) : Option RequestCode := requestCodes.find? fun c => codeByte c == b

/-- The group that a request belongs to, if any (R166). -/
def groupOf : RequestCode → Option Group
  | .setVehicleState | .setTime => some .vehicle
  | .setViewOffset | .setNightPolicy | .setBrightness => some .view
  | .setExposureMode | .testImage => some .image
  | .captureControl | .setCaptureParams | .clearCapture | .releaseCapture => some .captureCtrl
  | .triggerCapture => some .trigger
  | .calStage | .calDiscard | .calProgram | .calProtect | .restart => some .cal
  | .noOperation | .getStatus | .readCounters | .readFault | .readFaultKey | .ackFault | .ackAll | .readTileMap
  | .getCaptureStatus | .readCaptureHeader | .readCaptureSlot | .readCaptureNext | .calRead => none

/-- Whether P is a parameter length that a request's code requires (R163 step 2, 11 section 11.3). -/
def lengthOk (c : RequestCode) (p : Nat) : Bool :=
  match c with
  | .noOperation | .getStatus | .ackAll | .calDiscard | .calProgram | .restart => decide (p = 0)
  | .readCounters | .readFault | .triggerCapture | .clearCapture | .getCaptureStatus | .readCaptureHeader
  | .readCaptureNext | .calProtect => decide (p = 1)
  | .readFaultKey | .ackFault | .setNightPolicy | .setBrightness | .captureControl | .releaseCapture => decide (p = 2)
  | .testImage | .readCaptureSlot => decide (p = 3)
  | .setTime | .readTileMap => decide (p = 4)
  | .setViewOffset | .calRead => decide (p = 5)
  | .setExposureMode | .setCaptureParams => decide (p = 6)
  | .setVehicleState => decide (p = 7)
  | .calStage => decide (4 ≤ p) && decide (p ≤ 239)

/-- The byte of a status code (11 section 11.3). -/
def statusByte : Status → Byte
  | .ok => 0x00
  | .okClamped => 0x01
  | .refusedAuthority => 0x10
  | .refusedState => 0x11
  | .refusedParam => 0x12
  | .notFound => 0x13
  | .busy => 0x14
  | .badFrame => 0x20
  | .notReady => 0x21
  | .resetReply => 0x30

/-- The bytes of a reply frame before its CRC. -/
def replyHead (r : Reply) : List Byte :=
  byte r.payload.length ++ [statusByte r.status, r.code, (0#4 ++ r.tag : BitVec 8)] ++ r.payload

/-- The bytes of a reply frame (11 section 11.3): length, status, code echo, tag echo in bits 0..3, payload, CRC-8
over every byte before it (R183). -/
def replyBytes (r : Reply) : List Byte := replyHead r ++ [crc8 (replyHead r)]

/-- The reason that a BAD_FRAME reply carries (R162). -/
inductive BadReason where
  | length
  | short
  | crc
  | code
deriving DecidableEq, Repr

/-- The reason byte of a BAD_FRAME reply (11 section 11.3). -/
def reasonByte : BadReason → Nat
  | .length => 1
  | .short => 2
  | .crc => 3
  | .code => 4

/-- The first check of R162 that the received bytes fail, if any. Bytes after the end of the frame are ignored
(R160). -/
def frameFault (bs : List Byte) : Option BadReason :=
  let p := (bs.getD 2 0).toNat
  if bs.length < 3 ∨ 240 < p then some .length
  else if bs.length < 4 + p then some .short
  else if crc8 (bs.take (3 + p)) ≠ bs.getD (3 + p) 0 then some .crc
  else if (requestOfByte (bs.getD 0 0)).isNone then some .code
  else none

/-- The tag of a tag byte: bits 0..3; bits 4..7 are ignored (11 section 11.3). -/
def tagOfByte (b : Byte) : BitVec 4 := b.extractLsb' 0 4

/-- The bytes of a request frame before its CRC. -/
def requestHead (c : RequestCode) (tag : BitVec 4) (params : List Byte) : List Byte :=
  [codeByte c, (0#4 ++ tag : BitVec 8)] ++ byte params.length ++ params

/-- The bytes of a request frame (11 section 11.3), as a master sends them. -/
def requestBytes (c : RequestCode) (tag : BitVec 4) (params : List Byte) : List Byte :=
  requestHead c tag params ++ [crc8 (requestHead c tag params)]

end Sys2Proof.Machine
end

