-- ==== Sys2Proof/Machine/Links.lean ====
section
/-! DEFINITION. The links at their edges (11 section 11.6): the bytes of the messages that the part sends, and when a
link's symbols lock and unlock it (R1, R85). -/

namespace Sys2Proof.Machine

/-- Type bytes of link messages (11 section 11.6). -/
def frameStartType : Byte := 0xA1
/-- LINE. -/
def lineType : Byte := 0xA2
/-- FRAME_END. -/
def frameEndType : Byte := 0xA3
/-- Exposure command, on the camera's back channel. -/
def exposureType : Byte := 0xB1
/-- Ability word, on the display link in both directions. -/
def abilityType : Byte := 0xC1
/-- Output frame. -/
def outputType : Byte := 0xC2
/-- Frame return. -/
def returnType : Byte := 0xD2

/-- The message of an exposure command on the camera's back channel: tag, T, G. -/
def commandMessage (c : Command) : List Byte :=
  [exposureType, (0#4 ++ c.tag : BitVec 8)] ++ word16 c.t ++ word16 c.g

/-- The part's own ability word: M60, M30 and signature support, with its ack; bits 4..7 are sent as zero (R84, R87,
R88). -/
def abilityWord (ack : Bool) : Byte := BitVec.ofNat 8 (bitsOf [true, true, true, ack])

/-- The message of an output frame slot on the forward link of a display (R86 to R88, R93). -/
def forwardMessage : Forward → List Byte
  | .nothing => []
  | .abilityWord ack => [abilityType, abilityWord ack]
  | .outputFrame tag level codes => [outputType, tag] ++ word16 level ++ codes

/-- R1, R85: whether a run of received symbols, newest first, each valid or not, ends in n consecutive valid ones: n
is 1024 for a camera link and 512 for a back channel. -/
def locks (n : Nat) (symbols : List Bool) : Bool := decide (n ≤ symbols.length) && (symbols.take n).all (·)

/-- R1, R85: whether 8 of the newest 256 symbols are invalid, which takes a link out of LOCKED. -/
def unlocks (symbols : List Bool) : Bool := decide (8 ≤ (symbols.take 256).countP (!·))

end Sys2Proof.Machine
end

