-- ==== Sys2Proof/Decode.lean ====
section
/-! DEFINITION. From bits to commands. The opcode table gives no row any bits, so no word spells a command. The
commands that do arrive as bytes, requests at a port and messages on a link, are read here from the layouts of 11, and
written back. -/

namespace Sys2Proof

/-- The command that a word of nbits bits spells: none, since no row of the table has bits. -/
def decodeTableWord (_nbits _w : Nat) : Option Instr := none

open Machine

/-! ### Requests at a port (R162, 11 section 11.3) -/

/-- The command of a request. CAL_PROGRAM takes the level of SUPPLY_OK with it (log 13). -/
def requestInstr (c : RequestCode) (p : Port) (tag : BitVec 4) (ps : List Byte) (supplyOk : Bool) : Instr :=
  match c with
  | .noOperation => .noOperation p tag ps
  | .getStatus => .getStatus p tag ps
  | .readCounters => .readCounters p tag ps
  | .readFault => .readFault p tag ps
  | .readFaultKey => .readFaultKey p tag ps
  | .ackFault => .ackFault p tag ps
  | .ackAll => .ackAll p tag ps
  | .setVehicleState => .setVehicleState p tag ps
  | .setTime => .setTime p tag ps
  | .setViewOffset => .setViewOffset p tag ps
  | .setNightPolicy => .setNightPolicy p tag ps
  | .setBrightness => .setBrightness p tag ps
  | .setExposureMode => .setExposureMode p tag ps
  | .testImage => .testImage p tag ps
  | .readTileMap => .readTileMap p tag ps
  | .triggerCapture => .triggerCapture p tag ps
  | .captureControl => .captureControl p tag ps
  | .setCaptureParams => .setCaptureParams p tag ps
  | .clearCapture => .clearCapture p tag ps
  | .releaseCapture => .releaseCapture p tag ps
  | .getCaptureStatus => .getCaptureStatus p tag ps
  | .readCaptureHeader => .readCaptureHeader p tag ps
  | .readCaptureSlot => .readCaptureSlot p tag ps
  | .readCaptureNext => .readCaptureNext p tag ps
  | .calStage => .calStage p tag ps
  | .calDiscard => .calDiscard p tag ps
  | .calProgram => .calProgram p tag ps supplyOk
  | .calProtect => .calProtect p tag ps
  | .calRead => .calRead p tag ps
  | .restart => .restart p tag ps

/-- The request, tag and parameters that a frame carries, where it passes R162. -/
def requestOfBytes (bs : List Byte) : Option (RequestCode × BitVec 4 × List Byte) :=
  match frameFault bs, requestOfByte (bs.getD 0 0) with
  | none, some c => some (c, tagOfByte (bs.getD 1 0), (bs.drop 3).take (bs.getD 2 0).toNat)
  | _, _ => none

/-- The command at the chip-select rise of a transaction begun on READY in which these bytes were received: the
request they frame, or a bad frame. -/
def transactionInstr (p : Port) (supplyOk : Bool) (received : List Byte) : Instr :=
  match requestOfBytes received with
  | some (c, tag, ps) => requestInstr c p tag ps supplyOk
  | none => .badFrame p received

/-! ### Messages of the camera and the monitor (11 section 11.6) -/

/-- Bits of a field of bytes, most significant byte first. -/
def fieldBits (n : Nat) (bs : List Byte) (offset count : Nat) : BitVec n := BitVec.ofNat n (field bs offset count)

/-- The command of a packet on the forward link of a camera, from its bytes: a FRAME_START, LINE or FRAME_END of its
full length, or a packet of another type, which the receiver discards. A shorter one is no packet. -/
def cameraPacket (sd : Side) (bs : List Byte) : Option Instr :=
  match bs with
  | [] => none
  | kind :: body =>
    if kind = frameStartType then
      if body.length = 10 then
        some (.frameStart sd
          { frameNumber := fieldBits 16 body 0 2, tRep := fieldBits 16 body 2 2, gRep := fieldBits 16 body 4 2
            appliedTag := fieldBits 8 body 6 1, sensorTemp := fieldBits 16 body 7 2
            sensorFlags := fieldBits 8 body 9 1 })
      else none
    else if kind = lineType then
      if body.length = 2 + Config.linePixelBytes + 2 then
        some (.line sd (fieldBits 16 body 0 2) ((body.drop 2).take Config.linePixelBytes)
          (fieldBits 16 body (2 + Config.linePixelBytes) 2))
      else none
    else if kind = frameEndType then
      if body.length = 2 then some (.frameEnd sd (fieldBits 16 body 0 2)) else none
    else some (.discardedPacket sd kind)

/-- The bytes of a camera packet: the inverse of cameraPacket on the three packets that carry fields. -/
def cameraBytes : Instr → Option (List Byte)
  | .frameStart _ h =>
    some ([frameStartType] ++ word16 h.frameNumber.toNat ++ word16 h.tRep.toNat ++ word16 h.gRep.toNat
      ++ [h.appliedTag] ++ word16 h.sensorTemp.toNat ++ [h.sensorFlags])
  | .line _ index pixels crc => some ([lineType] ++ word16 index.toNat ++ pixels ++ word16 crc.toNat)
  | .frameEnd _ n => some ([frameEndType] ++ word16 n.toNat)
  | _ => none

/-- The command of a message on the back channel of a display, from its bytes: an ability word or a frame return. -/
def monitorMessage (sd : Side) (bs : List Byte) : Option Instr :=
  match bs with
  | [] => none
  | kind :: body =>
    if kind = abilityType then
      match body with
      | [w] => some (.monitorAbilityWord sd w)
      | _ => none
    else if kind = returnType then
      if body.length = 11 then
        some (.frameReturn sd (fieldBits 8 body 0 1) (fieldBits 32 body 1 4) (fieldBits 16 body 5 2)
          (fieldBits 16 body 7 2) (fieldBits 16 body 9 2))
      else none
    else none

/-- The bytes of a back-channel message of a display. -/
def monitorBytes : Instr → Option (List Byte)
  | .monitorAbilityWord _ w => some [abilityType, w]
  | .frameReturn _ tag sig ambient actual flags =>
    some ([returnType, tag] ++ bytesOfNat 4 sig.toNat ++ word16 ambient.toNat ++ word16 actual.toNat
      ++ word16 flags.toNat)
  | _ => none

end Sys2Proof
end

