-- ==== Sys2Proof/Machine/ResetValues.lean ====
section
/-! DEFINITION. The value each block takes at a reset, as its chapter gives it. -/

namespace Sys2Proof.Machine

/-- The frame-in-progress record in IDLE, empty (01 section 1.3, R17). -/
def idleFrame : FrameInProgress :=
  { state := .idle, header := none, nextLine := 0, badCount := 0, badLines := [], rows := [] }

/-- R17, R22: the CLR after a reset. -/
def resetClr : Clr :=
  { locked := false, frame := idleFrame, lastAccepted := none, contRun := 0, window := [], sending := none
    waiting := none, lastHeader := none, framesAccepted := 0, framesDropped := 0, linesRepaired := 0, seqGaps := 0 }

/-- R27, R42, R63: the Statistics Unit after a reset. -/
def resetStats : Stats :=
  { tiles := List.replicate Config.tiles ⟨0, 0, 0⟩, fmean := 0, statsFrame := none, prevMeans := none, identRun := 0 }

/-- R42: the Exposure Controller after a reset. -/
def resetExposure : Exposure :=
  { mode := .auto, manual := none, manualSend := false, m := 0, l := 0, commands := [], lastIssued := 15
    lastReported := none, confirmedRun := 0, dayNight := .day, policy := .auto, nightRun := 0, dayRun := 0 }

/-- A tile record at unity (R43). -/
def unityTile : GlareTile := { flag := false, gt := 256, ge := 256, ga := 256, h := 0 }

/-- R63: the glare map at unity, with no last update. R52 sets the same value at a change to DAY. -/
def unityMap : GlareMap :=
  { tiles := List.replicate Config.tiles unityTile, lastUpdate := none, lastBref := none }

/-- R83: the View Composer of a side after a reset. -/
def resetComposer (k : Calibration) (sd : Side) : Composer :=
  let x := clampNat (geometryOf k sd).x0 0 960
  let y := clampNat (geometryOf k sd).y0 0 720
  { state := .starting, startCount := 0, heldCount := 0, slot := none, fresh := false, lastComposed := none
    testComposed := false, originX := x, originY := y, targetX := x, targetY := y, driverDx := 0, driverDy := 0
    trailer := 0, panLimited := false, firstFrame := true, recoverCount := 0, lastRecovered := none
    framesHeld := 0 }

/-- R101: the DLT of a side after a reset. -/
def resetDlt (k : Calibration) : Dlt :=
  { locked := false, state := .down, reference := none, run := 0, confirmed := none, chosen := none
    negTimer := false, failedTimer := false, upDeadline := true, retry := false, tagCounter := 255, sent := []
    mismatchRun := 0, matchRun := 0, blCommand := k.image.blNightMax, blSent := k.image.blNightMax, pref := 100
    ambient := none, actual := none, sigMismatches := 0, forward := .nothing }

/-- R106: the Vehicle State Block after a reset. -/
def resetVehicle : Vehicle :=
  { held := false, speed := none, angle := none, reverse := none, permitted := none, age := 0
    lastPermission := true }

/-- The empty set of trigger sources. -/
def noSources : SourceSet :=
  { fault := false, cross := false, masterV := false, masterC := false, eventIn := false }

/-- R158: the recorder of a side after power-on. The fill count, which R158 names only where AUTOSTART is ON, is 0 in
both cases, as are w and the post count (DESIGN CHOICE, log 22). -/
def resetRecorder (k : Calibration) : Recorder :=
  { size := k.capture.size, npre := k.capture.npre, crossLink := k.capture.crossLink
    state := if k.capture.autostart then .filling else .stopped
    rp := 0, frozen := 0, w := 0, fill := 0, post := 0, waiting := noSources, current := none, headers := []
    seq := 0, cursorV := 0, cursorC := 0, slots := [], crossIncoming := 0, triggersLost := 0
    framesSuppressed := 0 }

/-- The empty notice set. -/
def noNotices : NoticeSet :=
  { view := false, display := false, night := false, capture := false, cal := false }

/-- Counters or baselines at 0 (R172). -/
def zeroCounters : Counters :=
  { framesAccepted := 0, framesDropped := 0, linesRepaired := 0, seqGaps := 0, framesHeld := 0
    sigMismatches := 0, triggersLost := 0, framesSuppressed := 0 }

/-- The payload byte of a RESET_REPLY (R165, 11 section 11.3). -/
def causeByte : ResetCause → Nat
  | .powerOn => 1
  | .restart => 2

/-- The RESET_REPLY (R165). -/
def resetReply (c : ResetCause) : Reply :=
  { status := .resetReply, code := 0, tag := 0, payload := byte (causeByte c) }

/-- A port controller whose reset has been taken and whose load is not complete (R165, R172). -/
def resetPort (t : Transaction) : PortState :=
  { slot := .preparing none, txn := t, shiftOut := [], notices := noNotices, baseL := zeroCounters
    baseR := zeroCounters }

/-- One side after a power-on (R17, R22, R42, R63, R83, R101, R158). -/
def resetSide (k : Calibration) (sd : Side) : SideState :=
  { clr := resetClr, testFlag := false, testNumber := 0, inputs := [], running := none, stats := resetStats
    expo := resetExposure, glare := unityMap, view := resetComposer k sd, dlt := resetDlt k, recorder := resetRecorder k }

/-- The store after a load of a stored image (R174 steps 1 to 4). -/
def loadedStore (st : PerRegion StoredRegion) : Store :=
  { stored := st
    staging := perRegion fun r => (perRegionGet st r).items
    cal := loadCalibration st
    defaulted := defaultedRegions st
    mask := (loadCalibration st).access.storedMask
    window := true, lowered := false, programming := none }

/-- The store as a load of the built-in defaults leaves it: loadedStore defaultStored, written with the working
copy in its own terms. -/
def defaultStore : Store :=
  { stored := defaultStored
    staging := perRegion fun r => encodeRegion defaultCalibration r
    cal := defaultCalibration
    defaulted := perRegion fun _ => false
    mask := defaultAccess.storedMask
    window := true, lowered := false, programming := none }

end Sys2Proof.Machine
end

