-- ==== Sys2Proof/Machine/State.lean ====
section
/-! DEFINITION. The state of the LN2260, its stop reasons, and the state after reset. -/

namespace Sys2Proof.Machine

/-- The whole part. pending, freeIndex and pauses are the model's own fields (log 2, log 6, log
16). -/
structure State where
  /-- commands waiting, first in, first out -/
  pending : List Instr
  /-- free choices drawn so far -/
  freeIndex : Nat
  /-- where the operations to come pause for another command: the number of stages or parts each goes on for -/
  pauses : List Nat
  phase : Phase
  /-- level of SUPPLY_OK -/
  supplyOk : Bool
  /-- level of EVENT_IN -/
  eventIn : Bool
  /-- the Time Base: epoch and millisecond count -/
  time : Stamp
  table : FaultTable
  activePattern : Fin 4
  vehicle : Vehicle
  store : Store
  left : SideState
  right : SideState
  portV : PortState
  portC : PortState
deriving DecidableEq, Repr

/-- Reasons for which the machine stops. The spec gives the part none: every fault that a block finds is a record
of the fault table, so no command ends in one. Safe: nothing is said of a stop that does not exist. -/
inductive Fault where
deriving DecidableEq, Repr

/-- Reasons for which a command has no meaning. -/
inductive Refusal where
  /-- Raised by exec's arm of a command whose meaning is not written yet; no arm does. Safe: the machine stops. -/
  | notModelled (mnemonic : String)
deriving DecidableEq, Repr

/-- The part right after its power-on reset, the load of R174 complete: every block at the value its chapter gives
for power-on, both reply slots READY with the RESET_REPLY of cause POWER_ON. The stored image holds the built-in
defaults, SUPPLY_OK is high and EVENT_IN low (DESIGN CHOICE, log 1, log 13: the spec gives none of the three). -/
def State.reset : State :=
  { pending := [], freeIndex := 0, pauses := [], phase := .running, supplyOk := true, eventIn := false
    time := { epoch := 0, ms := 0 }
    table := { records := [], generation := 0 }
    activePattern := 0
    vehicle := resetVehicle
    store := defaultStore
    left := resetSide defaultCalibration .left
    right := resetSide defaultCalibration .right
    portV := { resetPort .none with slot := .ready (resetReply .powerOn) }
    portC := { resetPort .none with slot := .ready (resetReply .powerOn) } }

end Sys2Proof.Machine
end

