-- ==== Sys2Proof/Machine/Access.lean ====
section
/-! DEFINITION. Reading and replacing the parts of State that exist once per side or once per port. -/

namespace Sys2Proof.Machine

/-- The other side. -/
def otherSide : Side → Side
  | .left => .right
  | .right => .left

/-- The blocks of a side. -/
def State.side (s : State) : Side → SideState
  | .left => s.left
  | .right => s.right

/-- The state with the blocks of a side replaced. -/
def State.withSide (s : State) (sd : Side) (x : SideState) : State :=
  match sd with
  | .left => { s with left := x }
  | .right => { s with right := x }

/-- The state with the blocks of a side changed. -/
def State.modSide (s : State) (sd : Side) (f : SideState → SideState) : State := s.withSide sd (f (s.side sd))

/-- The controller of a port. -/
def State.port (s : State) : Port → PortState
  | .v => s.portV
  | .c => s.portC

/-- The state with the controller of a port replaced. -/
def State.withPort (s : State) (p : Port) (x : PortState) : State :=
  match p with
  | .v => { s with portV := x }
  | .c => { s with portC := x }

/-- The state with the controller of a port changed. -/
def State.modPort (s : State) (p : Port) (f : PortState → PortState) : State := s.withPort p (f (s.port p))

/-- The state with the CLR of a side changed. -/
def State.modClr (s : State) (sd : Side) (f : Clr → Clr) : State :=
  s.modSide sd fun x => { x with clr := f x.clr }

/-- The state with the Statistics Unit of a side changed. -/
def State.modStats (s : State) (sd : Side) (f : Stats → Stats) : State :=
  s.modSide sd fun x => { x with stats := f x.stats }

/-- The state with the Exposure Controller of a side changed. -/
def State.modExpo (s : State) (sd : Side) (f : Exposure → Exposure) : State :=
  s.modSide sd fun x => { x with expo := f x.expo }

/-- The state with the glare map of a side changed. -/
def State.modGlare (s : State) (sd : Side) (f : GlareMap → GlareMap) : State :=
  s.modSide sd fun x => { x with glare := f x.glare }

/-- The state with the View Composer of a side changed. -/
def State.modView (s : State) (sd : Side) (f : Composer → Composer) : State :=
  s.modSide sd fun x => { x with view := f x.view }

/-- The state with the DLT of a side changed. -/
def State.modDlt (s : State) (sd : Side) (f : Dlt → Dlt) : State :=
  s.modSide sd fun x => { x with dlt := f x.dlt }

/-- The state with the recorder of a side changed. -/
def State.modRec (s : State) (sd : Side) (f : Recorder → Recorder) : State :=
  s.modSide sd fun x => { x with recorder := f x.recorder }

/-- The working copy of the calibration. -/
def State.cal (s : State) : Calibration := s.store.cal

/-- How many stages or parts the operation that is taken goes on for before another command may come: the next pause
that the state holds, or every stage where it holds none (DESIGN CHOICE, log 16). No operation has more than six. -/
def takePause (s : State) : Nat × State :=
  match s.pauses with
  | [] => (6, s)
  | n :: rest => (n, { s with pauses := rest })

/-- Draw an order for the members of a list, where the spec gives none: a rotation by a free number, which puts
any member last (DESIGN CHOICE, log 6). A list of at most one member needs no draw. -/
def drawOrder {α : Type} (s : State) (l : List α) : List α × State :=
  if l.length ≤ 1 then (l, s)
  else (l.rotateLeft (Config.freeOrder s.freeIndex), { s with freeIndex := s.freeIndex + 1 })

end Sys2Proof.Machine
end

