-- ==== Sys2Proof/Machine/Flags.lean ====
section
/-! DEFINITION. What the part derives from its state and holds nowhere: the attributes of fault codes, side
validity, attention, the VALID and ATTN lines, the presentation of the vehicle state, and the value codes of
11 section 11.2. -/

namespace Sys2Proof.Machine

/-! ### Fault codes (R112) -/

/-- Severity of a fault code (R112). -/
inductive Severity where
  | viewLoss
  | degraded
  | info
deriving DecidableEq, Repr

/-- The severity that R112 fixes for a code. -/
def severityOf : FaultCode → Severity
  | .linkLoss | .staleView | .frozenImage | .dispLink | .dispSignature | .monitorFault => .viewLoss
  | .seqError | .lineCrc | .exposureTrack | .sensorTemp | .vehicleStale | .calDefaults | .calProgramFail => .degraded
  | .captureLost => .info

/-- The audience that R112 fixes for a code: V always, C for VIEW_LOSS codes. -/
def audienceOf (c : FaultCode) : MasterSet := { v := true, c := decide (severityOf c = .viewLoss) }

/-- Whether a code is COMMON (R112). -/
def isCommon : FaultCode → Bool
  | .vehicleStale | .calDefaults | .calProgramFail | .captureLost => true
  | _ => false

/-- Whether the kind of a code is event; condition otherwise (R112). -/
def isEvent : FaultCode → Bool
  | .calProgramFail | .captureLost => true
  | _ => false

/-- Whether the side class of a code allows a side (R112). -/
def sideAllowed (c : FaultCode) (sd : FaultSide) : Bool :=
  match sd with
  | .common => isCommon c
  | _ => !isCommon c

/-- The fault codes in code order (11 section 11.2). -/
def faultCodes : List FaultCode :=
  [.linkLoss, .staleView, .frozenImage, .dispLink, .dispSignature, .monitorFault, .seqError, .lineCrc,
    .exposureTrack, .sensorTemp, .vehicleStale, .calDefaults, .calProgramFail, .captureLost]

/-- The value of a fault code (11 section 11.2). -/
def faultCodeNumber (c : FaultCode) : Nat := faultCodes.idxOf c

/-- A side as the side of a fault record. -/
def faultSideOf : Side → FaultSide
  | .left => .left
  | .right => .right

/-- The sides that a fault side names: COMMON names both (R128). -/
def sidesOf : FaultSide → List Side
  | .left => [.left]
  | .right => [.right]
  | .common => [.left, .right]

/-- The value of a side (11 section 11.2). -/
def faultSideNumber : FaultSide → Nat
  | .left => 0
  | .right => 1
  | .common => 2

/-- The value of a side (11 section 11.2). -/
def sideNumber (sd : Side) : Nat := faultSideNumber (faultSideOf sd)

/-- The value of a severity (11 section 11.2). -/
def severityNumber : Severity → Nat
  | .viewLoss => 0
  | .degraded => 1
  | .info => 2

/-- The wire form of a master set (11 section 11.2). -/
def masterBits (m : MasterSet) : Nat := bitsOf [m.v, m.c]

/-- Whether a master is in a set. -/
def masterIn (m : MasterSet) : Port → Bool
  | .v => m.v
  | .c => m.c

/-- A master set with a master added. -/
def addMaster (m : MasterSet) : Port → MasterSet
  | .v => { m with v := true }
  | .c => { m with c := true }

/-- Whether acked_by covers the audience of the code (R117). -/
def fullyMarked (r : FaultRecord) : Bool :=
  (!(audienceOf r.code).v || r.ackedBy.v) && (!(audienceOf r.code).c || r.ackedBy.c)

/-- The capture trigger mask holds a code: bits 0..12 only, so CAPTURE_LOST has no position (R127). -/
def inTriggerMask (k : Calibration) (c : FaultCode) : Bool :=
  decide (faultCodeNumber c ≤ 12) && k.capture.triggerMask.getLsbD (faultCodeNumber c)

/-! ### Validity, attention and lines -/

/-- R125: a side is invalid while the table holds an ACTIVE record of severity VIEW_LOSS with that side. -/
def viewLossActive (t : FaultTable) (sd : Side) : Bool :=
  t.records.any fun r => r.active && decide (severityOf r.code = .viewLoss) && decide (r.side = faultSideOf sd)

/-- R126: the unacknowledged condition of a master. -/
def unacknowledged (t : FaultTable) : Port → Bool
  | .v => t.records.any fun r => !r.ackedBy.v
  | .c => t.records.any fun r => decide (severityOf r.code = .viewLoss) && !r.ackedBy.c

/-- Whether a notice waits. -/
def anyNotice (n : NoticeSet) : Bool := n.view || n.display || n.night || n.capture || n.cal

/-- R169: ATTN_V and ATTN_C. -/
def attnLine (s : State) (p : Port) : Bool := unacknowledged s.table p || anyNotice (s.port p).notices

/-- R80: VALID_L and VALID_R, high exactly in LIVE and HOLDING. -/
def validLine (s : State) (sd : Side) : Bool :=
  match (s.side sd).view.state with
  | .live | .holding => true
  | .starting | .invalid | .test => false

/-- R64: the output frame period of a side in sixtieths of a second. -/
def outputPeriod (s : State) (sd : Side) : Nat :=
  if (s.side sd).dlt.state = .up ∧ (s.side sd).dlt.chosen = some .m30 then 2 else 1

/-! ### Presentation of the vehicle state (R104) -/

/-- FRESH while a record is held and its age is below STATE_HOLD (06 section 6.1). -/
def isFresh (s : State) : Bool := s.vehicle.held && decide (s.vehicle.age < s.cal.integrity.stateHold)

/-- The speed presented, none for unknown. -/
def presentedSpeed (s : State) : Option Nat := if isFresh s then s.vehicle.speed else none

/-- The trailer angle presented, none for no trailer data. -/
def presentedAngle (s : State) : Option Int := if isFresh s then s.vehicle.angle else none

/-- Reverse as presented. -/
def presentedReverse (s : State) : Bool := if isFresh s then s.vehicle.reverse.getD false else false

/-- Recording permitted as presented: a stale record carries the last permission. -/
def presentedPermission (s : State) : Bool :=
  if isFresh s then s.vehicle.permitted.getD true else s.vehicle.lastPermission

/-- The stationary-vehicle condition of R20 step 3 and R179 check 3: fresh, speed present and 0. -/
def atRest (s : State) : Bool := decide (presentedSpeed s = some 0)

/-! ### Value codes (11 section 11.2) -/

/-- The value of a view state. -/
def viewNumber : ViewState → Nat
  | .starting => 0
  | .live => 1
  | .holding => 2
  | .invalid => 3
  | .test => 4

/-- The value of a recorder state. -/
def recorderNumber : RecorderState → Nat
  | .stopped => 0
  | .filling => 1
  | .armed => 2
  | .post => 3
  | .full => 4

/-- The value of a mode. -/
def dayNightNumber : DayNight → Nat
  | .day => 0
  | .night => 1

/-- The value of an exposure mode. -/
def exposureModeNumber : ExposureMode → Nat
  | .auto => 0
  | .hold => 1
  | .manual => 2

/-- The value of a night policy. -/
def policyNumber : NightPolicy → Nat
  | .auto => 0
  | .forceDay => 1
  | .forceNight => 2

/-- The value of a frame status. -/
def frameStatusNumber : FrameStatus → Nat
  | .accepted => 0
  | .repaired => 1
  | .dropped => 2

/-- The value of a trigger source. -/
def sourceNumber : TriggerSource → Nat
  | .fault => 0
  | .cross => 1
  | .masterV => 2
  | .masterC => 3
  | .eventIn => 4

/-- The wire form of a source set. -/
def sourceBits (x : SourceSet) : Nat := bitsOf [x.fault, x.cross, x.masterV, x.masterC, x.eventIn]

/-- The value of a negotiation state. -/
def negNumber : NegState → Nat
  | .down => 0
  | .offer => 1
  | .confirm => 2
  | .up => 3
  | .failed => 4

/-- The value of an output mode. -/
def outputModeNumber : OutputMode → Nat
  | .m60 => 0
  | .m30 => 1

/-- The wire form of a notice set. -/
def noticeBits (n : NoticeSet) : Nat := bitsOf [n.view, n.display, n.night, n.capture, n.cal]

/-- The bytes of a stamp: the epoch, then the millisecond count (11 intro). -/
def stampBytes (t : Stamp) : List Byte := byte t.epoch.toNat ++ bytesOfNat 4 t.ms.toNat

end Sys2Proof.Machine
end

