-- ==== Sys2Proof/Machine/Ops.lean ====
section
/-! DEFINITION. Shared operations: what the fault table does with a report or a mark, how notices are added, how
a view state changes, and the digest slots. -/

namespace Sys2Proof.Machine

/-! ### The fault table (chapter 7) -/

/-- Whether a record has a key. -/
def hasKey (c : FaultCode) (sd : FaultSide) (r : FaultRecord) : Bool := decide (r.code = c) && decide (r.side = sd)

/-- The record of a key, if the table holds one (R113: at most one). -/
def findRecord (t : FaultTable) (c : FaultCode) (sd : FaultSide) : Option FaultRecord :=
  t.records.find? (hasKey c sd)

/-- The position of a key's record (R113). -/
def positionOf (t : FaultTable) (c : FaultCode) (sd : FaultSide) : Nat := t.records.findIdx (hasKey c sd)

/-- A record created at the end of the list; the generation rises by 1 (R113, R118). -/
def appendRecord (t : FaultTable) (r : FaultRecord) : FaultTable :=
  { records := t.records ++ [r], generation := t.generation + 1 }

/-- The record of a key changed in its position; the generation rises by 1 (R118), also where the change is to the
values that the record has (log 23). -/
def changeRecord (t : FaultTable) (c : FaultCode) (sd : FaultSide) (f : FaultRecord → FaultRecord) : FaultTable :=
  { records := t.records.map fun r => if hasKey c sd r then f r else r, generation := t.generation + 1 }

/-- R117: whether a record leaves the table: PASSIVE and marked by its whole audience. -/
def complete (r : FaultRecord) : Bool := !r.active && fullyMarked r

/-- The removal test of R117 on the record of a key; a removal raises the generation by 1 (R118). -/
def removalTest (t : FaultTable) (c : FaultCode) (sd : FaultSide) : FaultTable :=
  if t.records.any (fun r => hasKey c sd r && complete r) then
    { records := t.records.filter fun r => !(hasKey c sd r && complete r), generation := t.generation + 1 }
  else t

/-- A new record (R114, R116). -/
def newRecord (c : FaultCode) (sd : FaultSide) (active : Bool) (detail : BitVec 16) (now : Stamp) : FaultRecord :=
  { code := c, side := sd, active := active, firstRaise := now, lastRaise := now
    lastClear := if active then none else some now, onsets := 1, detail := detail, ackedBy := ⟨false, false⟩ }

/-- R114 on a PASSIVE record: it becomes ACTIVE again. -/
def reactivate (detail : BitVec 16) (now : Stamp) (r : FaultRecord) : FaultRecord :=
  { r with active := true, lastRaise := now, onsets := min (r.onsets + 1) 255, detail := detail
           ackedBy := ⟨false, false⟩ }

/-- R116 on a record that is held: a further event report. -/
def reportAgain (detail : BitVec 16) (now : Stamp) (r : FaultRecord) : FaultRecord :=
  { r with lastRaise := now, lastClear := some now, onsets := min (r.onsets + 1) 255, detail := detail
           ackedBy := ⟨false, false⟩ }

/-- Whether a raise of a key is an onset: no record, or a PASSIVE one (R114). -/
def raiseIsOnset (t : FaultTable) (c : FaultCode) (sd : FaultSide) : Bool :=
  match findRecord t c sd with
  | none => true
  | some r => !r.active

/-- R114: the table after a raise of a condition code. -/
def tableRaise (t : FaultTable) (c : FaultCode) (sd : FaultSide) (detail : BitVec 16) (now : Stamp) : FaultTable :=
  match findRecord t c sd with
  | none => appendRecord t (newRecord c sd true detail now)
  | some r => if r.active then t else changeRecord t c sd (reactivate detail now)

/-- R115: the table after a clear of a condition code. -/
def tableClear (t : FaultTable) (c : FaultCode) (sd : FaultSide) (now : Stamp) : FaultTable :=
  match findRecord t c sd with
  | none => t
  | some r =>
    if r.active then
      removalTest (changeRecord t c sd fun r => { r with active := false, lastClear := some now }) c sd
    else t

/-- R116: the table after an event report. One that writes a record the values it has counts as a change (DESIGN
CHOICE, log 23: R118 leaves it open). -/
def tableEvent (t : FaultTable) (c : FaultCode) (sd : FaultSide) (detail : BitVec 16) (now : Stamp) : FaultTable :=
  match findRecord t c sd with
  | none => appendRecord t (newRecord c sd false detail now)
  | some _ => changeRecord t c sd (reportAgain detail now)

/-- R123 steps 4 and 5: the table after a mark of a master on the record of a key. -/
def tableMark (t : FaultTable) (c : FaultCode) (sd : FaultSide) (p : Port) : FaultTable :=
  match findRecord t c sd with
  | none => t
  | some r =>
    if masterIn r.ackedBy p then t
    else removalTest (changeRecord t c sd fun r => { r with ackedBy := addMaster r.ackedBy p }) c sd

/-- R130: RESTART makes every ACTIVE record PASSIVE, then removes the records whose set is complete. -/
def passivate (t : FaultTable) (now : Stamp) : FaultTable :=
  let made := t.records.map fun r => if r.active then { r with active := false, lastClear := some now } else r
  let kept := made.filter fun r => !complete r
  { records := kept
    generation := t.generation + BitVec.ofNat 16 (t.records.countP (·.active))
      + BitVec.ofNat 16 (made.countP complete) }

/-! ### Notices (R167) -/

/-- Notice kinds. -/
inductive NoticeKind where
  | view
  | display
  | night
  | capture
  | cal
deriving DecidableEq, Repr

/-- A notice set with a kind added. -/
def addNotice (n : NoticeSet) : NoticeKind → NoticeSet
  | .view => { n with view := true }
  | .display => { n with display := true }
  | .night => { n with night := true }
  | .capture => { n with capture := true }
  | .cal => { n with cal := true }

/-- A kind added to the notice set of one master. -/
def notify (p : Port) (k : NoticeKind) (s : State) : State :=
  s.modPort p fun x => { x with notices := addNotice x.notices k }

/-- A kind added to the notice sets of both masters. -/
def notifyBoth (k : NoticeKind) (s : State) : State := notify .c k (notify .v k s)

/-! ### View states (chapter 4) -/

/-- A view state taken; each change sets the VIEW notice of both masters (R81). -/
def changeView (sd : Side) (v : ViewState) (s : State) : State :=
  if (s.side sd).view.state = v then s
  else notifyBoth .view (s.modView sd fun x => { x with state := v })

/-- Entry into INVALID: the fresh mark is cleared (R66) and the start count is 0 (R76). -/
def enterInvalid (sd : Side) (s : State) : State :=
  (changeView sd .invalid s).modView sd fun x => { x with fresh := false, startCount := 0 }

/-- R77: what the composer does at the activation of a VIEW_LOSS record of its side. -/
def activateView (sd : Side) (s : State) : State :=
  match (s.side sd).view.state with
  | .starting | .live | .holding => (enterInvalid sd s).modView sd fun x => { x with heldCount := 0 }
  | .invalid | .test => s

/-- R78: entry into TEST, when the TEST flag is set. -/
def enterTest (sd : Side) (s : State) : State :=
  (changeView sd .test s).modView sd fun x =>
    { x with fresh := false, heldCount := 0, startCount := 0, testComposed := false }

/-- R78: TEST exit to STARTING, when the TEST flag is cleared; entry into STARTING sets the start count to 0 (R74). -/
def leaveTest (sd : Side) (s : State) : State :=
  (changeView sd .starting s).modView sd fun x => { x with fresh := false, startCount := 0 }

/-- The TEST flag of a side set, from clear (R19, R20, R78). -/
def setTest (sd : Side) (s : State) : State :=
  if (s.side sd).testFlag then s
  else enterTest sd (s.modSide sd fun x => { x with testFlag := true, testNumber := 0 })

/-- The TEST flag of a side cleared, from set (R19, R20, R78). -/
def clearTest (sd : Side) (s : State) : State :=
  if (s.side sd).testFlag then leaveTest sd (s.modSide sd fun x => { x with testFlag := false })
  else s

/-- R21: the automatic end of every test. -/
def endTests (s : State) : State := clearTest .right (clearTest .left s)

/-! ### Digest slots (R133, R184) -/

/-- The digest of a slot, none where the slot is empty. -/
def slotRead (m : Slots) (a : Nat) : Option Digest := (m.find? fun e => e.1 = a).map (·.2)

/-- A digest written to a slot, in the place that keeps the indexes rising. -/
def slotWrite : Slots → Nat → Digest → Slots
  | [], a, d => [(a, d)]
  | e :: rest, a, d =>
    if a < e.1 then (a, d) :: e :: rest
    else if a = e.1 then (a, d) :: rest
    else e :: slotWrite rest a d

/-- The slots lo..hi-1 made empty. -/
def slotClear (m : Slots) (lo hi : Nat) : Slots := m.filter fun e => !(decide (lo ≤ e.1) && decide (e.1 < hi))

/-- The canonical form of digest slots: indexes strictly rising, each below 2048. -/
def slotsWf (m : Slots) : Bool :=
  decide (m.Pairwise fun a b => a.1 < b.1) && m.all fun e => decide (e.1 < Config.slots)

end Sys2Proof.Machine
end

