-- ==== Sys2Proof/Machine/Triggers.lean ====
section
/-! DEFINITION. What a recorder does with a trigger (R138 to R142), and the reports that a block sends to the fault
table, with all that an onset brings about (R114 to R116, R77, R128). -/

namespace Sys2Proof.Machine

/-! ### The ring of buffers (R133, R134) -/

/-- N: the number of buffers (R133). -/
def bufferCount (r : Recorder) : Nat := Config.slots / r.size

/-- NPOST (R133). -/
def postSize (r : Recorder) : Nat := r.size - r.npre

/-- The write pointer (R134). -/
def writePointer (r : Recorder) : Nat := (r.rp + r.frozen) % bufferCount r

/-- Whether a recorder has an ACTIVE buffer, which is then buffer wp (R134). -/
def hasActiveBuffer (r : Recorder) : Bool :=
  match r.state with
  | .filling | .armed | .post => true
  | .stopped | .full => false

/-- FREE, ACTIVE or FROZEN (R133). -/
inductive BufferMark where
  | free
  | active
  | frozen
deriving DecidableEq, Repr

/-- The mark of buffer b: FROZEN for the F buffers from rp on, ACTIVE for wp while the recorder writes (R134). -/
def bufferMark (r : Recorder) (b : Nat) : BufferMark :=
  if (List.range r.frozen).any (fun i => (r.rp + i) % bufferCount r = b) then .frozen
  else if hasActiveBuffer r ∧ b = writePointer r then .active
  else .free

/-- The index among the 2048 slots of slot i of buffer b. -/
def slotIndex (r : Recorder) (b i : Nat) : Nat := b * r.size + i

/-- A buffer's slots made empty. -/
def emptyBuffer (r : Recorder) (b : Nat) : Recorder :=
  { r with slots := slotClear r.slots (slotIndex r b 0) (slotIndex r (b + 1) 0) }

/-- R136: buffer wp started: its slots empty, w 0. -/
def startBuffer (r : Recorder) : Recorder := { emptyBuffer r (writePointer r) with w := 0 }

/-- Buffer wp started in FILLING with fill count 0. -/
def startFilling (r : Recorder) : Recorder := { startBuffer r with state := .filling, fill := 0 }

/-! ### Triggers (08 section 8.4) -/

/-- A trigger; a FAULT trigger carries its code. -/
inductive Trigger where
  | fault (code : FaultCode)
  | cross
  | masterV
  | masterC
  | eventIn
deriving DecidableEq, Repr

/-- The source of a trigger. -/
def sourceOf : Trigger → TriggerSource
  | .fault _ => .fault
  | .cross => .cross
  | .masterV => .masterV
  | .masterC => .masterC
  | .eventIn => .eventIn

/-- FAULT and CROSS are fault-class; the others are bypass-class (08 section 8.4). -/
def faultClass : TriggerSource → Bool
  | .fault | .cross => true
  | .masterV | .masterC | .eventIn => false

/-- A source set with a source added. -/
def addSource (x : SourceSet) : TriggerSource → SourceSet
  | .fault => { x with fault := true }
  | .cross => { x with cross := true }
  | .masterV => { x with masterV := true }
  | .masterC => { x with masterC := true }
  | .eventIn => { x with eventIn := true }

/-- Whether a source is in a set. -/
def sourceIn (x : SourceSet) : TriggerSource → Bool
  | .fault => x.fault
  | .cross => x.cross
  | .masterV => x.masterV
  | .masterC => x.masterC
  | .eventIn => x.eventIn

/-- The sources of a set, in value order. -/
def sourceList (x : SourceSet) : List TriggerSource :=
  [TriggerSource.fault, .cross, .masterV, .masterC, .eventIn].filter (sourceIn x)

/-- Whether a set holds a bypass-class source (R146). -/
def hasBypass (x : SourceSet) : Bool := x.masterV || x.masterC || x.eventIn

/-- Whether a set holds a source other than CROSS (R141 step 4). -/
def hasNonCross (x : SourceSet) : Bool := x.fault || hasBypass x

/-- Whether a set holds no source. -/
def noSource (x : SourceSet) : Bool := !(x.cross || hasNonCross x)

/-- The code that a trigger carries. -/
def triggerCodes : Trigger → List FaultCode
  | .fault c => [c]
  | _ => []

/-- The detail of CAPTURE_LOST: the side in the high byte, the source in the low byte (11 section 11.2). -/
def lostDetail (sd : Side) (src : TriggerSource) : BitVec 16 := BitVec.ofNat 16 (sideNumber sd * 256 + sourceNumber src)

/-- R140: a lost trigger. CAPTURE_LOST is no VIEW_LOSS code and has no position in the trigger mask, so its event
ends in the table. -/
def loseTrigger (sd : Side) (src : TriggerSource) (s : State) : State :=
  ({ s with table := tableEvent s.table .captureLost .common (lostDetail sd src) s.time }).modRec sd
    fun r => { r with triggersLost := r.triggersLost + 1 }

/-- R141: an acceptance of sources carrying codes, with a pre_count, as a continuation or not. -/
def acceptTriggers (sd : Side) (sources : SourceSet) (codes : List FaultCode) (pre : Nat) (continues : Bool)
    (s : State) : State :=
  let r := (s.side sd).recorder
  let cap : Capture :=
    { sources := sources, faultCodes := codes, seen := codes, extraCodes := 0, triggerFrame := none
      triggerTime := s.time, preCount := pre, postCount := postSize r, continues := continues }
  let s1 := s.modRec sd fun r => { r with current := some cap, post := postSize r, state := .post }
  if hasNonCross sources && r.crossLink then
    s1.modRec (otherSide sd) fun r => { r with crossIncoming := r.crossIncoming + 1 }
  else s1

/-- R141 for the whole pending set, which is emptied (steps 1 and 2). -/
def acceptWaiting (sd : Side) (pre : Nat) (continues : Bool) (s : State) : State :=
  let sources := (s.side sd).recorder.waiting
  acceptTriggers sd sources [] pre continues (s.modRec sd fun r => { r with waiting := noSources })

/-- R139: a FAULT trigger's code merged into the current capture. -/
def mergeCode (c : FaultCode) (k : Capture) : Capture :=
  if c ∈ k.seen then k
  else if k.faultCodes.length < 4 then { k with seen := k.seen ++ [c], faultCodes := k.faultCodes ++ [c] }
  else { k with seen := k.seen ++ [c], extraCodes := min (k.extraCodes + 1) 255 }

/-- R139: a fault-class trigger merged into the current capture. -/
def mergeTrigger (trg : Trigger) (k : Capture) : Capture :=
  let k1 := { k with sources := addSource k.sources (sourceOf trg) }
  match trg with
  | .fault c => mergeCode c k1
  | _ => k1

/-- R138: a recorder takes a trigger by its state and the trigger's class. -/
def takeTrigger (sd : Side) (trg : Trigger) (s : State) : State :=
  let r := (s.side sd).recorder
  let src := sourceOf trg
  match r.state with
  | .stopped => s
  | .filling =>
    if faultClass src then loseTrigger sd src s
    else s.modRec sd fun r => { r with waiting := addSource r.waiting src }
  | .armed => acceptTriggers sd (addSource noSources src) (triggerCodes trg) r.npre false s
  | .post =>
    if faultClass src then s.modRec sd fun r => { r with current := r.current.map (mergeTrigger trg) }
    else s.modRec sd fun r => { r with waiting := addSource r.waiting src }
  | .full => loseTrigger sd src s

/-- Triggers handed to the recorders of some sides in one action (R128, R142); the order of two recorders is not
given (log 6). -/
def handTriggers (trg : Trigger) (sides : List Side) (s : State) : State :=
  let (order, s1) := drawOrder s sides
  order.foldl (fun s sd => takeTrigger sd trg s) s1

/-! ### Reports to the fault table (R114 to R116) -/

/-- R128: the triggers that an onset hands, after the table's own change. -/
def faultTriggers (c : FaultCode) (sd : FaultSide) (s : State) : State :=
  if inTriggerMask s.cal c then handTriggers (.fault c) (sidesOf sd) s else s

/-- What an onset of a condition code brings about: the event to the composer of a VIEW_LOSS record's side (R77),
and the triggers (R128). -/
def afterOnset (c : FaultCode) (sd : FaultSide) (s : State) : State :=
  faultTriggers c sd
    (if severityOf c = .viewLoss then (sidesOf sd).foldl (fun s x => activateView x s) s else s)

/-- R114: a block sends a raise. -/
def sendRaise (c : FaultCode) (sd : FaultSide) (detail : BitVec 16) (s : State) : State :=
  if raiseIsOnset s.table c sd then
    afterOnset c sd { s with table := tableRaise s.table c sd detail s.time }
  else s

/-- R115: a block sends a clear. -/
def sendClear (c : FaultCode) (sd : FaultSide) (s : State) : State :=
  { s with table := tableClear s.table c sd s.time }

/-- R116: a block sends an event; every event is an onset for the capture triggers. -/
def sendEvent (c : FaultCode) (sd : FaultSide) (detail : BitVec 16) (s : State) : State :=
  faultTriggers c sd { s with table := tableEvent s.table c sd detail s.time }

end Sys2Proof.Machine
end

