-- ==== Sys2Proof/Machine/Operands.lean ====
section
/-! DEFINITION. Request parameters (R182) and the taking of a request by its port: transaction, authority, parameter
length, owning block, reply (R161, R163). -/

namespace Sys2Proof.Machine

/-! ### Parameter bytes (R182) -/

/-- A parameter byte; a byte past the end reads as 0 (no request reads one: R163 step 2 refuses the length). -/
def param (ps : List Byte) (i : Nat) : Nat := (ps.getD i 0).toNat

/-- LEFT or RIGHT. -/
def sideOfParam (v : Nat) : Option Side :=
  match v with
  | 0 => some .left
  | 1 => some .right
  | _ => none

/-- LEFT, RIGHT or COMMON. -/
def faultSideOfParam (v : Nat) : Option FaultSide :=
  match v with
  | 0 => some .left
  | 1 => some .right
  | 2 => some .common
  | _ => none

/-- A non-empty side set with no bit beyond the two, as the sides it names. -/
def sidesOfParam (v : Nat) : Option (List Side) :=
  match v with
  | 1 => some [.left]
  | 2 => some [.right]
  | 3 => some [.left, .right]
  | _ => none

/-- One of the fourteen fault codes. -/
def faultCodeOfParam (v : Nat) : Option FaultCode := faultCodes[v]?

/-- One of the five regions. -/
def regionOfParam (v : Nat) : Option Region := regions[v]?

/-- FALSE or TRUE, OFF or ON. -/
def flagOfParam (v : Nat) : Option Bool :=
  match v with
  | 0 => some false
  | 1 => some true
  | _ => none

/-- AUTO, HOLD or MANUAL. -/
def exposureModeOfParam (v : Nat) : Option ExposureMode :=
  match v with
  | 0 => some .auto
  | 1 => some .hold
  | 2 => some .manual
  | _ => none

/-- AUTO, FORCE_DAY or FORCE_NIGHT. -/
def policyOfParam (v : Nat) : Option NightPolicy :=
  match v with
  | 0 => some .auto
  | 1 => some .forceDay
  | 2 => some .forceNight
  | _ => none

/-! ### Taking a request -/

/-- What an owning block answers: the status and the payload. -/
structure Answer where
  status : Status
  payload : List Byte
deriving DecidableEq, Repr

/-- An answer without payload. -/
def plain (st : Status) : Answer := { status := st, payload := [] }

/-- OK, or OK_CLAMPED where a clamp changed a value. -/
def okIf (clamped : Bool) : Status := if clamped then .okClamped else .ok

/-- R163 step 1: whether a port may issue a request. -/
def authorised (s : State) (p : Port) (c : RequestCode) : Bool :=
  match groupOf c with
  | none => true
  | some g => authorityHolds (authorityOf s.cal g) p

/-- The transaction of a port ended at its chip-select rise. -/
def endTransaction (p : Port) (s : State) : State :=
  s.modPort p fun x => { x with txn := .none, shiftOut := [] }

/-- The reply to a request in the making: the slot PREPARING with it (R161). -/
def prepareReply (p : Port) (r : Reply) (s : State) : State :=
  s.modPort p fun x => { x with slot := .preparing (some r) }

/-- R163 on a framed request: authority, then parameter length, then the owning block. -/
def examine (p : Port) (c : RequestCode) (params : List Byte) (body : State → State × Answer) (s : State) :
    State × Answer :=
  if !authorised s p c then (s, plain .refusedAuthority)
  else if !lengthOk c params.length then (s, plain .refusedParam)
  else body s

/-- A request at its chip-select rise (R161). In a transaction begun on READY the held reply is consumed, the
request is taken, and its reply is in the making. In a transaction begun on PREPARING, or cut by a reset, the
request is discarded unexamined. Without a transaction no chip-select rise can come (log 3). -/
def takeRequest (p : Port) (c : RequestCode) (tag : BitVec 4) (params : List Byte)
    (body : State → State × Answer) (s : State) : State :=
  match (s.port p).txn with
  | .none => s
  | .onPreparing | .cut => endTransaction p s
  | .onReady =>
    let (s1, a) := examine p c params body s
    prepareReply p { status := a.status, code := codeByte c, tag := tag, payload := a.payload } (endTransaction p s1)

/-- A request that changes no state: its answer is formed from the state as it stands. -/
def readOnly (f : State → Answer) (s : State) : State × Answer := (s, f s)

end Sys2Proof.Machine
end

