-- ==== Sys2Proof/Machine/Pixels.lean ====
section
/-! DEFINITION. From the pixels of a completed frame to the codes of an output frame (R56 to R60, R67, R68). -/

namespace Sys2Proof.Machine

/-- The luminance of sensor pixel (x, y) of a frame. In a synthetic frame it is the value of the pixel's tile (R19). -/
def luminance (img : Image) (x y : Nat) : Nat :=
  match img with
  | .camera rows => ((rows.getD y []).getD x 0).toNat
  | .synthetic values => values.getD (16 * (y / 120) + x / 120) 0

/-- R57: the pixel gain of (x, y), interpolated from a copy of the 192 applied gains. -/
def pixelGain (ga : List Nat) (x y : Nat) : Nat :=
  let xc := clampNat x 60 1860
  let yc := clampNat y 60 1380
  let c0 := min ((xc - 60) / 120) 14
  let r0 := min ((yc - 60) / 120) 10
  let dx := xc - (120 * c0 + 60)
  let dy := yc - (120 * r0 + 60)
  let g := fun c r => ga.getD (16 * r + c) 256
  ((120 - dx) * (120 - dy) * g c0 r0 + dx * (120 - dy) * g (c0 + 1) r0
    + (120 - dx) * dy * g c0 (r0 + 1) + dx * dy * g (c0 + 1) (r0 + 1) + 7200) / 14400

/-- R58: the compressed luminance of a pixel of luminance y and gain gp. -/
def compress (kneeIn y gp : Nat) : Nat := if y ≤ kneeIn then y else kneeIn + (y - kneeIn) * gp / 256

/-- The largest d of 0..bound with d × d at most n. -/
def rootUpTo : Nat → Nat → Nat
  | 0, _ => 0
  | d + 1, n => if (d + 1) * (d + 1) ≤ n then d + 1 else rootUpTo d n

/-- R59: the square-root code of a compressed luminance, min(255, floor(sqrt(16 y))). -/
def codeOf (y : Nat) : Nat := rootUpTo 255 (16 * y)

/-- R56 to R58: the compressed luminance of sensor pixel (x, y). -/
def dimmed (kneeIn : Nat) (ga : List Nat) (img : Image) (x y : Nat) : Nat :=
  compress kneeIn (luminance img x y) (pixelGain ga x y)

/-- R59: the code of a far-view pixel. -/
def farCode (kneeIn : Nat) (ga : List Nat) (img : Image) (x y : Nat) : Nat := codeOf (dimmed kneeIn ga img x y)

/-- R60: the code of wide pixel (i, j). -/
def wideCode (kneeIn : Nat) (ga : List Nat) (img : Image) (i j : Nat) : Nat :=
  let d := dimmed kneeIn ga img
  codeOf ((d (2 * i) (2 * j) + d (2 * i + 1) (2 * j) + d (2 * i) (2 * j + 1) + d (2 * i + 1) (2 * j + 1)) / 4)

/-- R67: the code at column u, row v of a composed frame of origin (ox, oy), mirrored in position. -/
def composedCode (kneeIn : Nat) (ga : List Nat) (img : Image) (ox oy u v : Nat) : Nat :=
  if v < 720 then farCode kneeIn ga img (ox + 959 - u) (oy + v)
  else wideCode kneeIn ga img (959 - u) (v - 720)

/-- A raster of 960 columns by 1440 rows in scan order: row by row, each row from column 0 (R67). -/
def raster (code : Nat → Nat → Nat) : List Byte :=
  (List.range 1440).flatMap fun v => (List.range 960).map fun u => BitVec.ofNat 8 (code u v)

/-- R67: the codes of a composed frame in scan order. -/
def composeCodes (kneeIn : Nat) (ga : List Nat) (img : Image) (ox oy : Nat) : List Byte :=
  raster fun u v => composedCode kneeIn ga img ox oy u v

/-- R68: the black frame. -/
def blackCodes : List Byte := raster fun _ _ => 0

/-- R68: the code of the invalid-view pattern at column u, row v. -/
def patternCode (u v : Nat) : Nat := if ((2 * v : Nat) - (3 * u : Nat) : Int).natAbs ≤ 120 then 0 else 64

/-- R68: the invalid-view pattern. -/
def invalidCodes : List Byte := raster patternCode

end Sys2Proof.Machine
end

