-- ==== Sys2Proof/Machine/View.lean ====
section
/-! DEFINITION. The View Composer (chapter 4): far-window pan, the decision of step 2, the output frame, the offer of
a completed frame, and SET_VIEW_OFFSET. -/

namespace Sys2Proof.Machine

/-! ### Step 1: the far window (R69 to R72) -/

/-- R70: the computed trailer term of a side for a trailer angle in half-degrees. -/
def computedTrailer (k : Calibration) (sd : Side) (a : Int) : Nat :=
  match sd with
  | .right => (geometryOf k sd).panGain * a.toNat / 2
  | .left => (geometryOf k sd).panGain * (-a).toNat / 2

/-- R70: the working trailer term after step 1. -/
def nextTrailer (k : Calibration) (sd : Side) (angle : Option Int) (old : Nat) : Nat :=
  match angle with
  | some a => computedTrailer k sd a
  | none => old - (geometryOf k sd).panReturn

/-- R69: the target of one axis before its clamp. -/
def rawTargetX (k : Calibration) (sd : Side) (x : Composer) (trailer : Nat) : Int :=
  (geometryOf k sd).x0 + x.driverDx + trailer

/-- R69: the target of the other axis before its clamp. -/
def rawTargetY (k : Calibration) (sd : Side) (x : Composer) (reverse : Bool) : Int :=
  (geometryOf k sd).y0 + x.driverDy + if reverse then (geometryOf k sd).reverseDy else 0

/-- R72: one axis moved toward its target by at most the slew. -/
def slewAxis (slew cur target : Nat) : Nat :=
  if cur ≤ target then (if target - cur ≤ slew then target else cur + slew)
  else if cur - target ≤ slew then target else cur - slew

/-- R69 to R72: step 1 of an output frame start. -/
def stepWindow (k : Calibration) (sd : Side) (angle : Option Int) (reverse : Bool) (x : Composer) : Composer :=
  let trailer := nextTrailer k sd angle x.trailer
  let rx := rawTargetX k sd x trailer
  let ry := rawTargetY k sd x reverse
  let tx := (clampInt rx 0 960).toNat
  let ty := (clampInt ry 0 720).toNat
  { x with
    trailer := trailer, targetX := tx, targetY := ty
    panLimited := decide ((tx : Int) ≠ rx) || decide ((ty : Int) ≠ ry)
    originX := if x.firstFrame then tx else slewAxis (geometryOf k sd).panSlew x.originX tx
    originY := if x.firstFrame then ty else slewAxis (geometryOf k sd).panSlew x.originY ty
    firstFrame := false }

/-- Step 1 with the vehicle state as it presents itself (R69, R105). -/
def windowStep (sd : Side) (s : State) : State :=
  s.modView sd (stepWindow s.cal sd (presentedAngle s) (presentedReverse s))

/-! ### Step 2: the view state (R74 to R76, R78) -/

/-- What step 3 forms. -/
inductive Output where
  | compose
  | black
  | hold
  | pattern
deriving DecidableEq, Repr

/-- R66: a newer frame: the slot holds a frame with the fresh mark set. -/
def newerFrame (x : Composer) : Bool := x.fresh && x.slot.isSome

/-- A raise of STALE_VIEW, which sets the recover count to 0 (R79). -/
def raiseStale (sd : Side) (detail : BitVec 16) (s : State) : State :=
  sendRaise .staleView (faultSideOf sd) detail (s.modView sd fun x => { x with recoverCount := 0 })

/-- The slot's frame taken in LIVE: state LIVE, held count 0, fresh mark cleared (R66, R74 to R76). -/
def takeLive (sd : Side) (s : State) : State :=
  (changeView sd .live s).modView sd fun x => { x with heldCount := 0, fresh := false }

/-- R74: step 2 in STARTING. -/
def decideStarting (sd : Side) (s : State) : State × Output :=
  let x := (s.side sd).view
  if viewLossActive s.table sd then (enterInvalid sd s, .pattern)
  else if newerFrame x then (takeLive sd s, .compose)
  else if s.cal.integrity.startLimit ≤ x.startCount + 1 then (raiseStale sd 1 (enterInvalid sd s), .pattern)
  else (s.modView sd fun x => { x with startCount := x.startCount + 1 }, .black)

/-- R75: step 2 in LIVE and in HOLDING; the held count is 0 in LIVE. -/
def decideShowing (sd : Side) (s : State) : State × Output :=
  let x := (s.side sd).view
  if newerFrame x then (takeLive sd s, .compose)
  else
    let held := (match x.state with | .live => 0 | _ => x.heldCount) + 1
    let s1 := s.modView sd fun x => { x with heldCount := held }
    if s.cal.integrity.holdLimit ≤ held then (raiseStale sd 0 (enterInvalid sd s1), .pattern)
    else ((changeView sd .holding s1).modView sd fun x => { x with framesHeld := x.framesHeld + 1 }, .hold)

/-- R76: step 2 in INVALID. -/
def decideInvalid (sd : Side) (s : State) : State × Output :=
  let x := (s.side sd).view
  if viewLossActive s.table sd then (s.modView sd fun x => { x with startCount := 0 }, .pattern)
  else if newerFrame x then (takeLive sd s, .compose)
  else if s.cal.integrity.startLimit ≤ x.startCount + 1 then
    (raiseStale sd 1 (s.modView sd fun x => { x with startCount := 0 }), .pattern)
  else (s.modView sd fun x => { x with startCount := x.startCount + 1 }, .pattern)

/-- R78: step 2 in TEST. -/
def decideTest (sd : Side) (s : State) : State × Output :=
  let x := (s.side sd).view
  if newerFrame x then (s.modView sd fun x => { x with fresh := false, testComposed := true }, .compose)
  else if x.testComposed then (s, .hold)
  else (s, .black)

/-- Step 2 of an output frame start. -/
def decideView (sd : Side) (s : State) : State × Output :=
  match (s.side sd).view.state with
  | .starting => decideStarting sd s
  | .live | .holding => decideShowing sd s
  | .invalid => decideInvalid sd s
  | .test => decideTest sd s

/-! ### Step 3: the output frame (R67, R68) -/

/-- The applied gains of a side, tile 0 first: the copy that the composer takes (R55). -/
def appliedGains (g : GlareMap) : List Nat := g.tiles.map (·.ga)

/-- R67: the codes composed from the slot's frame, with the origin of step 1 and the glare map. -/
def composeSlot (sd : Side) (s : State) : List Byte :=
  let x := s.side sd
  match x.view.slot with
  | none => blackCodes
  | some f => composeCodes s.cal.image.kneeIn (appliedGains x.glare) f.image x.view.originX x.view.originY

/-- The output frame of step 3, and the state with the last composed frame kept. A repeat with no last composed
frame, which no run reaches, is black. -/
def formOutput (sd : Side) (o : Output) (s : State) : State × List Byte :=
  match o with
  | .compose =>
    (s.modView sd fun x => { x with lastComposed := some (composeSlot sd s) }, composeSlot sd s)
  | .black => (s, blackCodes)
  | .hold => (s, (s.side sd).view.lastComposed.getD blackCodes)
  | .pattern => (s, invalidCodes)

/-! ### Stage 6 of frame completion (R65, R79) -/

/-- Whether a frame is a camera frame. -/
def isCamera : Image → Bool
  | .camera _ => true
  | .synthetic _ => false

/-- R65: the offer of a completed frame. -/
def offerFrame (f : AcceptedFrame) (x : Composer) : Composer :=
  if isCamera f.image = decide (x.state ≠ .test) then
    { x with slot := some { image := f.image, number := f.number }, fresh := true }
  else x

/-- R79: the recover count after an accepted camera frame of number n. -/
def nextRecover (limit : Nat) (n : FrameNumber) (x : Composer) : Nat :=
  if x.lastRecovered = some (n - 1) then min (x.recoverCount + 1) limit else 1

/-- R79: the recover count taken, and STALE_VIEW cleared when it reaches RECOVER_FRAMES from below. -/
def countRecover (sd : Side) (n : FrameNumber) (s : State) : State :=
  let x := (s.side sd).view
  let limit := s.cal.integrity.recoverFrames
  let run := nextRecover limit n x
  let s1 := s.modView sd fun x => { x with recoverCount := run, lastRecovered := some n }
  if x.recoverCount < limit ∧ run = limit then sendClear .staleView (faultSideOf sd) s1 else s1

/-- Stage 6 of an accepted frame (R24, R65, R79). -/
def stageOffer (sd : Side) (f : AcceptedFrame) (s : State) : State :=
  let s1 := s.modView sd (offerFrame f)
  if isCamera f.image then countRecover sd f.number s1 else s1

/-! ### SET_VIEW_OFFSET -/

/-- R73: SET_VIEW_OFFSET(sides, dx, dy). -/
def setViewOffset (ps : List Byte) (s : State) : State × Answer :=
  match sidesOfParam (param ps 0) with
  | none => (s, plain .refusedParam)
  | some sides =>
    let dx := signedOf16 (field ps 1 2)
    let dy := signedOf16 (field ps 3 2)
    let cx := clampInt dx (-960) 960
    let cy := clampInt dy (-720) 720
    (sides.foldl (fun s sd => s.modView sd fun x => { x with driverDx := cx, driverDy := cy }) s,
      plain (okIf (decide (cx ≠ dx ∨ cy ≠ dy))))

/-- SET_VIEW_OFFSET (R73). -/
def execSetViewOffset (p : Port) (tag : BitVec 4) (ps : List Byte) (s : State) : Host.Outcome State Fault Refusal :=
  .next (takeRequest p .setViewOffset tag ps (setViewOffset ps) s)

end Sys2Proof.Machine
end

