-- ==== Sys2Proof/Machine/Display.lean ====
section
/-! DEFINITION. The Display Link Transmitter (chapter 5): negotiation, tags and signatures, monitor flags, backlight;
the output frame start, whose last step is the DLT's; and SET_BRIGHTNESS. -/

namespace Sys2Proof.Machine

/-- The state after a function, while the blocks run; unchanged while a reset holds them (R174, R181). -/
def whileRunning (f : State → State) (s : State) : State := if blocksRun s.phase then f s else s

/-! ### Negotiation (R85 to R92) -/

/-- The ability that a monitor word carries: bit 0 M60, bit 1 M30, bit 2 signature support; bits 4..7 are ignored
(R84, 11 section 11.6). -/
def abilityOf (w : Byte) : Ability := { m60 := w.getLsbD 0, m30 := w.getLsbD 1, signature := w.getLsbD 2 }

/-- The ack of an ability word: bit 3. -/
def ackOf (w : Byte) : Bool := w.getLsbD 3

/-- R86: entry into OFFER from DOWN. -/
def enterOffer (d : Dlt) : Dlt :=
  { d with state := .offer, reference := none, run := 0, negTimer := true, retry := false }

/-- R91: what every departure from UP does to the DLT; a frame in transmission is cut off. -/
def departUp (d : Dlt) : Dlt :=
  { d with chosen := none, sent := [], mismatchRun := 0, matchRun := 0, forward := .nothing }

/-- R91: the raise of DISP_LINK with its cause, and the DISPLAY notice of both masters. -/
def raiseLink (sd : Side) (cause : BitVec 16) (s : State) : State :=
  notifyBoth .display (sendRaise .dispLink (faultSideOf sd) cause s)

/-- R85, R86: the back channel locks; OFFER is entered from DOWN, the only state of an unlocked channel. -/
def backLockAcquired (sd : Side) (s : State) : State :=
  if (s.side sd).dlt.locked then s
  else s.modDlt sd fun d => enterOffer { d with locked := true }

/-- BACK_CHANNEL_LOCK_ACQUIRED (R85, R86). -/
def execBackChannelLockAcquired (sd : Side) (s : State) : Host.Outcome State Fault Refusal :=
  .next (whileRunning (backLockAcquired sd) s)

/-- R85: the effects of a loss of lock on the DLT, from any state; in DOWN nothing is sent (R86). -/
def loseLock (d : Dlt) : Dlt :=
  let d1 := { d with locked := false, state := .down, negTimer := false, failedTimer := false, reference := none
                     run := 0, retry := false, forward := .nothing }
  if d.state = .up then departUp d1 else d1

/-- R85, R91: the back channel loses lock. -/
def backLockLost (sd : Side) (s : State) : State :=
  let d := (s.side sd).dlt
  if !d.locked then s
  else
    let s1 := s.modDlt sd loseLock
    if d.state = .up then raiseLink sd 1 s1 else s1

/-- BACK_CHANNEL_LOCK_LOST (R85, R91). -/
def execBackChannelLockLost (sd : Side) (s : State) : Host.Outcome State Fault Refusal :=
  .next (whileRunning (backLockLost sd) s)

/-- R87, R89: entry into FAILED; the ability word is sent in OFFER and CONFIRM alone (R87, R88). -/
def enterFailed (d : Dlt) : Dlt :=
  { d with state := .failed, negTimer := false, failedTimer := true, forward := .nothing }

/-- R87: the consistency run after a monitor word in OFFER. -/
def countWord (a : Ability) (d : Dlt) : Dlt :=
  if d.reference = some a then { d with run := d.run + 1 } else { d with reference := some a, run := 1 }

/-- R87: a monitor word in OFFER; at a run of 3 the word is examined. -/
def wordInOffer (sd : Side) (a : Ability) (s : State) : State :=
  let s1 := s.modDlt sd (countWord a)
  if (s1.side sd).dlt.run < 3 then s1
  else if !a.signature then raiseLink sd 3 (s1.modDlt sd enterFailed)
  else if !(a.m60 || a.m30) then raiseLink sd 4 (s1.modDlt sd enterFailed)
  else s1.modDlt sd fun d => { d with confirmed := some a, state := .confirm }

/-- R90: entry into UP. -/
def enterUp (a : Ability) (d : Dlt) : Dlt :=
  { d with state := .up, chosen := some (if a.m60 then .m60 else .m30), negTimer := false, upDeadline := false
           mismatchRun := 0, matchRun := 0, sent := [] }

/-- R88: a monitor word in CONFIRM. -/
def wordInConfirm (sd : Side) (a : Ability) (ack : Bool) (s : State) : State :=
  if (s.side sd).dlt.confirmed = some a then
    if ack then sendClear .dispLink (faultSideOf sd) (s.modDlt sd (enterUp a)) else s
  else s.modDlt sd fun d => { d with state := .offer, reference := some a, run := 1, confirmed := none }

/-- R91: a monitor word in UP. -/
def wordInUp (sd : Side) (a : Ability) (s : State) : State :=
  if (s.side sd).dlt.confirmed = some a then s
  else raiseLink sd 2 (s.modDlt sd fun d =>
    { departUp d with state := .offer, reference := some a, run := 1, negTimer := true })

/-- A monitor ability word (R86 to R88, R91): received only in LOCKED; discarded in DOWN and FAILED. -/
def monitorWord (sd : Side) (w : Byte) (s : State) : State :=
  let d := (s.side sd).dlt
  if !d.locked then s
  else match d.state with
    | .down | .failed => s
    | .offer => wordInOffer sd (abilityOf w) s
    | .confirm => wordInConfirm sd (abilityOf w) (ackOf w) s
    | .up => wordInUp sd (abilityOf w) s

/-- MONITOR_ABILITY_WORD (R87, R88, R91). -/
def execMonitorAbilityWord (sd : Side) (w : Byte) (s : State) : Host.Outcome State Fault Refusal :=
  .next (whileRunning (monitorWord sd w) s)

/-- R89: the negotiation timer runs out in OFFER or CONFIRM; in DOWN nothing is sent (R86). -/
def negotiationExpiry (d : Dlt) : Dlt :=
  if d.negTimer ∧ (d.state = .offer ∨ d.state = .confirm) then
    { d with state := .down, negTimer := false, reference := none, confirmed := none, run := 0, retry := d.locked
             forward := .nothing }
  else d

/-- NEGOTIATION_TIMER_EXPIRY (R89). -/
def execNegotiationTimerExpiry (sd : Side) (s : State) : Host.Outcome State Fault Refusal :=
  .next (whileRunning (fun s => s.modDlt sd negotiationExpiry) s)

/-- R89: the failed timer runs out in FAILED. -/
def failedExpiry (d : Dlt) : Dlt :=
  if d.failedTimer ∧ d.state = .failed then { d with state := .down, failedTimer := false, retry := d.locked }
  else d

/-- FAILED_TIMER_EXPIRY (R89). -/
def execFailedTimerExpiry (sd : Side) (s : State) : Host.Outcome State Fault Refusal :=
  .next (whileRunning (fun s => s.modDlt sd failedExpiry) s)

/-- R92: the up deadline runs out: DISP_LINK with detail 5. -/
def upDeadlineExpiry (sd : Side) (s : State) : State :=
  if (s.side sd).dlt.upDeadline then raiseLink sd 5 (s.modDlt sd fun d => { d with upDeadline := false }) else s

/-- UP_DEADLINE_EXPIRY (R92). -/
def execUpDeadlineExpiry (sd : Side) (s : State) : Host.Outcome State Fault Refusal :=
  .next (whileRunning (upDeadlineExpiry sd) s)

/-! ### Tags and signatures (R93 to R95) -/

/-- R95: a counted mismatch. -/
def countMismatch (sd : Side) (s : State) : State :=
  let run := min ((s.side sd).dlt.mismatchRun + 1) 255
  let s1 := s.modDlt sd fun d =>
    { d with sigMismatches := d.sigMismatches + 1, mismatchRun := run, matchRun := 0 }
  if s.cal.integrity.sigLimit ≤ run then
    sendRaise .dispSignature (faultSideOf sd) (BitVec.ofNat 16 run) s1
  else s1

/-- R95: a counted match; DISP_SIGNATURE is cleared when the match run reaches 30 from below. -/
def countMatch (sd : Side) (s : State) : State :=
  let run := (s.side sd).dlt.matchRun
  let s1 := s.modDlt sd fun d => { d with mismatchRun := 0, matchRun := min (run + 1) 30 }
  if run = 29 then sendClear .dispSignature (faultSideOf sd) s1 else s1

/-- R94: the signature match of a frame return: entries older than the found one are removed, each counted as a
mismatch, oldest first; then the found entry is compared and removed. -/
def matchReturn (sd : Side) (tag : Byte) (sig : BitVec 32) (s : State) : State :=
  let sent := (s.side sd).dlt.sent
  match sent.dropWhile fun e => !(e.tag == tag) with
  | [] => countMismatch sd s
  | e :: rest =>
    let older := sent.takeWhile fun e => !(e.tag == tag)
    let s1 := s.modDlt sd fun d => { d with sent := rest }
    let s2 := older.foldl (fun s _ => countMismatch sd s) s1
    if e.signature = sig then countMatch sd s2 else countMismatch sd s2

/-- R96: the readings of a return stored, and its flags examined. -/
def monitorFlags (sd : Side) (ambient actual flags : BitVec 16) (s : State) : State :=
  let s1 := s.modDlt sd fun d => { d with ambient := some ambient, actual := some actual }
  if flags = 0 then sendClear .monitorFault (faultSideOf sd) s1
  else sendRaise .monitorFault (faultSideOf sd) flags s1

/-- R97 step 1: the curve's level for an ambient reading below the last point and above the first. -/
def curveSegment (a : Nat) : List CurvePoint → Nat
  | p :: q :: rest =>
    if p.lux ≤ a ∧ a < q.lux then
      ((p.level : Int) + (((q.level : Int) - p.level) * ((a : Int) - p.lux)).fdiv ((q.lux : Int) - p.lux)).toNat
    else curveSegment a (q :: rest)
  | [p] => p.level
  | [] => 0

/-- R97 step 1: the base level for an ambient reading. -/
def curveLevel (pts : List CurvePoint) (a : Nat) : Nat :=
  match pts with
  | [] => 0
  | p :: _ => if a ≤ p.lux then p.level else curveSegment a pts

/-- R97: the backlight command. -/
def backlightCommand (k : ImageCal) (mode : DayNight) (pref a : Nat) : Nat :=
  let cmd := curveLevel k.curve a * pref / 100
  max (if mode = .night then min cmd k.blNightMax else cmd) k.blMin

/-- R97: step 3 of a frame return. -/
def setBacklight (sd : Side) (ambient : BitVec 16) (s : State) : State :=
  let x := s.side sd
  s.modDlt sd fun d =>
    { d with blCommand := backlightCommand s.cal.image x.expo.dayNight d.pref ambient.toNat }

/-- R94: a frame return: taken in UP in three steps, discarded whole in any other state. -/
def takeReturn (sd : Side) (tag : Byte) (sig : BitVec 32) (ambient actual flags : BitVec 16) (s : State) : State :=
  let d := (s.side sd).dlt
  if d.locked ∧ d.state = .up then
    setBacklight sd ambient (monitorFlags sd ambient actual flags (matchReturn sd tag sig s))
  else s

/-- FRAME_RETURN (R94). -/
def execFrameReturn (sd : Side) (tag : Byte) (sig : BitVec 32) (ambient actual flags : BitVec 16) (s : State) :
    Host.Outcome State Fault Refusal :=
  .next (whileRunning (takeReturn sd tag sig ambient actual flags) s)

/-! ### The output frame start (R64, R86, R93, R98) -/

/-- R98: the sent level moved toward the command by at most BL_RAMP. -/
def rampLevel (ramp sent command : Nat) : Nat :=
  if sent ≤ command then (if command - sent ≤ ramp then command else sent + ramp)
  else if sent - command ≤ ramp then command else sent - ramp

/-- R93 in UP: the frame gets the next tag and its signature, joins the list, and is sent with the level of R98. -/
def sendFrame (ramp : Nat) (codes : List Byte) (d : Dlt) : Dlt :=
  let tag := d.tagCounter + 1
  let level := rampLevel ramp d.blSent d.blCommand
  { d with
    tagCounter := tag, blSent := level, sent := d.sent ++ [{ tag := tag, signature := crc32 codes }]
    forward := .outputFrame tag level codes }

/-- R93: with five entries the oldest is removed and counted as a mismatch. -/
def pushOutSent (sd : Side) (s : State) : State :=
  match (s.side sd).dlt.sent with
  | _ :: rest =>
    if 4 ≤ rest.length then countMismatch sd (s.modDlt sd fun d => { d with sent := rest }) else s
  | [] => s

/-- R86: with the retry mark set, DOWN is left for OFFER at an output frame start. -/
def retryOffer (d : Dlt) : Dlt := if d.state = .down ∧ d.retry then enterOffer d else d

/-- R93, R87, R88: the DLT takes an output frame. The push-out comes at the append, before the frame is sent. -/
def takeFrame (sd : Side) (codes : List Byte) (s : State) : State :=
  match (s.side sd).dlt.state with
  | .up => pushOutSent sd (s.modDlt sd (sendFrame s.cal.image.blRamp codes))
  | .offer => s.modDlt sd fun d => { d with forward := .abilityWord false }
  | .confirm => s.modDlt sd fun d => { d with forward := .abilityWord true }
  | .down | .failed => s.modDlt sd fun d => { d with forward := .nothing }

/-- R64: an output frame start: the far window, the view state, the output frame handed to the DLT. -/
def outputStart (sd : Side) (s : State) : State :=
  let (s1, o) := decideView sd (windowStep sd s)
  let (s2, codes) := formOutput sd o s1
  takeFrame sd codes (s2.modDlt sd retryOffer)

/-- OUTPUT_FRAME_START (R64). -/
def execOutputFrameStart (sd : Side) (s : State) : Host.Outcome State Fault Refusal :=
  .next (whileRunning (outputStart sd) s)

/-! ### SET_BRIGHTNESS -/

/-- R99: SET_BRIGHTNESS(sides, pref). -/
def setBrightness (ps : List Byte) (s : State) : State × Answer :=
  match sidesOfParam (param ps 0) with
  | none => (s, plain .refusedParam)
  | some sides =>
    let sent := param ps 1
    let pref := clampNat sent 10 100
    (sides.foldl (fun s sd => s.modDlt sd fun d => { d with pref := pref }) s, plain (okIf (decide (pref ≠ sent))))

/-- SET_BRIGHTNESS (R99). -/
def execSetBrightness (p : Port) (tag : BitVec 4) (ps : List Byte) (s : State) : Host.Outcome State Fault Refusal :=
  .next (takeRequest p .setBrightness tag ps (setBrightness ps) s)

end Sys2Proof.Machine
end

