-- ==== Sys2Proof/Machine/Exposure.lean ====
section
/-! DEFINITION. The Exposure Controller (02 sections 2.4 to 2.7) and the CLR's back-channel transmitter (R15):
metering, the exposure decision, commands and their confirmation, day and night, and the two requests that set
the exposure mode and the night policy. -/

namespace Sys2Proof.Machine

/-! ### Back-channel transmitter (R15) -/

/-- R15: a command handed to the transmitter. -/
def handCommand (c : Command) (k : Clr) : Clr :=
  if !k.locked then k
  else if k.sending.isNone then { k with sending := some c }
  else { k with waiting := some c }

/-- R15: the transmission of the command in transmission ends. -/
def transmissionDone (k : Clr) : Clr :=
  if k.sending.isNone then k else { k with sending := k.waiting, waiting := none }

/-! ### Metering (R30) -/

/-- The weight used for tile t: W_t where the tile's applied gain is 256, else 0. -/
def usedWeight (weights : List Nat) (g : GlareMap) (t : Nat) : Nat :=
  if (g.tiles.getD t unityTile).ga = 256 then weights.getD t 0 else 0

/-- The metered level M (R30). -/
def meteredLevel (weights : List Nat) (g : GlareMap) (st : Stats) : Nat :=
  let total := ((List.range Config.tiles).map fun t => usedWeight weights g t).sum
  if total = 0 then st.fmean
  else ((List.range Config.tiles).map fun t =>
    usedWeight weights g t * (st.tiles.getD t ⟨0, 0, 0⟩).mean).sum / total

/-- The scene level L (R30). -/
def sceneLevel (m eRep : Nat) : Nat := min (m * 65536 / eRep) 16777215

/-! ### The exposure decision (R31, R32) -/

/-- R32: an exposure split into a command. -/
def splitExposure (k : ImageCal) (e : Nat) : Nat × Nat :=
  let t := clampNat (e / 16) 1 k.tMax
  let g := clampNat (e / t) 16 256
  if t * g < k.eMin then (1, k.eMin) else (t, g)

/-- R31 step 1: the dead band. -/
def inDeadBand (k : ImageCal) (m : Nat) : Bool := decide (((m : Int) - k.tgt).natAbs * 16 ≤ k.tgt)

/-- R31 steps 2 to 4: the exposure requested. -/
def requestedExposure (k : ImageCal) (m eRep : Nat) : Nat :=
  clampNat (clampNat (eRep * k.tgt / max m 1) (eRep / 2) (2 * eRep)) k.eMin k.eMax

/-- The exposure that stage 3 of a camera frame issues, if any (R31, R33, 02 section 2.5). -/
def decideExposure (k : ImageCal) (x : Exposure) (m eRep : Nat) : Option (Nat × Nat) :=
  match x.mode with
  | .auto => if inDeadBand k m then none else some (splitExposure k (requestedExposure k m eRep))
  | .hold => none
  | .manual => if x.manualSend then x.manual else none

/-! ### Commands (R35 to R38) -/

/-- Whether a tag may not be issued: it is the last reported tag, or the tag of a pending entry (R35 step 1). -/
def tagTaken (x : Exposure) (tag : BitVec 4) : Bool :=
  x.lastReported == some (tag.setWidth 8) || x.commands.any fun e => e.tag == tag

/-- R35 step 1: the next tag: the last issued tag plus 1, and on until it is free. -/
def nextTag (x : Exposure) : BitVec 4 :=
  let candidates := (List.range 16).map fun i => x.lastIssued + 1 + BitVec.ofNat 4 i
  (candidates.find? fun t => !tagTaken x t).getD (x.lastIssued + 1)

/-- An entry counts as unconfirmed (R37): the confirmed run becomes 0, and EXPOSURE_TRACK is raised with its tag. -/
def countUnconfirmed (sd : Side) (tag : BitVec 4) (s : State) : State :=
  sendRaise .exposureTrack (faultSideOf sd) (tag.setWidth 16) (s.modExpo sd fun x => { x with confirmedRun := 0 })

/-- An entry is confirmed (R36): the run advances to at most 30, and EXPOSURE_TRACK is cleared when it reaches 30
from below (R38). -/
def countConfirmed (sd : Side) (s : State) : State :=
  let run := (s.side sd).expo.confirmedRun
  let s1 := s.modExpo sd fun x => { x with confirmedRun := min (run + 1) 30 }
  if run = 29 then sendClear .exposureTrack (faultSideOf sd) s1 else s1

/-- R35 steps 1 and 2 on the controller: the tag taken and the entry appended. -/
def appendCommand (n : FrameNumber) (t g : Nat) (x : Exposure) : Exposure :=
  let tag := nextTag x
  { x with lastIssued := tag, commands := x.commands ++ [{ tag := tag, t := t, g := g, due := n + 3 }] }

/-- R35 step 3: with four entries the oldest is pushed out and counts as unconfirmed. -/
def pushOutCommand (sd : Side) (s : State) : State :=
  match (s.side sd).expo.commands with
  | oldest :: rest =>
    if rest.length = 3 then countUnconfirmed sd oldest.tag (s.modExpo sd fun x => { x with commands := rest })
    else s
  | [] => s

/-- R35: a command issued for a camera frame of number n. -/
def issueCommand (sd : Side) (n : FrameNumber) (t g : Nat) (s : State) : State × Command :=
  let c : Command := { tag := nextTag (s.side sd).expo, t := t, g := g }
  let s1 := pushOutCommand sd (s.modExpo sd (appendCommand n t g))
  (s1.modClr sd (handCommand c), c)

/-- Whether an entry is late at a report of frame f (R37). -/
def isLate (f : FrameNumber) (e : PendingCommand) : Bool :=
  decide (2 ≤ (f - e.due).toNat) && decide ((f - e.due).toNat ≤ 32767)

/-- R36: the entry with the reported tag is looked for: older entries are superseded, the found one is confirmed,
or unconfirmed where the camera's exposure differs. -/
def confirmCommand (sd : Side) (a : Byte) (t g : Nat) (s : State) : State :=
  match (s.side sd).expo.commands.dropWhile fun e => !(e.tag.setWidth 8 == a) with
  | [] => s
  | e :: rest =>
    let s1 := s.modExpo sd fun x => { x with commands := rest }
    if e.t = t ∧ e.g = g then countConfirmed sd s1 else countUnconfirmed sd e.tag s1

/-- R37: late entries are removed and count as unconfirmed. Several at one report send their raises in list order, the
oldest first (DESIGN CHOICE, log 23: R37 examines each entry and names no order). -/
def dropLate (sd : Side) (f : FrameNumber) (s : State) : State :=
  let late := (s.side sd).expo.commands.filter (isLate f)
  late.foldl (fun s e => countUnconfirmed sd e.tag s)
    (s.modExpo sd fun x => { x with commands := x.commands.filter fun e => !isLate f e })

/-- R36, R37: a header report of frame f. -/
def headerReport (sd : Side) (f : FrameNumber) (a : Byte) (t g : Nat) (s : State) : State :=
  dropLate sd f ((confirmCommand sd a t g s).modExpo sd fun x => { x with lastReported := some a })

/-- Stage 3 of an accepted frame (R24): metering, then the decision, then the command if one is issued. While the
TEST flag is set the controller issues no command of its own (R20), so that a manual exposure waits for the first camera
frame after the test (R33). -/
def stageExposure (sd : Side) (f : AcceptedFrame) (s : State) : State × Option Command :=
  let x := s.side sd
  let m := meteredLevel (weightsOf s.cal sd) x.glare x.stats
  let s1 := s.modExpo sd fun e => { e with m := m, l := sceneLevel m (f.tRep * f.gRep) }
  match f.image, x.testFlag with
  | .synthetic _, _ | .camera _, true => (s1, none)
  | .camera _, false =>
    match decideExposure s.cal.image x.expo m (f.tRep * f.gRep) with
    | none => (s1, none)
    | some (t, g) =>
      let s2 := s1.modExpo sd fun e =>
        if e.mode = .manual then { e with manualSend := false } else e
      let (s3, c) := issueCommand sd f.number t g s2
      (s3, some c)

/-! ### Day and night (R39 to R41) -/

/-- R40: a change of mode: on NIGHT to DAY the map snaps to unity (R52); the NIGHT notice of Port C is set. -/
def changeMode (sd : Side) (m : DayNight) (s : State) : State :=
  let s1 := s.modExpo sd fun x => { x with dayNight := m }
  let s2 := if m = .day then s1.modGlare sd fun _ => unityMap else s1
  notify .c .night s2

/-- R39: the runs under policy AUTO on a camera frame. -/
def autoDayNight (sd : Side) (s : State) : State :=
  let x := (s.side sd).expo
  let k := s.cal.image
  match x.dayNight with
  | .day =>
    if x.l < k.nightEnter then
      if k.nightFrames ≤ x.nightRun + 1 then
        changeMode sd .night (s.modExpo sd fun x => { x with nightRun := 0, dayRun := 0 })
      else s.modExpo sd fun x => { x with nightRun := x.nightRun + 1 }
    else s.modExpo sd fun x => { x with nightRun := 0 }
  | .night =>
    if k.nightExit < x.l then
      if k.dayFrames ≤ x.dayRun + 1 then
        changeMode sd .day (s.modExpo sd fun x => { x with nightRun := 0, dayRun := 0 })
      else s.modExpo sd fun x => { x with dayRun := x.dayRun + 1 }
    else s.modExpo sd fun x => { x with dayRun := 0 }

/-- R41: a forced mode. -/
def forceMode (sd : Side) (m : DayNight) (s : State) : State :=
  if (s.side sd).expo.dayNight = m then s else changeMode sd m s

/-- Stage 4 of an accepted frame (R24, R39, R41). -/
def stageDayNight (sd : Side) (f : AcceptedFrame) (s : State) : State :=
  match (s.side sd).expo.policy with
  | .forceDay => forceMode sd .day s
  | .forceNight => forceMode sd .night s
  | .auto =>
    match f.image with
    | .synthetic _ => s
    | .camera _ => autoDayNight sd s

/-! ### SET_EXPOSURE_MODE and SET_NIGHT_POLICY -/

/-- R34 step 2: the manual pair as clamped. -/
def manualPair (k : ImageCal) (t g : Nat) : Nat × Nat :=
  let t1 := clampNat t 1 k.tMax
  let g1 := clampNat g 16 256
  if t1 * g1 < k.eMin ∨ k.eMax < t1 * g1 then splitExposure k (clampNat (t1 * g1) k.eMin k.eMax) else (t1, g1)

/-- R34 step 3 for one side. -/
def takeMode (mode : ExposureMode) (pair : Nat × Nat) (x : Exposure) : Exposure :=
  match mode with
  | .auto | .hold => { x with mode := mode, manualSend := false }
  | .manual =>
    if x.mode = .manual ∧ x.manual = some pair then x
    else { x with mode := .manual, manual := some pair, manualSend := true }

/-- R34: SET_EXPOSURE_MODE(sides, mode, T, G). -/
def setExposureMode (ps : List Byte) (s : State) : State × Answer :=
  match sidesOfParam (param ps 0), exposureModeOfParam (param ps 1) with
  | some sides, some mode =>
    let sent := (field ps 2 2, field ps 4 2)
    let pair := manualPair s.cal.image sent.1 sent.2
    (sides.foldl (fun s sd => s.modExpo sd (takeMode mode pair)) s,
      plain (okIf (decide (mode = .manual ∧ pair ≠ sent))))
  | _, _ => (s, plain .refusedParam)

/-- SET_EXPOSURE_MODE (R34). -/
def execSetExposureMode (p : Port) (tag : BitVec 4) (ps : List Byte) (s : State) : Host.Outcome State Fault Refusal :=
  .next (takeRequest p .setExposureMode tag ps (setExposureMode ps) s)

/-- R41: SET_NIGHT_POLICY(sides, policy). -/
def setNightPolicy (ps : List Byte) (s : State) : State × Answer :=
  match sidesOfParam (param ps 0), policyOfParam (param ps 1) with
  | some sides, some policy =>
    (sides.foldl (fun s sd => s.modExpo sd fun x => { x with policy := policy, nightRun := 0, dayRun := 0 }) s,
      plain .ok)
  | _, _ => (s, plain .refusedParam)

/-- SET_NIGHT_POLICY (R41). -/
def execSetNightPolicy (p : Port) (tag : BitVec 4) (ps : List Byte) (s : State) : Host.Outcome State Fault Refusal :=
  .next (takeRequest p .setNightPolicy tag ps (setNightPolicy ps) s)

end Sys2Proof.Machine
end

