-- ==== Sys2Proof/Machine/Glare.lean ====
section
/-! DEFINITION. The Glare Map Engine (chapter 3): glare test, target, spread, temporal filter, and READ_TILE_MAP. -/

namespace Sys2Proof.Machine

/-- The 4-neighbours of tile t within the grid of 16 columns and 12 rows (03 section 3.1). -/
def neighbours (t : Nat) : List Nat :=
  let c := t % 16
  let r := t / 16
  (if 0 < c then [t - 1] else []) ++ (if c < 15 then [t + 1] else [])
    ++ (if 0 < r then [t - 16] else []) ++ (if r < 11 then [t + 16] else [])

/-- R46: the glare test of a tile. -/
def isGlare (k : ImageCal) (bref : Nat) (st : TileStat) : Bool :=
  decide (k.glarePixMin ≤ st.bright) && decide (st.bright ≤ k.glarePixMax) && decide (k.kneeOut ≤ st.peak)
    && decide (k.glareRatio * bref ≤ st.peak * 16)

/-- R47: the target gain of a tile. -/
def targetGain (k : ImageCal) (bref : Nat) (st : TileStat) : Nat :=
  if isGlare k bref st then
    clampNat (256 * (k.kneeOut - k.kneeIn) / (st.peak - k.kneeIn)) k.gmin 256
  else 256

/-- R48: the effective target of tile t from the targets of the map. -/
def effectiveTarget (gts : List Nat) (t : Nat) : Nat :=
  (neighbours t).foldl (fun acc n => min acc ((gts.getD n 256 + 256) / 2)) (gts.getD t 256)

/-- R49, R50: the temporal filter of a tile: the applied gain and the hold count after the update. -/
def filterTile (k : ImageCal) (ge ga h : Nat) : Nat × Nat :=
  if ge < 256 then
    if ge < ga then (ga - ((ga - ge) * k.attack + 15) / 16, k.holdFrames)
    else (ga + min (ge - ga) k.releaseStep, k.holdFrames)
  else if 0 < h then (ga, h - 1)
  else (ga + min (256 - ga) k.releaseStep, 0)

/-- R44: the tiles after an update. -/
def updateTiles (k : ImageCal) (bref : Nat) (stats : List TileStat) (old : List GlareTile) : List GlareTile :=
  let gts := (List.range Config.tiles).map fun t => targetGain k bref (stats.getD t ⟨0, 0, 0⟩)
  (List.range Config.tiles).map fun t =>
    let ge := effectiveTarget gts t
    let o := old.getD t unityTile
    let f := filterTile k ge o.ga o.h
    { flag := isGlare k bref (stats.getD t ⟨0, 0, 0⟩), gt := gts.getD t 256, ge := ge, ga := f.1, h := f.2 }

/-- R44, R45: the map after the update at a frame. -/
def updateMap (k : ImageCal) (mPrev : Nat) (n : FrameNumber) (st : Stats) (g : GlareMap) : GlareMap :=
  let bref := max mPrev 16
  { tiles := updateTiles k bref st.tiles g.tiles, lastUpdate := some n, lastBref := some bref }

/-- Stage 2 of an accepted frame (R24, R44). -/
def stageGlare (sd : Side) (f : AcceptedFrame) (s : State) : State :=
  let x := s.side sd
  match x.expo.dayNight with
  | .day => s
  | .night => s.modGlare sd (updateMap s.cal.image x.expo.m f.number x.stats)

/-- R54: the number of tiles whose glare flag is set. -/
def glareCount (g : GlareMap) : Nat := g.tiles.countP (·.flag)

/-- R54: the smallest applied gain. -/
def minGain (g : GlareMap) : Nat := g.tiles.foldl (fun acc t => min acc t.ga) 256

/-- An entry of a MAP reply (11 section 11.4). -/
def mapEntry (t : GlareTile) : List Byte :=
  byte (bitsOf [t.flag, t.gt.testBit 8, t.ge.testBit 8, t.ga.testBit 8])
    ++ byte t.gt ++ byte t.ge ++ byte t.ga ++ byte t.h

/-- An entry of a STATS reply (11 section 11.4). -/
def statsEntry (t : TileStat) : List Byte := word16 t.mean ++ word16 t.peak ++ word16 t.bright

/-- The summary of a READ_TILE_MAP reply (R61, 11 section 11.4). -/
def tileSummary (sd : Side) (x : SideState) (first count : Nat) : List Byte :=
  byte (sideNumber sd) ++ byte (dayNightNumber x.expo.dayNight)
    ++ byte (bitsOf [x.stats.statsFrame.isSome, x.glare.lastUpdate.isSome, x.glare.lastBref.isSome])
    ++ orZero 2 (x.stats.statsFrame.map (·.toNat)) ++ word16 x.stats.fmean
    ++ orZero 2 (x.glare.lastUpdate.map (·.toNat)) ++ orZero 2 x.glare.lastBref
    ++ byte (glareCount x.glare) ++ word16 (minGain x.glare) ++ byte first ++ byte count

/-- R61, R62: READ_TILE_MAP(side, view, first, count). -/
def readTileMap (ps : List Byte) (s : State) : Answer :=
  match sideOfParam (param ps 0), flagOfParam (param ps 1) with
  | some sd, some stats =>
    let first := param ps 2
    let count := param ps 3
    if 191 < first ∨ count = 0 then plain .refusedParam
    else
      let used := min (min count 32) (192 - first)
      let x := s.side sd
      let entries := (List.range used).flatMap fun i =>
        if stats then statsEntry (x.stats.tiles.getD (first + i) ⟨0, 0, 0⟩)
        else mapEntry (x.glare.tiles.getD (first + i) unityTile)
      { status := okIf (decide (used ≠ count)), payload := tileSummary sd x first used ++ entries }
  | _, _ => plain .refusedParam

/-- READ_TILE_MAP (R61). -/
def execReadTileMap (p : Port) (tag : BitVec 4) (ps : List Byte) (s : State) : Host.Outcome State Fault Refusal :=
  .next (takeRequest p .readTileMap tag ps (readOnly (readTileMap ps)) s)

end Sys2Proof.Machine
end

