-- ==== Sys2Proof/Machine/Statistics.lean ====
section
/-! DEFINITION. The Statistics Unit (02 sections 2.2 and 2.3): tile statistics and frozen-image detection. -/

namespace Sys2Proof.Machine

/-- The luminances of the 14,400 pixels of tile t of a camera frame: columns 120c..120c+119 of rows
120r..120r+119 (R27). -/
def tileLuminances (rows : List (List Pixel)) (t : Nat) : List Nat :=
  ((rows.drop (120 * (t / 16))).take 120).flatMap fun row =>
    ((row.drop (120 * (t % 16))).take 120).map (·.toNat)

/-- R27: the statistics of a tile from its pixels' luminances. -/
def statOfLuminances (bright : Nat) (ys : List Nat) : TileStat :=
  { mean := ys.sum / Config.tilePixels, peak := ys.foldl max 0, bright := ys.countP fun y => decide (bright ≤ y) }

/-- R27: the statistics of a flat tile of value p. -/
def statOfFlat (bright p : Nat) : TileStat :=
  { mean := p, peak := p, bright := if bright ≤ p then Config.tilePixels else 0 }

/-- R27: the statistics of the 192 tiles of a frame. -/
def tileStats (bright : Nat) : Image → List TileStat
  | .camera rows => (List.range Config.tiles).map fun t => statOfLuminances bright (tileLuminances rows t)
  | .synthetic values => (List.range Config.tiles).map fun t => statOfFlat bright (values.getD t 0)

/-- R27: the new statistics replace the old, and the stats frame becomes the frame's number. -/
def takeStats (bright : Nat) (f : AcceptedFrame) (st : Stats) : Stats :=
  let tiles := tileStats bright f.image
  { st with tiles := tiles, fmean := (tiles.map (·.mean)).sum / Config.tiles, statsFrame := some f.number }

/-- The Ymean values of the statistics held. -/
def tileMeans (st : Stats) : List Nat := st.tiles.map (·.mean)

/-- R28: the comparison of a camera frame's tile means with the previous set. -/
def compareMeans (sd : Side) (s : State) : State :=
  let st := (s.side sd).stats
  let means := tileMeans st
  let s1 := match st.prevMeans with
    | none => s
    | some prev =>
      if prev = means then s.modStats sd fun st => { st with identRun := min (st.identRun + 1) 65535 }
      else sendClear .frozenImage (faultSideOf sd) (s.modStats sd fun st => { st with identRun := 0 })
  s1.modStats sd fun st => { st with prevMeans := some means }

/-- R29: whether the conditions of a FROZEN_IMAGE raise hold. -/
def frozenHolds (sd : Side) (s : State) : Bool :=
  decide (s.cal.integrity.frozenFrames ≤ (s.side sd).stats.identRun)
    && match presentedSpeed s with
      | none => false
      | some v => decide (s.cal.integrity.frozenSpeed ≤ v)

/-- R29: the raise of FROZEN_IMAGE, its detail the identical run. -/
def raiseFrozen (sd : Side) (s : State) : State :=
  if frozenHolds sd s then
    sendRaise .frozenImage (faultSideOf sd) (BitVec.ofNat 16 (s.side sd).stats.identRun) s
  else s

/-- Stage 1 of an accepted frame (R24): statistics, and for a camera frame the frozen-image check. -/
def stageStatistics (sd : Side) (f : AcceptedFrame) (s : State) : State :=
  let s1 := s.modStats sd (takeStats s.cal.image.brightLevel f)
  match f.image with
  | .synthetic _ => s1
  | .camera _ => raiseFrozen sd (compareMeans sd s1)

end Sys2Proof.Machine
end

