-- ==== Sys2Proof/Machine/Recorder.lean ====
section
/-! DEFINITION. The Incident Recorder (chapter 8): digests, what a digest write brings about, triggers from outside,
and the requests of readout and control. -/

namespace Sys2Proof.Machine

/-! ### Digests (R135) -/

/-- The codes of the records ACTIVE whose side is the digest's or COMMON, in table position order (R135). -/
def activeCodes (t : FaultTable) (sd : Side) : List FaultCode :=
  (t.records.filter fun r => r.active && (decide (r.side = faultSideOf sd) || decide (r.side = .common))).map (·.code)

/-- R135: the digest of an accepted frame at stage 5, with the command issued at stage 3. -/
def acceptedDigest (sd : Side) (f : AcceptedFrame) (cmd : Option Command) (s : State) : Digest :=
  let x := s.side sd
  { frameNumber := f.number, synthetic := !isCamera f.image, time := s.time, status := f.status
    repairedLines := f.repairedLines, exposure := some (f.tRep, f.gRep), command := cmd, m := x.expo.m, l := x.expo.l
    mode := x.expo.dayNight, stale := false, glareTiles := glareCount x.glare, minGa := minGain x.glare
    view := x.view.state, originX := x.view.originX, originY := x.view.originY
    speed := presentedSpeed s, angle := presentedAngle s, activeCodes := activeCodes s.table sd
    tileMeans := some ((tileMeans x.stats).map (· / 16)) }

/-- R25, R135: the digest of a dropped-frame report: no command, no tile means, M, L and mode as stored, marked
stale. -/
def droppedDigest (sd : Side) (d : DroppedReport) (s : State) : Digest :=
  let x := s.side sd
  { frameNumber := d.number, synthetic := false, time := s.time, status := .dropped, repairedLines := 0
    exposure := d.exposure, command := none, m := x.expo.m, l := x.expo.l, mode := x.expo.dayNight, stale := true
    glareTiles := glareCount x.glare, minGa := minGain x.glare, view := x.view.state, originX := x.view.originX
    originY := x.view.originY, speed := presentedSpeed s, angle := presentedAngle s
    activeCodes := activeCodes s.table sd, tileMeans := none }

/-- Two codes of active_side_codes in one byte, high half first (R184). -/
def codePairs : List FaultCode → List Byte
  | a :: b :: rest => BitVec.ofNat 8 (16 * faultCodeNumber a + faultCodeNumber b) :: codePairs rest
  | [a] => [BitVec.ofNat 8 (16 * faultCodeNumber a)]
  | [] => []

/-- A list of bytes made n long by zeros at its end, or cut. -/
def padTo (n : Nat) (bs : List Byte) : List Byte := bs.take n ++ List.replicate (n - bs.length) 0

/-- Bytes 0..233 of a digest slot (R184). -/
def digestBytes (d : Digest) : List Byte :=
  word16 d.frameNumber.toNat
    ++ byte (d.synthetic.toNat + 2 * frameStatusNumber d.status + 8 * dayNightNumber d.mode + 16 * d.stale.toNat)
    ++ byte (bitsOf [d.exposure.isSome, d.command.isSome, d.speed.isSome, d.angle.isSome, d.tileMeans.isSome])
    ++ stampBytes d.time ++ byte d.repairedLines
    ++ orZero 2 (d.exposure.map (·.1)) ++ orZero 2 (d.exposure.map (·.2))
    ++ orZero 2 (d.command.map (·.t)) ++ orZero 2 (d.command.map (·.g)) ++ orZero 1 (d.command.map (·.tag.toNat))
    ++ word16 d.m ++ bytesOfNat 3 d.l ++ byte d.glareTiles ++ word16 d.minGa ++ byte (viewNumber d.view)
    ++ word16 d.originX ++ word16 d.originY ++ orZero 1 d.speed ++ signed16 (d.angle.getD 0)
    ++ byte d.activeCodes.length ++ padTo 6 (codePairs d.activeCodes)
    ++ padTo 192 ((d.tileMeans.getD []).flatMap byte)

/-- The 256 bytes of a digest slot: bytes 234..255 are written as zero and are not sent (R184). -/
def slotBytes (d : Digest) : List Byte := padTo 256 (digestBytes d)

/-! ### A digest write (R137, R146, R147) -/

/-- R137: a digest written at slot w of the ACTIVE buffer; w moves on. -/
def putDigest (d : Digest) (r : Recorder) : Recorder :=
  { r with slots := slotWrite r.slots (slotIndex r (writePointer r) r.w) d, w := (r.w + 1) % r.size }

/-- R147 step 1: the header of a completed capture; the completing write stands at the slot before w. -/
def freezeHeader (k : Capture) (permitted : Bool) (now : Stamp) (r : Recorder) : CaptureHeader :=
  { seq := r.seq, buffer := writePointer r, triggerFrame := k.triggerFrame, triggerTime := k.triggerTime
    freezeTime := now, stopSlot := (r.w + r.size - 1) % r.size, preCount := k.preCount, postCount := k.postCount
    sources := k.sources, faultCodes := k.faultCodes, extraCodes := k.extraCodes, continues := k.continues
    windowBypassed := !permitted }

/-- R147 steps 1 and 2: the header queued, the buffer FROZEN. -/
def freezeBuffer (k : Capture) (permitted : Bool) (now : Stamp) (r : Recorder) : Recorder :=
  { r with headers := r.headers ++ [freezeHeader k permitted now r], seq := r.seq + 1, frozen := r.frozen + 1
           current := none }

/-- R147 step 4: the pending triggers lost at entry into FULL; the order of their reports is not given (log 6). -/
def loseWaiting (sd : Side) (s : State) : State :=
  let (order, s1) := drawOrder s (sourceList (s.side sd).recorder.waiting)
  order.foldl (fun s src => loseTrigger sd src s) (s1.modRec sd fun r => { r with waiting := noSources })

/-- R147: a freeze. -/
def freeze (sd : Side) (k : Capture) (s : State) : State :=
  let s1 := notifyBoth .capture (s.modRec sd (freezeBuffer k (presentedPermission s) s.time))
  let r := (s1.side sd).recorder
  if r.frozen = bufferCount r then loseWaiting sd (s1.modRec sd fun r => { r with state := .full })
  else if noSource r.waiting then s1.modRec sd startFilling
  else acceptWaiting sd 0 true (s1.modRec sd startBuffer)

/-- R146: a suppression: the capture is discarded, the buffer goes on in ARMED. -/
def suppress (r : Recorder) : Recorder :=
  { r with current := none, framesSuppressed := r.framesSuppressed + BitVec.ofNat 32 r.size, state := .armed }

/-- R146: whether a completed capture is kept. -/
def keepsCapture (sd : Side) (k : Capture) (s : State) : Bool :=
  presentedPermission s || hasBypass k.sources || !noSource (s.side sd).recorder.waiting

/-- R146: the completion of a capture. -/
def completeCapture (sd : Side) (s : State) : State :=
  match (s.side sd).recorder.current with
  | none => s
  | some k => if keepsCapture sd k s then freeze sd k s else s.modRec sd suppress

/-- R137: the first write after an acceptance sets trigger_frame. -/
def stampTrigger (n : FrameNumber) (k : Capture) : Capture :=
  if k.triggerFrame.isNone then { k with triggerFrame := some n } else k

/-- R137: a digest taken by the recorder's state. -/
def writeDigest (sd : Side) (d : Digest) (s : State) : State :=
  let r := (s.side sd).recorder
  match r.state with
  | .stopped | .full => s
  | .filling =>
    let s1 := s.modRec sd fun r => { putDigest d r with fill := r.fill + 1 }
    if r.npre ≤ r.fill + 1 then
      if noSource r.waiting then s1.modRec sd fun r => { r with state := .armed }
      else acceptWaiting sd r.npre false s1
    else s1
  | .armed => s.modRec sd (putDigest d)
  | .post =>
    let s1 := s.modRec sd fun r =>
      { putDigest d r with post := r.post - 1, current := r.current.map (stampTrigger d.frameNumber) }
    if r.post ≤ 1 then completeCapture sd s1 else s1

/-! ### Triggers from outside -/

/-- R142: a CROSS trigger reaches the recorder it was handed to, one of those that wait there. -/
def takeCross (sd : Side) (s : State) : State :=
  if (s.side sd).recorder.crossIncoming = 0 then s
  else takeTrigger sd .cross (s.modRec sd fun r => { r with crossIncoming := r.crossIncoming - 1 })

/-- CROSS_TRIGGER (R142). -/
def execCrossTrigger (sd : Side) (s : State) : Host.Outcome State Fault Refusal :=
  .next (whileRunning (takeCross sd) s)

/-- R143: EVENT_IN rises: a change from low to high hands a trigger to each recorder, unless a reset holds the part
(R174). -/
def eventRise (s : State) : State :=
  if s.eventIn then s
  else whileRunning (handTriggers .eventIn [.left, .right]) { s with eventIn := true }

/-- EVENT_IN_EDGE (R143). -/
def execEventInEdge (s : State) : Host.Outcome State Fault Refusal := .next (eventRise s)

/-- EVENT_IN_FALL (R143): the line is low, so that its next rise is an edge. -/
def execEventInFall (s : State) : Host.Outcome State Fault Refusal := .next { s with eventIn := false }

/-- What a recorder does with a bypass-class trigger, by its state (R144). -/
def dispositionNumber : RecorderState → Nat
  | .armed => 1
  | .filling | .post => 2
  | .full => 3
  | .stopped => 4

/-- R144: the disposition byte of a side, 0 where it is not named. -/
def disposition (sides : List Side) (sd : Side) (s : State) : Nat :=
  if sd ∈ sides then dispositionNumber (s.side sd).recorder.state else 0

/-- The trigger of a master's TRIGGER_CAPTURE (R144). -/
def masterTrigger : Port → Trigger
  | .v => .masterV
  | .c => .masterC

/-- R144: TRIGGER_CAPTURE(sides). -/
def triggerCapture (p : Port) (ps : List Byte) (s : State) : State × Answer :=
  match sidesOfParam (param ps 0) with
  | none => (s, plain .refusedParam)
  | some sides =>
    (handTriggers (masterTrigger p) sides s,
      { status := .ok, payload := byte (disposition sides .left s) ++ byte (disposition sides .right s) })

/-- TRIGGER_CAPTURE (R144). -/
def execTriggerCapture (p : Port) (tag : BitVec 4) (ps : List Byte) (s : State) : Host.Outcome State Fault Refusal :=
  .next (takeRequest p .triggerCapture tag ps (triggerCapture p ps) s)

/-! ### Readout (R149 to R152) -/

/-- A master's cursor. -/
def cursorOf (r : Recorder) : Port → Nat
  | .v => r.cursorV
  | .c => r.cursorC

/-- A master's cursor set. -/
def setCursor (p : Port) (k : Nat) (r : Recorder) : Recorder :=
  match p with
  | .v => { r with cursorV := k }
  | .c => { r with cursorC := k }

/-- Both masters' cursors at 0. -/
def zeroCursors (r : Recorder) : Recorder := { r with cursorV := 0, cursorC := 0 }

/-- The bytes of a capture header (11 section 11.4). -/
def headerBytes (h : CaptureHeader) : List Byte :=
  byte h.seq.toNat ++ byte h.buffer ++ orZero 2 (h.triggerFrame.map (·.toNat)) ++ stampBytes h.triggerTime
    ++ stampBytes h.freezeTime ++ word16 h.stopSlot ++ word16 h.preCount ++ word16 h.postCount
    ++ byte (sourceBits h.sources) ++ byte h.faultCodes.length
    ++ padTo 4 (h.faultCodes.flatMap fun c => byte (faultCodeNumber c)) ++ byte h.extraCodes
    ++ byte (bitsOf [h.continues, h.windowBypassed])

/-- R149: READ_CAPTURE_HEADER(side). -/
def readCaptureHeader (p : Port) (ps : List Byte) (s : State) : State × Answer :=
  match sideOfParam (param ps 0) with
  | none => (s, plain .refusedParam)
  | some sd =>
    let r := (s.side sd).recorder
    match r.headers with
    | [] => (s, plain .notFound)
    | h :: _ =>
      (s.modRec sd (setCursor p 0),
        { status := .ok
          payload := byte r.headers.length ++ byte (recorderNumber r.state) ++ byte r.frozen ++ headerBytes h })

/-- READ_CAPTURE_HEADER (R149). -/
def execReadCaptureHeader (p : Port) (tag : BitVec 4) (ps : List Byte) (s : State) :
    Host.Outcome State Fault Refusal :=
  .next (takeRequest p .readCaptureHeader tag ps (readCaptureHeader p ps) s)

/-- The slot of digest k of a frozen capture in time order (R148). -/
def timeSlot (r : Recorder) (h : CaptureHeader) (k : Nat) : Nat := (h.stopSlot + 1 + k) % r.size

/-- R150 step 4: the reply that carries digest k of the head (R184). -/
def slotAnswer (r : Recorder) (h : CaptureHeader) (k : Nat) : Answer :=
  let d := slotRead r.slots (slotIndex r h.buffer (timeSlot r h k))
  { status := .ok
    payload := byte h.seq.toNat ++ word16 k ++ word16 (timeSlot r h k) ++ flagByte d.isSome
      ++ (match d with
          | none => []
          | some d => digestBytes d) }

/-- R150: READ_CAPTURE_SLOT(side, k). -/
def readCaptureSlot (ps : List Byte) (s : State) : Answer :=
  match sideOfParam (param ps 0) with
  | none => plain .refusedParam
  | some sd =>
    let r := (s.side sd).recorder
    let k := field ps 1 2
    if r.size ≤ k then plain .refusedParam
    else match r.headers with
      | [] => plain .notFound
      | h :: _ => slotAnswer r h k

/-- READ_CAPTURE_SLOT (R150). -/
def execReadCaptureSlot (p : Port) (tag : BitVec 4) (ps : List Byte) (s : State) : Host.Outcome State Fault Refusal :=
  .next (takeRequest p .readCaptureSlot tag ps (readOnly (readCaptureSlot ps)) s)

/-- R151: READ_CAPTURE_NEXT(side). -/
def readCaptureNext (p : Port) (ps : List Byte) (s : State) : State × Answer :=
  match sideOfParam (param ps 0) with
  | none => (s, plain .refusedParam)
  | some sd =>
    let r := (s.side sd).recorder
    match r.headers with
    | [] => (s, plain .notFound)
    | h :: _ =>
      let k := cursorOf r p
      (s.modRec sd (setCursor p ((k + 1) % r.size)), slotAnswer r h k)

/-- READ_CAPTURE_NEXT (R151). -/
def execReadCaptureNext (p : Port) (tag : BitVec 4) (ps : List Byte) (s : State) : Host.Outcome State Fault Refusal :=
  .next (takeRequest p .readCaptureNext tag ps (readCaptureNext p ps) s)

/-- R152: the head capture released; from FULL, writing resumes in the released buffer. -/
def releaseHead (r : Recorder) : Recorder :=
  let r1 := zeroCursors
    { r with headers := r.headers.drop 1, rp := (r.rp + 1) % bufferCount r, frozen := r.frozen - 1 }
  if r.state = .full then startFilling r1 else r1

/-- R152: RELEASE_CAPTURE(side, seq). -/
def releaseCapture (ps : List Byte) (s : State) : State × Answer :=
  match sideOfParam (param ps 0) with
  | none => (s, plain .refusedParam)
  | some sd =>
    match (s.side sd).recorder.headers with
    | [] => (s, plain .notFound)
    | h :: _ =>
      if h.seq.toNat = param ps 1 then
        let s1 := s.modRec sd releaseHead
        (s1, { status := .ok, payload := byte h.seq.toNat ++ byte (s1.side sd).recorder.frozen })
      else (s, plain .notFound)

/-- RELEASE_CAPTURE (R152). -/
def execReleaseCapture (p : Port) (tag : BitVec 4) (ps : List Byte) (s : State) : Host.Outcome State Fault Refusal :=
  .next (takeRequest p .releaseCapture tag ps (releaseCapture ps) s)

/-! ### Control (R153 to R156) -/

/-- R153: START in STOPPED. -/
def startRecorder (r : Recorder) : Recorder :=
  if r.frozen < bufferCount r then startFilling r else { r with state := .full }

/-- R153: STOP in a state other than STOPPED. -/
def stopRecorder (r : Recorder) : Recorder :=
  let r1 := if hasActiveBuffer r then emptyBuffer r (writePointer r) else r
  { r1 with state := .stopped, current := none, waiting := noSources }

/-- R153: an action of CAPTURE_CONTROL: START or STOP. -/
def controlRecorder (stop : Bool) (r : Recorder) : Recorder :=
  if stop then (if r.state = .stopped then r else stopRecorder r)
  else if r.state = .stopped then startRecorder r
  else r

/-- R153: CAPTURE_CONTROL(side, action). -/
def captureControl (ps : List Byte) (s : State) : State × Answer :=
  match sideOfParam (param ps 0), flagOfParam (param ps 1) with
  | some sd, some stop =>
    let s1 := s.modRec sd (controlRecorder stop)
    (s1, { status := .ok, payload := byte (recorderNumber (s1.side sd).recorder.state) })
  | _, _ => (s, plain .refusedParam)

/-- CAPTURE_CONTROL (R153). -/
def execCaptureControl (p : Port) (tag : BitVec 4) (ps : List Byte) (s : State) : Host.Outcome State Fault Refusal :=
  .next (takeRequest p .captureControl tag ps (captureControl ps) s)

/-- R154 step 4, R155, R159: every buffer FREE, every slot empty, the queue empty, rp and F (and so wp) 0, both
cursors 0. -/
def freeAll (r : Recorder) : Recorder := zeroCursors { r with slots := [], headers := [], rp := 0, frozen := 0 }

/-- R154 steps 4 and 5. -/
def takeParams (size npre : Nat) (cross : Bool) (r : Recorder) : Recorder :=
  { (if size = r.size then r else freeAll r) with size := size, npre := npre, crossLink := cross }

/-- R154: SET_CAPTURE_PARAMS(side, S, NPRE, CROSS_LINK). -/
def setCaptureParams (ps : List Byte) (s : State) : State × Answer :=
  let size := field ps 1 2
  let sent := field ps 3 2
  match sideOfParam (param ps 0), flagOfParam (param ps 5) with
  | some sd, some cross =>
    if size ∉ bufferSizes then (s, plain .refusedParam)
    else if (s.side sd).recorder.state ≠ .stopped then (s, plain .refusedState)
    else
      let npre := clampNat sent 1 (size - 1)
      (s.modRec sd (takeParams size npre cross), plain (okIf (decide (npre ≠ sent))))
  | _, _ => (s, plain .refusedParam)

/-- SET_CAPTURE_PARAMS (R154). -/
def execSetCaptureParams (p : Port) (tag : BitVec 4) (ps : List Byte) (s : State) :
    Host.Outcome State Fault Refusal :=
  .next (takeRequest p .setCaptureParams tag ps (setCaptureParams ps) s)

/-- R155: CLEAR_CAPTURE on a recorder. -/
def clearRecorder (r : Recorder) : Recorder :=
  let r1 := { freeAll r with waiting := noSources, current := none }
  if r.state = .stopped then r1 else startFilling r1

/-- R155: CLEAR_CAPTURE(side). -/
def clearCapture (ps : List Byte) (s : State) : State × Answer :=
  match sideOfParam (param ps 0) with
  | none => (s, plain .refusedParam)
  | some sd => (s.modRec sd clearRecorder, plain .ok)

/-- CLEAR_CAPTURE (R155). -/
def execClearCapture (p : Port) (tag : BitVec 4) (ps : List Byte) (s : State) : Host.Outcome State Fault Refusal :=
  .next (takeRequest p .clearCapture tag ps (clearCapture ps) s)

/-- The payload of GET_CAPTURE_STATUS (R156, 11 section 11.4). -/
def captureStatusBytes (p : Port) (r : Recorder) : List Byte :=
  let isPost := decide (r.state = .post)
  let isFilling := decide (r.state = .filling)
  let codes := (r.current.map (·.faultCodes)).getD []
  let shown := if isPost then codes else []
  byte (recorderNumber r.state) ++ word16 r.size ++ byte (bufferCount r) ++ word16 r.npre ++ word16 (postSize r)
    ++ flagByte r.crossLink ++ byte r.rp ++ byte (writePointer r) ++ byte r.frozen
    ++ byte (bitsOf [hasActiveBuffer r, isFilling, isPost, !r.headers.isEmpty])
    ++ word16 (if hasActiveBuffer r then r.w else 0) ++ word16 (if isFilling then r.fill else 0)
    ++ word16 (if isPost then r.post else 0)
    ++ byte (if isPost then sourceBits ((r.current.map (·.sources)).getD noSources) else 0)
    ++ byte shown.length ++ padTo 4 (shown.flatMap fun c => byte (faultCodeNumber c))
    ++ byte (sourceBits r.waiting) ++ byte r.headers.length ++ orZero 1 (r.headers.head?.map (·.seq.toNat))
    ++ byte r.seq.toNat ++ word16 (cursorOf r p)

/-- R156: GET_CAPTURE_STATUS(side). -/
def getCaptureStatus (p : Port) (ps : List Byte) (s : State) : Answer :=
  match sideOfParam (param ps 0) with
  | none => plain .refusedParam
  | some sd => { status := .ok, payload := captureStatusBytes p (s.side sd).recorder }

/-- GET_CAPTURE_STATUS (R156). -/
def execGetCaptureStatus (p : Port) (tag : BitVec 4) (ps : List Byte) (s : State) :
    Host.Outcome State Fault Refusal :=
  .next (takeRequest p .getCaptureStatus tag ps (readOnly (getCaptureStatus p ps)) s)

end Sys2Proof.Machine
end

