-- ==== Sys2Proof/Machine/Completion.lean ====
section
/-! DEFINITION. The frame-completion operation (R23 to R25): its stages in order on the oldest input handed,
one input at a time. -/

namespace Sys2Proof.Machine

/-- Stage 5 of an accepted frame (R24, R135, R137). -/
def stageDigest (sd : Side) (f : AcceptedFrame) (cmd : Option Command) (s : State) : State :=
  writeDigest sd (acceptedDigest sd f cmd s) s

/-- The stage after a stage, none after the last (R24). -/
def nextStage : Stage → Option Stage
  | .statistics => some .glare
  | .glare => some .exposure
  | .exposure => some .dayNight
  | .dayNight => some .digest
  | .digest => some .offer
  | .offer => none

/-- R24: the work of the stage that comes next in an operation, and the command issued so far. -/
def stageWork (sd : Side) (c : Completion) (s : State) : State × Option Command :=
  match c.next with
  | .statistics => (stageStatistics sd c.frame s, c.command)
  | .glare => (stageGlare sd c.frame s, c.command)
  | .exposure => stageExposure sd c.frame s
  | .dayNight => (stageDayNight sd c.frame s, c.command)
  | .digest => (stageDigest sd c.frame c.command s, c.command)
  | .offer => (stageOffer sd c.frame s, c.command)

/-- The operation after its present stage: at the next stage, or ended. -/
def moveOn (c : Completion) (cmd : Option Command) : Option Completion :=
  (nextStage c.next).map fun n => { c with next := n, command := cmd }

/-- One stage of an operation, taken whole. -/
def runStage (sd : Side) (c : Completion) (s : State) : State :=
  let (s1, cmd) := stageWork sd c s
  s1.modSide sd fun x => { x with running := moveOn c cmd }

/-- Up to n further stages of the operation that is running. -/
def runStages (sd : Side) : Nat → State → State
  | 0, s => s
  | n + 1, s =>
    match (s.side sd).running with
    | none => s
    | some c => runStages sd n (runStage sd c s)

/-- R23: the operation begun on an accepted frame. -/
def beginCompletion (f : AcceptedFrame) : Completion := { frame := f, next := .statistics, command := none }

/-- R23: where no operation runs, the oldest input starts one if it is an accepted frame. -/
def startCompletion (sd : Side) (s : State) : State :=
  match (s.side sd).running, (s.side sd).inputs with
  | none, .accepted f :: rest => s.modSide sd fun x => { x with inputs := rest, running := some (beginCompletion f) }
  | _, _ => s

/-- R23, R24: the operation of a side, started where none runs, goes on: through its last stage, or to the pause that
the state holds for it, where another command comes between two stages (R26, R55, R62, R65; log 16). Each stage is taken
whole. -/
def runCompletion (sd : Side) (s : State) : State :=
  let s1 := startCompletion sd s
  match (s1.side sd).running with
  | none => s1
  | some _ =>
    let (n, s2) := takePause s1
    runStages sd n s2

/-- FRAME_COMPLETION (R24). -/
def execFrameCompletion (sd : Side) (s : State) : Host.Outcome State Fault Refusal :=
  .next (whileRunning (runCompletion sd) s)

/-- R25: stage 5 alone, for a dropped-frame report. -/
def completeDrop (sd : Side) (d : DroppedReport) (s : State) : State := writeDigest sd (droppedDigest sd d s) s

/-- R23, R25: the operation on the oldest input, where none runs and that input is a dropped-frame report. -/
def runDropped (sd : Side) (s : State) : State :=
  match (s.side sd).running, (s.side sd).inputs with
  | none, .dropped d :: rest => completeDrop sd d (s.modSide sd fun x => { x with inputs := rest })
  | _, _ => s

/-- DROPPED_FRAME_COMPLETION (R25). -/
def execDroppedFrameCompletion (sd : Side) (s : State) : Host.Outcome State Fault Refusal :=
  .next (whileRunning (runDropped sd) s)

end Sys2Proof.Machine
end

