-- ==== Sys2Proof/Machine/Camera.lean ====
section
/-! DEFINITION. The Camera Link Receiver and the Test Image Source (chapter 1). -/

namespace Sys2Proof.Machine

/-! ### Inputs of frame completion -/

/-- An input handed to the side's frame-completion operation, behind those that wait (R23). -/
def handInput (i : CompletionInput) (x : SideState) : SideState := { x with inputs := x.inputs ++ [i] }

/-- R18: an input of the CLR goes on unless the side is in TEST. -/
def handCamera (sd : Side) (i : CompletionInput) (s : State) : State :=
  s.modSide sd fun x => if x.testFlag then x else handInput i x

/-! ### Line-CRC window (R13) -/

/-- A count pushed into the window of 60. -/
def pushCount (w : List Nat) (n : Nat) : List Nat :=
  if w.length < Config.crcWindow then w ++ [n] else w.drop 1 ++ [n]

/-- R13: a frame event's count pushed, and the sum compared with CRC_LIMIT. -/
def pushWindow (sd : Side) (n : Nat) (s : State) : State :=
  let s1 := s.modClr sd fun c => { c with window := pushCount c.window n }
  let sum := (s1.side sd).clr.window.sum
  let limit := s.cal.integrity.crcLimit
  if limit ≤ sum then sendRaise .lineCrc (faultSideOf sd) (BitVec.ofNat 16 (min sum 65535)) s1
  else if sum < limit / 2 then sendClear .lineCrc (faultSideOf sd) s1
  else s1

/-! ### Headers (R5, R14) -/

/-- A header is well formed when T_rep, G_rep and sensor_temp lie in range and sensor_flags is empty
(01 section 1.1, R5). -/
def headerOk (h : Header) : Bool :=
  inRange h.tRep.toNat 1 1500 && inRange h.gRep.toNat 16 256 && inRangeInt h.sensorTemp.toInt (-40) 150
    && h.sensorFlags == 0

/-- R14: the sensor temperature of a well-formed header. -/
def checkTemperature (sd : Side) (h : Header) (s : State) : State :=
  let t := h.sensorTemp.toInt
  let limit := s.cal.integrity.tempLimit
  if limit ≤ t then sendRaise .sensorTemp (faultSideOf sd) h.sensorTemp s
  else if t ≤ limit - 5 then sendClear .sensorTemp (faultSideOf sd) s
  else s

/-! ### Drop and acceptance (R8 to R12) -/

/-- The dropped-frame report of a header (R9 step 3). -/
def reportOf (h : Header) : DroppedReport :=
  { number := h.frameNumber, exposure := if headerOk h then some (h.tRep.toNat, h.gRep.toNat) else none }

/-- R9: the drop event of the open frame. -/
def dropFrame (sd : Side) (s : State) : State :=
  let fr := (s.side sd).clr.frame
  let s1 := pushWindow sd fr.badCount (s.modClr sd fun c => { c with framesDropped := c.framesDropped + 1 })
  match fr.header with
  | none => s1
  | some h => handCamera sd (.dropped (reportOf h)) s1

/-- The frame-in-progress record returned to IDLE (R2, R4, R7; log 15). -/
def closeFrame (sd : Side) (s : State) : State := s.modClr sd fun c => { c with frame := idleFrame }

/-- The record set to DISCARDING (R5, R6). -/
def discardFrame (sd : Side) (s : State) : State :=
  s.modClr sd fun c => { c with frame := { c.frame with state := .discarding } }

/-- A new frame opened: header stored, counts 0, state RECEIVING (R4). -/
def openedFrame (h : Header) : FrameInProgress := { idleFrame with state := .receiving, header := some h }

/-- R4, R5: a new frame opened and its header checked. -/
def openFrame (sd : Side) (h : Header) (s : State) : State :=
  let s1 := s.modClr sd fun c => { c with frame := openedFrame h }
  if headerOk h then
    checkTemperature sd h (s1.modClr sd fun c => { c with lastHeader := some (h.tRep.toNat, h.gRep.toNat) })
  else discardFrame sd (dropFrame sd s1)

/-- R4: a FRAME_START in LOCKED. -/
def takeFrameStart (sd : Side) (h : Header) (s : State) : State :=
  let c := (s.side sd).clr
  if !c.locked then s
  else match c.frame.state with
    | .idle | .discarding => openFrame sd h s
    | .receiving => openFrame sd h (dropFrame sd s)

/-- FRAME_START (R4). -/
def execFrameStart (sd : Side) (h : Header) (s : State) : Host.Outcome State Fault Refusal :=
  .next (whileRunning (takeFrameStart sd h) s)

/-- R6: a line with a bad CRC taken as line next_line. -/
def takeBadLine (row : List Pixel) (f : FrameInProgress) : FrameInProgress :=
  { f with badCount := f.badCount + 1
           badLines := if f.badLines.length < 16 then f.badLines ++ [f.nextLine] else f.badLines
           nextLine := f.nextLine + 1, rows := f.rows ++ [row] }

/-- R6: a line with a good CRC, in order. -/
def takeGoodLine (row : List Pixel) (f : FrameInProgress) : FrameInProgress :=
  { f with nextLine := f.nextLine + 1, rows := f.rows ++ [row] }

/-- R4, R6: a LINE in LOCKED. -/
def takeLine (sd : Side) (index : BitVec 16) (pixels : List Byte) (crc : BitVec 16) (s : State) : State :=
  let c := (s.side sd).clr
  if !c.locked then s
  else match c.frame.state with
    | .idle | .discarding => s
    | .receiving =>
      if Config.lines ≤ c.frame.nextLine then discardFrame sd (dropFrame sd s)
      else if crc ≠ lineCrc index pixels then
        s.modClr sd fun c => { c with frame := takeBadLine (pixelsOfBytes pixels) c.frame }
      else if index.toNat = c.frame.nextLine then
        s.modClr sd fun c => { c with frame := takeGoodLine (pixelsOfBytes pixels) c.frame }
      else discardFrame sd (dropFrame sd s)

/-- LINE (R6). -/
def execLine (sd : Side) (index : BitVec 16) (pixels : List Byte) (crc : BitVec 16) (s : State) :
    Host.Outcome State Fault Refusal :=
  .next (whileRunning (takeLine sd index pixels crc) s)

/-- R8: the nearest line below line 0 that arrived with a good CRC. -/
def nearestGood (bad : List Nat) : Nat := (((List.range Config.lines).drop 1).find? fun j => !(bad.contains j)).getD 0

/-- R8: bad line i replaced by the line above it as repaired; line 0 by the nearest good line below. -/
def repairLine (bad : List Nat) (rows : List (List Pixel)) (i : Nat) : List (List Pixel) :=
  rows.set i (rows.getD (if i = 0 then nearestGood bad else i - 1) [])

/-- R8: the rows of an accepted frame, its bad lines replaced in ascending order. -/
def repairRows (bad : List Nat) (rows : List (List Pixel)) : List (List Pixel) := bad.foldl (repairLine bad) rows

/-- R12: the continuity run after a continuous frame; SEQ_ERROR is cleared when it reaches 60 from below. -/
def countContinuous (sd : Side) (s : State) : State :=
  let run := (s.side sd).clr.contRun
  let s1 := s.modClr sd fun c => { c with contRun := min (run + 1) 60 }
  if run = 59 then sendClear .seqError (faultSideOf sd) s1 else s1

/-- R11, R12: the continuity check of an accepted frame of number n. -/
def checkContinuity (sd : Side) (n : FrameNumber) (s : State) : State :=
  let s1 := match (s.side sd).clr.lastAccepted with
    | none => countContinuous sd s
    | some last =>
      if n = last + 1 then countContinuous sd s
      else
        let gap := n - (last + 1)
        sendRaise .seqError (faultSideOf sd) gap
          (s.modClr sd fun c => { c with seqGaps := c.seqGaps + gap.setWidth 32, contRun := 0 })
  s1.modClr sd fun c => { c with lastAccepted := some n }

/-- The accepted frame that the CLR hands on (R8, R10). -/
def acceptedFrame (h : Header) (f : FrameInProgress) : AcceptedFrame :=
  { number := h.frameNumber, status := if f.badCount = 0 then .accepted else .repaired, repairedLines := f.badCount
    tRep := h.tRep.toNat, gRep := h.gRep.toNat, image := .camera (repairRows f.badLines f.rows) }

/-- R10: the acceptance event of the open frame. -/
def acceptFrame (sd : Side) (h : Header) (s : State) : State :=
  let f := (s.side sd).clr.frame
  let s1 := s.modClr sd fun c =>
    { c with framesAccepted := c.framesAccepted + 1, linesRepaired := c.linesRepaired + BitVec.ofNat 32 f.badCount }
  let s2 := checkContinuity sd h.frameNumber (pushWindow sd f.badCount s1)
  let s3 := headerReport sd h.frameNumber h.appliedTag h.tRep.toNat h.gRep.toNat s2
  handCamera sd (.accepted (acceptedFrame h f)) s3

/-- R7: whether the open frame is accepted at a FRAME_END. -/
def frameComplete (limit : Nat) (lineCount : BitVec 16) (f : FrameInProgress) : Bool :=
  decide (f.nextLine = Config.lines) && decide (lineCount.toNat = Config.lines) && decide (f.badCount ≤ limit)

/-- R4, R7: a FRAME_END in LOCKED. -/
def takeFrameEnd (sd : Side) (lineCount : BitVec 16) (s : State) : State :=
  let c := (s.side sd).clr
  if !c.locked then s
  else match c.frame.state, c.frame.header with
    | .idle, _ => s
    | .discarding, _ => closeFrame sd s
    | .receiving, some h =>
      if frameComplete s.cal.integrity.lineRepairMax lineCount c.frame then closeFrame sd (acceptFrame sd h s)
      else closeFrame sd (dropFrame sd s)
    | .receiving, none => closeFrame sd (dropFrame sd s)

/-- FRAME_END (R7). -/
def execFrameEnd (sd : Side) (lineCount : BitVec 16) (s : State) : Host.Outcome State Fault Refusal :=
  .next (whileRunning (takeFrameEnd sd lineCount) s)

/-! ### Lock and back channel (R1 to R3, R15, R16) -/

/-- R3: the CLR enters LOCKED. -/
def cameraLock (sd : Side) (s : State) : State :=
  if (s.side sd).clr.locked then s
  else sendClear .linkLoss (faultSideOf sd) (s.modClr sd fun c => { c with locked := true })

/-- CAMERA_LOCK_ACQUIRED (R3). -/
def execCameraLockAcquired (sd : Side) (s : State) : Host.Outcome State Fault Refusal :=
  .next (whileRunning (cameraLock sd) s)

/-- R2, R16: the CLR leaves LOCKED. -/
def cameraUnlock (sd : Side) (s : State) : State :=
  if !(s.side sd).clr.locked then s
  else
    let s1 := sendRaise .linkLoss (faultSideOf sd) 0 (s.modClr sd fun c => { c with locked := false })
    let s2 := if (s.side sd).clr.frame.state = .receiving then dropFrame sd s1 else s1
    (closeFrame sd s2).modClr sd fun c => { c with lastAccepted := none, sending := none, waiting := none }

/-- CAMERA_LOCK_LOST (R2). -/
def execCameraLockLost (sd : Side) (s : State) : Host.Outcome State Fault Refusal :=
  .next (whileRunning (cameraUnlock sd) s)

/-- DISCARDED_PACKET (R1): a packet of an unknown kind leaves the CLR's state as it was. -/
def execDiscardedPacket (_ : Side) (_ : Byte) (s : State) : Host.Outcome State Fault Refusal := .next s

/-- COMMAND_TRANSMISSION_COMPLETE (R15). -/
def execCommandTransmissionComplete (sd : Side) (s : State) : Host.Outcome State Fault Refusal :=
  .next (whileRunning (fun s => s.modClr sd transmissionDone) s)

/-! ### Test Image Source (R19, R20) -/

/-- R19: the synthetic frame of a side with the active pattern; T_rep and G_rep are those of the last well-formed
header, 1 and 16 where there is none. R19 gives 1 and 16 where no header has been received; that they also stand where
only ill-formed ones have is the model's (DESIGN CHOICE, log 23). -/
def syntheticFrame (number : FrameNumber) (pattern : List Nat) (last : Option (Nat × Nat)) : AcceptedFrame :=
  { number := number, status := .accepted, repairedLines := 0, tRep := (last.getD (1, 16)).1
    gRep := (last.getD (1, 16)).2, image := .synthetic pattern }

/-- R19: a test frame end of a side in TEST. -/
def testFrameEnd (sd : Side) (s : State) : State :=
  let x := s.side sd
  if x.testFlag then
    let n := x.testNumber + 1
    s.modSide sd fun x =>
      handInput (.accepted (syntheticFrame n (patternOf s.cal s.activePattern.val) x.clr.lastHeader))
        { x with testNumber := n }
  else s

/-- TEST_FRAME_END (R19). -/
def execTestFrameEnd (sd : Side) (s : State) : Host.Outcome State Fault Refusal :=
  .next (whileRunning (testFrameEnd sd) s)

/-- R20 step 4: TEST_IMAGE(ON) when its checks pass. -/
def startTests (sides : List Side) (pattern : Fin 4) (s : State) : State :=
  sides.foldl (fun s sd => setTest sd s) { s with activePattern := pattern }

/-- R20 step 5: TEST_IMAGE(OFF). -/
def stopTests (sides : List Side) (s : State) : State := sides.foldl (fun s sd => clearTest sd s) s

/-- A pattern number 0..3. -/
def patternOfParam (v : Nat) : Option (Fin 4) := if h : v < 4 then some ⟨v, h⟩ else none

/-- R20: TEST_IMAGE(on, sides, pattern). -/
def testImage (ps : List Byte) (s : State) : State × Answer :=
  match flagOfParam (param ps 0), sidesOfParam (param ps 1) with
  | some false, some sides => (stopTests sides s, plain .ok)
  | some true, some sides =>
    match patternOfParam (param ps 2) with
    | none => (s, plain .refusedParam)
    | some n => if atRest s then (startTests sides n s, plain .ok) else (s, plain .refusedState)
  | _, _ => (s, plain .refusedParam)

/-- TEST_IMAGE (R20). -/
def execTestImage (p : Port) (tag : BitVec 4) (ps : List Byte) (s : State) : Host.Outcome State Fault Refusal :=
  .next (takeRequest p .testImage tag ps (testImage ps) s)

end Sys2Proof.Machine
end

