-- ==== Sys2Proof/Machine/Faults.lean ====
section
/-! DEFINITION. The requests of the Fault Table (R120 to R124): reading and acknowledgement. -/

namespace Sys2Proof.Machine

/-- Bytes 1..3 of a fault record reply: record count and generation count (11 section 11.4). -/
def tableBytes (t : FaultTable) : List Byte := byte t.records.length ++ word16 t.generation.toNat

/-- The stamps of a record: first_raise, last_raise, last_clear; an absent last_clear is zero bytes. -/
def recordStamps (r : FaultRecord) : List Byte :=
  stampBytes r.firstRaise ++ stampBytes r.lastRaise
    ++ (match r.lastClear with
        | some t => stampBytes t
        | none => List.replicate 5 0)

/-- Bytes 4..28 of a fault record reply (11 section 11.4). -/
def recordBytes (removed : Bool) (r : FaultRecord) : List Byte :=
  byte (bitsOf [removed, r.lastClear.isSome])
    ++ byte (faultCodeNumber r.code) ++ byte (faultSideNumber r.side) ++ byte (severityNumber (severityOf r.code))
    ++ byte r.active.toNat ++ byte (masterBits r.ackedBy) ++ byte (masterBits (audienceOf r.code))
    ++ byte r.onsets ++ word16 r.detail.toNat ++ recordStamps r

/-- The reply that carries a record: its position, the counts of the table, the record. -/
def recordAnswer (removed : Bool) (position : Nat) (t : FaultTable) (r : FaultRecord) : Answer :=
  { status := .ok, payload := byte position ++ tableBytes t ++ recordBytes removed r }

/-- The reply where no record is found: the counts alone (R120, R121, R123). -/
def noRecord (t : FaultTable) : Answer := { status := .notFound, payload := tableBytes t }

/-- R120: READ_FAULT(position). -/
def readFault (ps : List Byte) (s : State) : Answer :=
  match s.table.records[param ps 0]? with
  | some r => recordAnswer false (param ps 0) s.table r
  | none => noRecord s.table

/-- READ_FAULT (R120). -/
def execReadFault (p : Port) (tag : BitVec 4) (ps : List Byte) (s : State) : Host.Outcome State Fault Refusal :=
  .next (takeRequest p .readFault tag ps (readOnly (readFault ps)) s)

/-- The key that two parameter bytes name: one of the fourteen codes, with a side that its side class allows (R121
steps 1 and 2, R123 step 1). -/
def keyOfParams (ps : List Byte) : Option (FaultCode × FaultSide) :=
  match faultCodeOfParam (param ps 0), faultSideOfParam (param ps 1) with
  | some c, some sd => if sideAllowed c sd then some (c, sd) else none
  | _, _ => none

/-- R121: READ_FAULT_KEY(code, side). A REFUSED_PARAM reply has no payload (DESIGN CHOICE, log 23: R118 reports the
count with every reply, R121 and 11 section 11.4 give that reply none). -/
def readFaultKey (ps : List Byte) (s : State) : Answer :=
  match keyOfParams ps with
  | none => plain .refusedParam
  | some (c, sd) =>
    match findRecord s.table c sd with
    | some r => recordAnswer false (positionOf s.table c sd) s.table r
    | none => noRecord s.table

/-- READ_FAULT_KEY (R121). -/
def execReadFaultKey (p : Port) (tag : BitVec 4) (ps : List Byte) (s : State) : Host.Outcome State Fault Refusal :=
  .next (takeRequest p .readFaultKey tag ps (readOnly (readFaultKey ps)) s)

/-- The record of ACK_FAULT's reply: with the master's mark, as it stands after the mark or stood just before its
removal (R123 step 6). -/
def markedRecord (p : Port) (r : FaultRecord) : FaultRecord := { r with ackedBy := addMaster r.ackedBy p }

/-- R123: ACK_FAULT(code, side). A refused reply has no payload (DESIGN CHOICE, log 23: R123 says that it carries no
record, and leaves the counts open). -/
def ackFault (p : Port) (ps : List Byte) (s : State) : State × Answer :=
  match keyOfParams ps with
  | none => (s, plain .refusedParam)
  | some (c, sd) =>
    match findRecord s.table c sd with
    | none => (s, noRecord s.table)
    | some r =>
      if !masterIn (audienceOf c) p then (s, plain .refusedAuthority)
      else
        let t := tableMark s.table c sd p
        ({ s with table := t },
          recordAnswer (findRecord t c sd).isNone (positionOf s.table c sd) t (markedRecord p r))

/-- ACK_FAULT (R123). -/
def execAckFault (p : Port) (tag : BitVec 4) (ps : List Byte) (s : State) : Host.Outcome State Fault Refusal :=
  .next (takeRequest p .ackFault tag ps (ackFault p ps) s)

/-- Whether ACK_ALL marks a record: its audience holds the master, and it lacks the mark (R124). -/
def newlyMarked (p : Port) (r : FaultRecord) : Bool := masterIn (audienceOf r.code) p && !masterIn r.ackedBy p

/-- Whether ACK_ALL removes a record: it is newly marked, and PASSIVE with a set then complete (R124). -/
def newlyRemoved (p : Port) (r : FaultRecord) : Bool := newlyMarked p r && complete (markedRecord p r)

/-- R124: the table after ACK_ALL; the generation rises by 1 for each mark and by 1 for each removal (R118). -/
def markAll (p : Port) (t : FaultTable) : FaultTable :=
  { records := (t.records.filter fun r => !newlyRemoved p r).map fun r =>
      if newlyMarked p r then markedRecord p r else r
    generation := t.generation + BitVec.ofNat 16 (t.records.countP (newlyMarked p))
      + BitVec.ofNat 16 (t.records.countP (newlyRemoved p)) }

/-- R124: ACK_ALL. -/
def ackAll (p : Port) (s : State) : State × Answer :=
  let t := markAll p s.table
  ({ s with table := t },
    { status := .ok
      payload := byte (s.table.records.countP (newlyMarked p)) ++ byte (s.table.records.countP (newlyRemoved p))
        ++ word16 t.generation.toNat })

/-- ACK_ALL (R124). -/
def execAckAll (p : Port) (tag : BitVec 4) (ps : List Byte) (s : State) : Host.Outcome State Fault Refusal :=
  .next (takeRequest p .ackAll tag ps (ackAll p) s)

end Sys2Proof.Machine
end

