-- ==== Sys2Proof/Machine/Ports.lean ====
section
/-! DEFINITION. The Management Port Controller (chapter 9): transactions, bad frames, NO_OPERATION, GET_STATUS and
READ_COUNTERS. -/

namespace Sys2Proof.Machine

/-! ### Transactions (R160 to R162) -/

/-- R161: the NOT_READY frame, with the code and tag of the request being prepared, 0 and 0 where there is none. -/
def notReadyReply (r : Option Reply) : Reply :=
  match r with
  | some r => { status := .notReady, code := r.code, tag := r.tag, payload := [] }
  | none => { status := .notReady, code := 0, tag := 0, payload := [] }

/-- R160, R161: chip select falls: the transaction begins on what the slot holds, and its frame is sent. -/
def beginTransaction (x : PortState) : PortState :=
  match x.slot with
  | .ready r => { x with txn := .onReady, shiftOut := replyBytes r }
  | .preparing r => { x with txn := .onPreparing, shiftOut := replyBytes (notReadyReply r) }

/-- R165: while RESET_N is low a port sends zero bytes and discards what it receives. -/
def beginCut (x : PortState) : PortState := { x with txn := .cut, shiftOut := [] }

/-- Chip select falls on a port; within a transaction it is low already (log 3). -/
def chipSelectFall (p : Port) (s : State) : State :=
  match (s.port p).txn with
  | .none => s.modPort p (if s.phase = .resetHeld then beginCut else beginTransaction)
  | .onReady | .onPreparing | .cut => s

/-- CHIP_SELECT_FALL (R161). -/
def execChipSelectFall (p : Port) (s : State) : Host.Outcome State Fault Refusal := .next (chipSelectFall p s)

/-- R161: the reply in the making becomes READY. -/
def slotReady (x : PortState) : PortState :=
  match x.slot with
  | .preparing (some r) => { x with slot := .ready r }
  | .preparing none | .ready _ => x

/-- REPLY_READY (R161). -/
def execReplyReady (p : Port) (s : State) : Host.Outcome State Fault Refusal := .next (s.modPort p slotReady)

/-- R161, R165: chip select rises on a transaction begun on PREPARING or cut; the request is discarded. A transaction
begun on READY ends by its request or a bad frame. -/
def discardRequest (p : Port) (s : State) : State :=
  match (s.port p).txn with
  | .onPreparing | .cut => endTransaction p s
  | .none | .onReady => s

/-- REQUEST_DISCARDED (R161). -/
def execRequestDiscarded (p : Port) (s : State) : Host.Outcome State Fault Refusal := .next (discardRequest p s)

/-- R162: the BAD_FRAME reply: the reason, and the code byte and tag as received, or 0. -/
def badFrameReply (reason : BadReason) (received : List Byte) : Reply :=
  { status := .badFrame, code := received.getD 0 0, tag := tagOfByte (received.getD 1 0)
    payload := byte (reasonByte reason) }

/-- R162: a frame that fails a check, at its chip-select rise. Bytes that pass every check are no bad frame
(log 3). -/
def takeBadFrame (p : Port) (received : List Byte) (s : State) : State :=
  match (s.port p).txn, frameFault received with
  | .onReady, some reason => prepareReply p (badFrameReply reason received) (endTransaction p s)
  | .onPreparing, _ | .cut, _ => endTransaction p s
  | .onReady, none | .none, _ => s

/-- BAD_FRAME (R162). -/
def execBadFrame (p : Port) (received : List Byte) (s : State) : Host.Outcome State Fault Refusal :=
  .next (takeBadFrame p received s)

/-! ### NO_OPERATION and GET_STATUS (R166, R168) -/

/-- NO_OPERATION (R166): nothing changes; OK with no payload. -/
def execNoOperation (p : Port) (tag : BitVec 4) (ps : List Byte) (s : State) : Host.Outcome State Fault Refusal :=
  .next (takeRequest p .noOperation tag ps (readOnly fun _ => plain .ok) s)

/-- R168: the number of fault records of a side, COMMON records not counted. -/
def sideRecords (t : FaultTable) (sd : Side) : Nat := t.records.countP fun r => decide (r.side = faultSideOf sd)

/-- R168: the number of ACTIVE VIEW_LOSS records of a side. -/
def activeViewLoss (t : FaultTable) (sd : Side) : Nat :=
  t.records.countP fun r =>
    r.active && decide (severityOf r.code = .viewLoss) && decide (r.side = faultSideOf sd)

/-- A side part of GET_STATUS, 22 bytes (11 section 11.4). -/
def statusSide (s : State) (sd : Side) : List Byte :=
  let x := s.side sd
  byte (viewNumber x.view.state) ++ byte (dayNightNumber x.expo.dayNight)
    ++ byte (exposureModeNumber x.expo.mode) ++ byte (policyNumber x.expo.policy) ++ flagByte x.testFlag
    ++ flagByte x.view.panLimited ++ byte (negNumber x.dlt.state)
    ++ byte (bitsOf [x.dlt.chosen.isSome, x.dlt.ambient.isSome, x.dlt.actual.isSome])
    ++ orZero 1 (x.dlt.chosen.map outputModeNumber) ++ word16 x.dlt.blSent
    ++ orZero 2 (x.dlt.ambient.map (·.toNat)) ++ orZero 2 (x.dlt.actual.map (·.toNat)) ++ byte x.dlt.pref
    ++ byte (recorderNumber x.recorder.state) ++ byte x.recorder.frozen ++ byte (sideRecords s.table sd)
    ++ byte (activeViewLoss s.table sd) ++ word16 s.table.generation.toNat

/-- The common part of GET_STATUS, 12 bytes (11 section 11.4). -/
def statusCommon (s : State) (p : Port) : List Byte :=
  stampBytes s.time ++ flagByte (isFresh s) ++ byte s.table.records.length ++ word16 s.table.generation.toNat
    ++ flagByte s.store.programming.isSome ++ byte (noticeBits (s.port p).notices) ++ flagByte (unacknowledged s.table p)

/-- R168: GET_STATUS: the reply from the state as it stands, then the master's notice set emptied. -/
def getStatus (p : Port) (s : State) : State × Answer :=
  (s.modPort p fun x => { x with notices := noNotices },
    { status := .ok, payload := statusCommon s p ++ statusSide s .left ++ statusSide s .right })

/-- GET_STATUS (R168). -/
def execGetStatus (p : Port) (tag : BitVec 4) (ps : List Byte) (s : State) : Host.Outcome State Fault Refusal :=
  .next (takeRequest p .getStatus tag ps (getStatus p) s)

/-! ### READ_COUNTERS (R170) -/

/-- The eight totals of a side (09 section 9.8). -/
def totalsOf (x : SideState) : Counters :=
  { framesAccepted := x.clr.framesAccepted, framesDropped := x.clr.framesDropped
    linesRepaired := x.clr.linesRepaired, seqGaps := x.clr.seqGaps, framesHeld := x.view.framesHeld
    sigMismatches := x.dlt.sigMismatches, triggersLost := x.recorder.triggersLost
    framesSuppressed := x.recorder.framesSuppressed }

/-- The counters in the order of the table of 09 section 9.8. -/
def counterList (c : Counters) : List (BitVec 32) :=
  [c.framesAccepted, c.framesDropped, c.linesRepaired, c.seqGaps, c.framesHeld, c.sigMismatches, c.triggersLost,
    c.framesSuppressed]

/-- The baselines of a port for a side. -/
def baseOf (x : PortState) : Side → Counters
  | .left => x.baseL
  | .right => x.baseR

/-- The baselines of a port for a side set. -/
def setBase (sd : Side) (c : Counters) (x : PortState) : PortState :=
  match sd with
  | .left => { x with baseL := c }
  | .right => { x with baseR := c }

/-- R170: the differences D, modulo 2^32, of the totals from the baselines. -/
def differences (total base : Counters) : List Nat :=
  List.zipWith (fun t b => (t - b).toNat) (counterList total) (counterList base)

/-- R170: the delta reported for a difference. -/
def deltaOf (d : Nat) : Nat := min d 65535

/-- R170: whether a difference saturates its delta. -/
def saturates (d : Nat) : Bool := decide (65535 < d)

/-- R170: READ_COUNTERS(side). -/
def readCounters (p : Port) (ps : List Byte) (s : State) : State × Answer :=
  match sideOfParam (param ps 0) with
  | none => (s, plain .refusedParam)
  | some sd =>
    let total := totalsOf (s.side sd)
    let ds := differences total (baseOf (s.port p) sd)
    (s.modPort p (setBase sd total),
      { status := .ok
        payload := byte (sideNumber sd) ++ ds.flatMap (fun d => word16 (deltaOf d)) ++ byte (bitsOf (ds.map saturates)) })

/-- READ_COUNTERS (R170). -/
def execReadCounters (p : Port) (tag : BitVec 4) (ps : List Byte) (s : State) : Host.Outcome State Fault Refusal :=
  .next (takeRequest p .readCounters tag ps (readCounters p ps) s)

end Sys2Proof.Machine
end

