-- ==== Sys2Proof/Machine/Store.lean ====
section
/-! DEFINITION. The Calibration Store (chapter 10): staging, reading, protection and programming. -/

namespace Sys2Proof.Machine

/-- A change of the store. -/
def State.modStore (s : State) (f : Store → Store) : State := { s with store := f s.store }

/-- R177: whether a region has staged changes: its staging bytes differ from its stored item bytes, or its stored
checksum does not check. -/
def stagedChange (st : Store) (r : Region) : Bool :=
  decide (perRegionGet st.staging r ≠ (perRegionGet st.stored r).items) || !checksumOk (perRegionGet st.stored r)

/-- The regions with staged changes (R177). -/
def stagedRegions (st : Store) : RegionSet := perRegion (stagedChange st)

/-! ### CAL_STAGE and CAL_DISCARD (R177) -/

/-- Bytes replaced from an offset on. -/
def putBytes (old : List Byte) (offset : Nat) (bs : List Byte) : List Byte :=
  old.take offset ++ bs ++ old.drop (offset + bs.length)

/-- R177: bytes staged in a region. -/
def stageBytes (r : Region) (offset : Nat) (bs : List Byte) (st : Store) : Store :=
  { st with staging := perRegionSet st.staging r (putBytes (perRegionGet st.staging r) offset bs) }

/-- R177: CAL_STAGE(region, offset, bytes). -/
def calStage (ps : List Byte) (s : State) : State × Answer :=
  if s.store.programming.isSome then (s, plain .busy)
  else match regionOfParam (param ps 0) with
    | none => (s, plain .refusedParam)
    | some r =>
      let offset := field ps 1 2
      let bs := ps.drop 3
      if regionLength r < offset + bs.length then (s, plain .refusedParam)
      else (s.modStore (stageBytes r offset bs), plain .ok)

/-- CAL_STAGE (R177). -/
def execCalStage (p : Port) (tag : BitVec 4) (ps : List Byte) (s : State) : Host.Outcome State Fault Refusal :=
  .next (takeRequest p .calStage tag ps (calStage ps) s)

/-- R177: the staging image set equal to the stored item bytes. -/
def discardStaged (st : Store) : Store := { st with staging := perRegion fun r => (perRegionGet st.stored r).items }

/-- R177: CAL_DISCARD. -/
def calDiscard (s : State) : State × Answer :=
  if s.store.programming.isSome then (s, plain .busy) else (s.modStore discardStaged, plain .ok)

/-- CAL_DISCARD (R177). -/
def execCalDiscard (p : Port) (tag : BitVec 4) (ps : List Byte) (s : State) : Host.Outcome State Fault Refusal :=
  .next (takeRequest p .calDiscard tag ps calDiscard s)

/-! ### CAL_READ (R178) -/

/-- The bytes of a region: of the working copy, or of the staging image. -/
def sourceBytes (st : Store) (staging : Bool) (r : Region) : List Byte :=
  if staging then perRegionGet st.staging r else encodeRegion st.cal r

/-- The summary byte of a region (R178, 11 section 11.4). -/
def regionSummary (st : Store) (r : Region) : Nat :=
  bitsOf [perRegionGet st.defaulted r, perRegionGet st.mask r, stagedChange st r, st.window, st.lowered]

/-- R178: the count as used: at most 224, and within the region. -/
def usedCount (r : Region) (offset count : Nat) : Nat := min (min count 224) (regionLength r - offset)

/-- R178: CAL_READ(source, region, offset, count). -/
def calRead (ps : List Byte) (s : State) : Answer :=
  match flagOfParam (param ps 0), regionOfParam (param ps 1) with
  | some staging, some r =>
    let offset := field ps 2 2
    let count := param ps 4
    if regionLength r ≤ offset ∨ count = 0 then plain .refusedParam
    else
      let n := usedCount r offset count
      { status := okIf (decide (n ≠ count))
        payload := byte (regionSummary s.store r) ++ word16 offset ++ byte n
          ++ ((sourceBytes s.store staging r).drop offset).take n }
  | _, _ => plain .refusedParam

/-- CAL_READ (R178). -/
def execCalRead (p : Port) (tag : BitVec 4) (ps : List Byte) (s : State) : Host.Outcome State Fault Refusal :=
  .next (takeRequest p .calRead tag ps (readOnly (calRead ps)) s)

/-! ### Protection (R176) -/

/-- R176 step 3: whether a requested mask clears a flag that is set in the mask in force. -/
def lowers (requested inForce : RegionSet) : Bool :=
  regions.any fun r => perRegionGet inForce r && !perRegionGet requested r

/-- R176: CAL_PROTECT(mask). -/
def calProtect (ps : List Byte) (s : State) : State × Answer :=
  if s.store.programming.isSome then (s, plain .busy)
  else match regionSetOfByte (ps.getD 0 0) with
    | none => (s, plain .refusedParam)
    | some m =>
      let low := lowers m s.store.mask
      if low && (!s.store.window || s.store.lowered) then (s, plain .refusedState)
      else
        (s.modStore fun st => { st with mask := m, lowered := st.lowered || low },
          { status := .ok, payload := byte (regionBits m) })

/-- CAL_PROTECT (R176). -/
def execCalProtect (p : Port) (tag : BitVec 4) (ps : List Byte) (s : State) : Host.Outcome State Fault Refusal :=
  .next (takeRequest p .calProtect tag ps (calProtect ps) s)

/-- R176: the protect window expires. -/
def windowExpiry (s : State) : State := s.modStore fun st => { st with window := false }

/-- PROTECT_WINDOW_EXPIRY (R176). -/
def execProtectWindowExpiry (s : State) : Host.Outcome State Fault Refusal := .next (whileRunning windowExpiry s)

/-! ### Programming (R179, R180) -/

/-- R179 check 5: a region with staged changes has its flag set in the mask. -/
def protectedChange (st : Store) : Bool := regions.any fun r => stagedChange st r && perRegionGet st.mask r

/-- R179: the start of programming: BUSY with the regions with staged changes; IDLE stays where there are none. The
stored image stays as it was until the period ends (DESIGN CHOICE, log 23: R180 gives it at the end alone). -/
def startProgramming (st : Store) : Store :=
  { st with programming := if noRegion (stagedRegions st) then none else some (stagedRegions st) }

/-- R179: CAL_PROGRAM, checks 2 to 5; check 1 is R163 step 1. -/
def calProgram (s : State) : State × Answer :=
  if s.store.programming.isSome then (s, plain .busy)
  else if !atRest s then (s, plain .refusedState)
  else if !s.supplyOk then (s, plain .refusedState)
  else if protectedChange s.store then (s, plain .refusedState)
  else
    (s.modStore startProgramming, { status := .ok, payload := byte (regionBits (stagedRegions s.store)) })

/-- CAL_PROGRAM (R179). The command carries the level of SUPPLY_OK at the request, since the table has no row for a
rise of the line; while a period runs SUPPLY_OK is high, or the fall would have ended the period (log 13). -/
def execCalProgram (p : Port) (tag : BitVec 4) (ps : List Byte) (supplyOk : Bool) (s : State) :
    Host.Outcome State Fault Refusal :=
  .next (takeRequest p .calProgram tag ps calProgram
    { s with supplyOk := s.store.programming.isSome || supplyOk })

/-- The checksum that a failed programming leaves: free, and invalid for the bytes left (R180; log 8). -/
def invalidChecksum (items : List Byte) (c : BitVec 16) : BitVec 16 := if c = crc16 items then ~~~c else c

/-- The item bytes that a failed programming leaves: free (R180: "whatever item bytes reached it"; log 7). -/
def leftItems (draw : Nat) (r : Region) : List Byte :=
  (List.range (regionLength r)).map (Config.leftByte draw (regionNumber r))

/-- A region as a failed programming leaves it (R180). -/
def damagedRegion (draw : Nat) (r : Region) : StoredRegion :=
  { items := leftItems draw r
    checksum := invalidChecksum (leftItems draw r) (Config.leftChecksum draw (regionNumber r)) }

/-- The stored image after a period: each programmed region damaged where it failed, else written from staging with a
checksum newly formed (R180). -/
def programmedImage (draw : Nat) (programmed failed : RegionSet) (st : Store) : PerRegion StoredRegion :=
  perRegion fun r =>
    if perRegionGet failed r then damagedRegion draw r
    else if perRegionGet programmed r then withChecksum (perRegionGet st.staging r)
    else perRegionGet st.stored r

/-- R180: the end of a period on the store: the stored image as it is left, IDLE. A failure draws the bytes that are
left. -/
def endPeriod (programmed failed : RegionSet) (s : State) : State :=
  { s with
    store := { s.store with stored := programmedImage s.freeIndex programmed failed s.store, programming := none }
    freeIndex := if noRegion failed then s.freeIndex else s.freeIndex + 1 }

/-- The cause of CAL_PROGRAM_FAIL (11 section 11.2). -/
inductive ProgramFailure where
  | verify
  | supply
deriving DecidableEq, Repr

/-- The detail of CAL_PROGRAM_FAIL: the cause in the high byte, the regions in the low byte (11 section 11.2). -/
def failDetail (cause : ProgramFailure) (failed : RegionSet) : BitVec 16 :=
  BitVec.ofNat 16 ((match cause with | .verify => 1 | .supply => 2) * 256 + regionBits failed)

/-- R180: the event of CAL_PROGRAM_FAIL where a region failed. -/
def reportFailure (cause : ProgramFailure) (failed : RegionSet) (s : State) : State :=
  if noRegion failed then s else sendEvent .calProgramFail .common (failDetail cause failed) s

/-- R180: a period ended: the stored image, the event, the CAL notice of Port V. -/
def finishProgramming (cause : ProgramFailure) (programmed failed : RegionSet) (s : State) : State :=
  notify .v .cal (reportFailure cause failed (endPeriod programmed failed s))

/-- The regions of both sets. -/
def bothSets (a b : RegionSet) : RegionSet := perRegion fun r => perRegionGet a r && perRegionGet b r

/-- R180: the end of the 40 ms, with the regions that do not read back as written. -/
def periodEnd (unverified : RegionSet) (s : State) : State :=
  match s.store.programming with
  | none => s
  | some programmed => finishProgramming .verify programmed (bothSets unverified programmed) s

/-- PROGRAMMING_PERIOD_END (R180). -/
def execProgrammingPeriodEnd (unverified : RegionSet) (s : State) : Host.Outcome State Fault Refusal :=
  .next (whileRunning (periodEnd unverified) s)

/-- R180: SUPPLY_OK falls: a period ends in a supply failure of every region being programmed. -/
def supplyFall (s : State) : State :=
  let s1 := { s with supplyOk := false }
  match s.store.programming with
  | none => s1
  | some programmed => finishProgramming .supply programmed programmed s1

/-- SUPPLY_FAIL (R180). -/
def execSupplyFail (s : State) : Host.Outcome State Fault Refusal := .next (supplyFall s)

end Sys2Proof.Machine
end

