-- ==== Sys2Proof/Machine/Reset.lean ====
section
/-! DEFINITION. The resets and the load (R17, R22, R42, R63, R83, R101, R106, R129 to R131, R158, R159, R165, R172,
R174, R175, R181). A power-on reset and a RESTART are each taken by one command, and the load that follows by
another (log 5). -/

namespace Sys2Proof.Machine

/-- R165: a transaction in progress when a reset is taken is cut; where there is none, none. -/
def cutTransaction : Transaction → Transaction
  | .none => .none
  | .onReady | .onPreparing | .cut => .cut

/-! ### Power-on reset -/

/-- R180: what a power-on leaves of the stored image: a programming period is cut off with the effect of a supply
failure. -/
def cutProgramming (s : State) : State :=
  match s.store.programming with
  | none => s
  | some programmed => endPeriod programmed programmed s

/-- R181, R129, R111, R106, R172: every block at its power-on values, with the working copy that stands until the
load. -/
def powerOn (s : State) : State :=
  let s1 := cutProgramming s
  { s1 with
    phase := .resetHeld
    time := { epoch := 0, ms := 0 }
    table := { records := [], generation := 0 }
    activePattern := 0
    vehicle := resetVehicle
    left := resetSide s.cal .left
    right := resetSide s.cal .right
    portV := resetPort (cutTransaction s.portV.txn)
    portC := resetPort (cutTransaction s.portC.txn) }

/-- POWER_ON_RESET (R181). -/
def execPowerOnReset (s : State) : Host.Outcome State Fault Refusal := .next (powerOn s)

/-! ### The load (R174) -/

/-- R174 steps 1 to 4. -/
def loadStore (s : State) : State := { s with store := loadedStore s.store.stored }

/-- R175: step 6: the report of CAL_DEFAULTS. -/
def reportDefaults (s : State) : State :=
  if noRegion s.store.defaulted then sendClear .calDefaults .common s
  else sendRaise .calDefaults .common (BitVec.ofNat 16 (regionBits s.store.defaulted)) s

/-- R165: step 7: both slots READY with the RESET_REPLY. -/
def replyReset (c : ResetCause) (s : State) : State :=
  { s with portV := { s.portV with slot := .ready (resetReply c) }
           portC := { s.portC with slot := .ready (resetReply c) } }

/-- The vehicle state at step 5 of a load. The age has run since the reset (R106, R174); it is held below the
STATE_HOLD now in force (DESIGN CHOICE, log 11, after 06 section 6.4). -/
def loadedVehicle (hold : Nat) (v : Vehicle) : Vehicle := { v with age := min v.age (hold - 1) }

/-- R174 step 5 at a power-on: the values drawn from calibration come from the working copy just filled. -/
def initialBlocks (s : State) : State :=
  { s with phase := .reporting .powerOn, activePattern := 0
           vehicle := loadedVehicle s.cal.integrity.stateHold { resetVehicle with age := s.vehicle.age }
           left := resetSide s.cal .left, right := resetSide s.cal .right }

/-- R159: the recorder of a side at a RESTART, with the CAPTURE region just loaded. -/
def restartRecorder (k : CaptureCal) (r : Recorder) : Recorder :=
  let r1 := if k.size = r.size then stopRecorder r else freeAll (stopRecorder r)
  let r2 := zeroCursors
    { r1 with size := k.size, npre := k.npre, crossLink := k.crossLink, crossIncoming := 0, triggersLost := 0
              framesSuppressed := 0 }
  if k.autostart ∨ r.state ≠ .stopped then startRecorder r2 else r2

/-- One side at a RESTART's load. -/
def restartedSide (k : Calibration) (sd : Side) (x : SideState) : SideState :=
  { resetSide k sd with recorder := restartRecorder k.capture x.recorder }

/-- R174 step 5 at a RESTART. -/
def restartedBlocks (s : State) : State :=
  { s with
    phase := .reporting .restart
    left := restartedSide s.cal .left s.left
    right := restartedSide s.cal .right s.right
    vehicle := loadedVehicle s.cal.integrity.stateHold s.vehicle }

/-- R174: the part of a load that comes next. RESET_N rises, or power has come with RESET_N high; steps 1 to 5, after
which the blocks run; steps 6 and 7, after which the ports answer. -/
def loadPart (s : State) : State :=
  match s.phase with
  | .resetHeld => { s with phase := .loading }
  | .loading => initialBlocks (loadStore s)
  | .restarting => restartedBlocks (loadStore s)
  | .reporting c => replyReset c (reportDefaults { s with phase := .running })
  | .running => s

/-- Up to n further parts of a load. -/
def loadParts : Nat → State → State
  | 0, s => s
  | n + 1, s => loadParts n (loadPart s)

/-- R174: the load of a reset that has been taken goes on: to its end, or to the pause that the state holds for it,
where other commands come: transactions, which are answered NOT_READY (R165), milliseconds, and from step 5 on the events
of the blocks (log 16). No load comes without a reset (log 3). -/
def load (s : State) : State :=
  match s.phase with
  | .running => s
  | .resetHeld | .loading | .restarting | .reporting _ =>
    let (n, s1) := takePause s
    loadParts n s1

/-- LOAD (R174). -/
def execLoad (s : State) : Host.Outcome State Fault Refusal := .next (load s)

/-! ### RESTART (R181) -/

/-- One side while a RESTART waits for its load: every block at its reset values; the recorder keeps what R159
examines at the load, less the CROSS triggers on their way to it (DEDUCED, log 14). -/
def restartingSide (k : Calibration) (sd : Side) (x : SideState) : SideState :=
  { resetSide k sd with recorder := { x.recorder with crossIncoming := 0 } }

/-- R181, R130, R106, R172: a RESTART taken. The request's own transaction has ended; one on the other port is
cut. -/
def takeRestart (p : Port) (s : State) : State :=
  let s1 := endTransaction p s
  { s1 with
    phase := .restarting
    table := passivate s.table s.time
    activePattern := 0
    vehicle := resetVehicle
    left := restartingSide s.cal .left s.left
    right := restartingSide s.cal .right s.right
    portV := resetPort (cutTransaction s1.portV.txn)
    portC := resetPort (cutTransaction s1.portC.txn) }

/-- Why a RESTART is not taken, if it is not (R163, R181). -/
def restartRefusal (p : Port) (ps : List Byte) (s : State) : Option Status :=
  if !authorised s p .restart then some .refusedAuthority
  else if !lengthOk .restart ps.length then some .refusedParam
  else if s.store.programming.isSome then some .busy
  else none

/-- RESTART at its chip-select rise. Its own reply is the RESET_REPLY (R165), so it takes no part in takeRequest once
it is taken; a refused one is a request like the others. -/
def restart (p : Port) (tag : BitVec 4) (ps : List Byte) (s : State) : State :=
  match (s.port p).txn, restartRefusal p ps s with
  | .onReady, none => takeRestart p s
  | _, _ => takeRequest p .restart tag ps (readOnly fun _ => plain .busy) s

/-- RESTART (R181). -/
def execRestart (p : Port) (tag : BitVec 4) (ps : List Byte) (s : State) : Host.Outcome State Fault Refusal :=
  .next (restart p tag ps s)

end Sys2Proof.Machine
end

