-- ==== Sys2Proof/Machine/Vehicle.lean ====
section
/-! DEFINITION. The Vehicle State Block and the Time Base (chapter 6). -/

namespace Sys2Proof.Machine

/-! ### Time Base (R107, R109) -/

/-- R107: the stamp after a millisecond; the wrap of the count does not change the epoch. -/
def nextStamp (t : Stamp) : Stamp := { t with ms := t.ms + 1 }

/-- The age after a millisecond: it rises below STATE_HOLD; the step onto STATE_HOLD is the expiry's (R103,
log 11). -/
def nextAge (hold age : Nat) : Nat := if age + 1 < hold then age + 1 else age

/-- R107, R110: a millisecond of the part's own clock. While RESET_N is low every block holds its power-on values
(R181); from its rise on the count and the age run, through the load as after it (R111, R174). -/
def tick (s : State) : State :=
  match s.phase with
  | .resetHeld => s
  | .loading | .restarting | .reporting _ | .running =>
    { s with time := nextStamp s.time
             vehicle := { s.vehicle with age := nextAge s.cal.integrity.stateHold s.vehicle.age } }

/-- TIME_TICK (R107). -/
def execTimeTick (s : State) : Host.Outcome State Fault Refusal := .next (tick s)

/-- R109: SET_TIME(ms). -/
def setTime (ps : List Byte) (s : State) : State × Answer :=
  let t : Stamp := { epoch := s.time.epoch + 1, ms := BitVec.ofNat 32 (field ps 0 4) }
  ({ s with time := t }, { status := .ok, payload := stampBytes s.time ++ byte t.epoch.toNat })

/-- SET_TIME (R109). -/
def execSetTime (p : Port) (tag : BitVec 4) (ps : List Byte) (s : State) : Host.Outcome State Fault Refusal :=
  .next (takeRequest p .setTime tag ps (setTime ps) s)

/-! ### The vehicle-state record (R102, R103) -/

/-- Whether a bit of the presence byte marks its field present (11 section 11.3). -/
def present (ps : List Byte) (bit : Nat) : Bool := (param ps 0).testBit bit

/-- The speed as sent, if present. -/
def sentSpeed (ps : List Byte) : Option Nat := if present ps 0 then some (field ps 1 2) else none

/-- The trailer angle as sent, if present. -/
def sentAngle (ps : List Byte) : Option Int := if present ps 1 then some (signedOf16 (field ps 3 2)) else none

/-- A boolean field: absent, present with a value, or present and coded as neither FALSE nor TRUE (the outer none). -/
def sentFlag (ps : List Byte) (bit place : Nat) : Option (Option Bool) :=
  if present ps bit then (flagOfParam (param ps place)).map some else some none

/-- R102 steps 2 to 5: the record that a request leaves. -/
def takenRecord (speed : Option Nat) (angle : Option Int) (reverse permitted : Option Bool) : Vehicle :=
  { held := true, speed := speed.map (min · 250), angle := angle.map (clampInt · (-180) 180)
    reverse := reverse, permitted := permitted, age := 0, lastPermission := permitted.getD true }

/-- R102 steps 6 and 7 on a taken record: the clear of VEHICLE_STALE, then the end of tests unless the vehicle is at
rest. -/
def storeRecord (v : Vehicle) (s : State) : State :=
  let s1 := sendClear .vehicleStale .common { s with vehicle := v }
  if v.speed = some 0 then s1 else endTests s1

/-- R102: SET_VEHICLE_STATE(speed, trailer_angle, reverse, recording_permitted). -/
def setVehicleState (ps : List Byte) (s : State) : State × Answer :=
  match sentFlag ps 2 5, sentFlag ps 3 6 with
  | some reverse, some permitted =>
    let v := takenRecord (sentSpeed ps) (sentAngle ps) reverse permitted
    (storeRecord v s, plain (okIf (decide (v.speed ≠ sentSpeed ps ∨ v.angle ≠ sentAngle ps))))
  | _, _ => (s, plain .refusedParam)

/-- SET_VEHICLE_STATE (R102). -/
def execSetVehicleState (p : Port) (tag : BitVec 4) (ps : List Byte) (s : State) :
    Host.Outcome State Fault Refusal :=
  .next (takeRequest p .setVehicleState tag ps (setVehicleState ps) s)

/-- R103: the age reaches STATE_HOLD, from the millisecond before it: once per accepted record and once after a reset.
At any other age the expiry is one of an old age, which a request has cancelled (R102 step 5), or one that has been taken
already. -/
def vehicleExpiry (s : State) : State :=
  let hold := s.cal.integrity.stateHold
  if s.vehicle.age + 1 = hold then
    endTests (sendRaise .vehicleStale .common (if s.vehicle.held then 0 else 1)
      { s with vehicle := { s.vehicle with age := hold } })
  else s

/-- VEHICLE_STATE_EXPIRY (R103). -/
def execVehicleStateExpiry (s : State) : Host.Outcome State Fault Refusal := .next (whileRunning vehicleExpiry s)

end Sys2Proof.Machine
end

