-- ==== Sys2Proof/Machine/Dispatch.lean ====
section
/-! DEFINITION. The effect of each command on everything but the queue: one arm per command. -/

namespace Sys2Proof.Machine

def exec (i : Instr) (s : State) : Host.Outcome State Fault Refusal :=
  match i with
  | .powerOnReset => Sys2Proof.Machine.execPowerOnReset s
  | .load => Sys2Proof.Machine.execLoad s
  | .supplyFail => Sys2Proof.Machine.execSupplyFail s
  | .timeTick => Sys2Proof.Machine.execTimeTick s
  | .cameraLockAcquired sd => Sys2Proof.Machine.execCameraLockAcquired sd s
  | .cameraLockLost sd => Sys2Proof.Machine.execCameraLockLost sd s
  | .discardedPacket sd kind => Sys2Proof.Machine.execDiscardedPacket sd kind s
  | .frameStart sd h => Sys2Proof.Machine.execFrameStart sd h s
  | .line sd index pixels crc => Sys2Proof.Machine.execLine sd index pixels crc s
  | .frameEnd sd lineCount => Sys2Proof.Machine.execFrameEnd sd lineCount s
  | .commandTransmissionComplete sd => Sys2Proof.Machine.execCommandTransmissionComplete sd s
  | .testFrameEnd sd => Sys2Proof.Machine.execTestFrameEnd sd s
  | .frameCompletion sd => Sys2Proof.Machine.execFrameCompletion sd s
  | .droppedFrameCompletion sd => Sys2Proof.Machine.execDroppedFrameCompletion sd s
  | .outputFrameStart sd => Sys2Proof.Machine.execOutputFrameStart sd s
  | .backChannelLockAcquired sd => Sys2Proof.Machine.execBackChannelLockAcquired sd s
  | .backChannelLockLost sd => Sys2Proof.Machine.execBackChannelLockLost sd s
  | .monitorAbilityWord sd word => Sys2Proof.Machine.execMonitorAbilityWord sd word s
  | .frameReturn sd tag signature ambient actual flags => Sys2Proof.Machine.execFrameReturn sd tag signature ambient actual flags s
  | .negotiationTimerExpiry sd => Sys2Proof.Machine.execNegotiationTimerExpiry sd s
  | .failedTimerExpiry sd => Sys2Proof.Machine.execFailedTimerExpiry sd s
  | .upDeadlineExpiry sd => Sys2Proof.Machine.execUpDeadlineExpiry sd s
  | .vehicleStateExpiry => Sys2Proof.Machine.execVehicleStateExpiry s
  | .crossTrigger sd => Sys2Proof.Machine.execCrossTrigger sd s
  | .eventInEdge => Sys2Proof.Machine.execEventInEdge s
  | .chipSelectFall p => Sys2Proof.Machine.execChipSelectFall p s
  | .replyReady p => Sys2Proof.Machine.execReplyReady p s
  | .requestDiscarded p => Sys2Proof.Machine.execRequestDiscarded p s
  | .badFrame p received => Sys2Proof.Machine.execBadFrame p received s
  | .noOperation p tag ps => Sys2Proof.Machine.execNoOperation p tag ps s
  | .getStatus p tag ps => Sys2Proof.Machine.execGetStatus p tag ps s
  | .readCounters p tag ps => Sys2Proof.Machine.execReadCounters p tag ps s
  | .readFault p tag ps => Sys2Proof.Machine.execReadFault p tag ps s
  | .readFaultKey p tag ps => Sys2Proof.Machine.execReadFaultKey p tag ps s
  | .ackFault p tag ps => Sys2Proof.Machine.execAckFault p tag ps s
  | .ackAll p tag ps => Sys2Proof.Machine.execAckAll p tag ps s
  | .setVehicleState p tag ps => Sys2Proof.Machine.execSetVehicleState p tag ps s
  | .setTime p tag ps => Sys2Proof.Machine.execSetTime p tag ps s
  | .setViewOffset p tag ps => Sys2Proof.Machine.execSetViewOffset p tag ps s
  | .setNightPolicy p tag ps => Sys2Proof.Machine.execSetNightPolicy p tag ps s
  | .setBrightness p tag ps => Sys2Proof.Machine.execSetBrightness p tag ps s
  | .setExposureMode p tag ps => Sys2Proof.Machine.execSetExposureMode p tag ps s
  | .testImage p tag ps => Sys2Proof.Machine.execTestImage p tag ps s
  | .readTileMap p tag ps => Sys2Proof.Machine.execReadTileMap p tag ps s
  | .triggerCapture p tag ps => Sys2Proof.Machine.execTriggerCapture p tag ps s
  | .captureControl p tag ps => Sys2Proof.Machine.execCaptureControl p tag ps s
  | .setCaptureParams p tag ps => Sys2Proof.Machine.execSetCaptureParams p tag ps s
  | .clearCapture p tag ps => Sys2Proof.Machine.execClearCapture p tag ps s
  | .releaseCapture p tag ps => Sys2Proof.Machine.execReleaseCapture p tag ps s
  | .getCaptureStatus p tag ps => Sys2Proof.Machine.execGetCaptureStatus p tag ps s
  | .readCaptureHeader p tag ps => Sys2Proof.Machine.execReadCaptureHeader p tag ps s
  | .readCaptureSlot p tag ps => Sys2Proof.Machine.execReadCaptureSlot p tag ps s
  | .readCaptureNext p tag ps => Sys2Proof.Machine.execReadCaptureNext p tag ps s
  | .calStage p tag ps => Sys2Proof.Machine.execCalStage p tag ps s
  | .calDiscard p tag ps => Sys2Proof.Machine.execCalDiscard p tag ps s
  | .calProgram p tag ps supplyOk => Sys2Proof.Machine.execCalProgram p tag ps supplyOk s
  | .calProtect p tag ps => Sys2Proof.Machine.execCalProtect p tag ps s
  | .calRead p tag ps => Sys2Proof.Machine.execCalRead p tag ps s
  | .restart p tag ps => Sys2Proof.Machine.execRestart p tag ps s
  | .protectWindowExpiry => Sys2Proof.Machine.execProtectWindowExpiry s
  | .programmingPeriodEnd unverified => Sys2Proof.Machine.execProgrammingPeriodEnd unverified s
  | .eventInFall => Sys2Proof.Machine.execEventInFall s

end Sys2Proof.Machine
end

