-- ==== Sys2Proof/Safety.lean ====
section
/-! DEFINITION. What holds in every state that the part can reach, in the terms that claims use: the spec's sentences
about the whole machine. -/

namespace Sys2Proof.Machine

/-- The key of a fault record (07 section 7.1). -/
def keyOf (r : FaultRecord) : FaultCode × FaultSide := (r.code, r.side)

/-- A record of the fault table (R112, R114 to R117, R122): its side is one its code allows, its onsets lie in
1..255, an event record is PASSIVE, a PASSIVE record has been cleared and lacks a mark of its audience, and only
masters of its audience have marked it. -/
abbrev RecordSound (r : FaultRecord) : Prop :=
  sideAllowed r.code r.side = true ∧ 1 ≤ r.onsets ∧ r.onsets ≤ 255
    ∧ (isEvent r.code = true → r.active = false) ∧ (r.active = false → r.lastClear.isSome = true)
    ∧ complete r = false ∧ (r.ackedBy.c = true → (audienceOf r.code).c = true)

/-- The fault table (R113): no two records of one key, and every record as above. -/
abbrev TableSound (t : FaultTable) : Prop := (t.records.map keyOf).Nodup ∧ ∀ r ∈ t.records, RecordSound r

/-- R80 with R77: a side whose VALID line is high has no ACTIVE VIEW_LOSS record. -/
abbrev ViewSound (s : State) (sd : Side) : Prop := validLine s sd = true → viewLossActive s.table sd = false

/-- R78: a side's view is in TEST exactly while its TEST flag is set. -/
abbrev TestSound (s : State) (sd : Side) : Prop := (s.side sd).testFlag = decide ((s.side sd).view.state = .test)

/-- R51: in DAY every applied gain is 256 and every hold count 0. -/
abbrev DaySound (x : SideState) : Prop := x.expo.dayNight = .day → ∀ t ∈ x.glare.tiles, t.ga = 256 ∧ t.h = 0

/-- R69, R72: the origin and the target of the far window lie on the sensor. -/
abbrev WindowSound (x : Composer) : Prop :=
  x.originX ≤ 960 ∧ x.originY ≤ 720 ∧ x.targetX ≤ 960 ∧ x.targetY ≤ 720

/-- R85 to R93: what the negotiation state says of the timers, the lock, the mode and the sent-signature list. -/
abbrev DltSound (d : Dlt) : Prop :=
  (d.state ≠ .down → d.locked = true) ∧ (d.retry = true → d.locked = true)
    ∧ (d.negTimer = true ↔ d.state = .offer ∨ d.state = .confirm) ∧ (d.failedTimer = true ↔ d.state = .failed)
    ∧ (d.chosen.isSome = true ↔ d.state = .up) ∧ (d.sent ≠ [] → d.state = .up) ∧ d.sent.length ≤ 4
    ∧ d.matchRun ≤ 30 ∧ d.mismatchRun ≤ 255

/-- R1 to R7, R12, R13, R16, R17: what the lock state and the frame state say of the rest of the CLR. -/
abbrev ClrSound (c : Clr) : Prop :=
  (c.locked = false → c.frame = idleFrame ∧ c.lastAccepted = none ∧ c.sending = none)
    ∧ (c.waiting.isSome = true → c.sending.isSome = true)
    ∧ (c.frame.state = .receiving → c.frame.header.isSome = true)
    ∧ c.frame.nextLine ≤ Config.lines ∧ c.frame.badCount ≤ c.frame.nextLine ∧ c.frame.rows.length = c.frame.nextLine
    ∧ c.frame.badLines.length = min c.frame.badCount 16 ∧ c.window.length ≤ Config.crcWindow ∧ c.contRun ≤ 60

/-- R133: buffer size and pre-trigger length. -/
abbrev CaptureSound (size npre : Nat) : Prop := size ∈ bufferSizes ∧ 1 ≤ npre ∧ npre < size

/-- R133, R134, R137, R138, R145, R148, R151: the ring, the queue and the counts of a recorder. -/
abbrev RecorderSound (r : Recorder) : Prop :=
  CaptureSound r.size r.npre ∧ r.rp < bufferCount r ∧ r.frozen ≤ bufferCount r
    ∧ r.headers.map (·.buffer) = (List.range r.frozen).map (fun i => (r.rp + i) % bufferCount r)
    ∧ (hasActiveBuffer r = true → r.frozen < bufferCount r ∧ r.w < r.size)
    ∧ (r.state = .full → r.frozen = bufferCount r) ∧ (r.state = .filling → r.fill < r.npre)
    ∧ (r.state = .post → 1 ≤ r.post ∧ r.post < r.size) ∧ (r.current.isSome = true ↔ r.state = .post)
    ∧ r.waiting.fault = false ∧ r.waiting.cross = false
    ∧ (noSource r.waiting = false → r.state = .filling ∨ r.state = .post)
    ∧ slotsWf r.slots = true ∧ r.cursorV < r.size ∧ r.cursorC < r.size

/-- R103 with 06 section 6.1: the age never passes STATE_HOLD. -/
abbrev AgeSound (s : State) : Prop := s.vehicle.age ≤ s.cal.integrity.stateHold

/-- R177, R180 with 11 section 11.5: both images of a region have its length. -/
abbrev ImagesSound (st : Store) : Prop :=
  ∀ r ∈ regions, (perRegionGet st.stored r).items.length = regionLength r
    ∧ (perRegionGet st.staging r).length = regionLength r

/-- R179, R180: while a programming period runs SUPPLY_OK is high. -/
abbrev SupplySound (s : State) : Prop := s.store.programming.isSome = true → s.supplyOk = true

/-! ### Frames, in the terms of the claims -/

/-- What no report of DEGRADED or INFO severity changes: everything but the fault table, the recorders and the free
choices drawn. -/
abbrev SameButReports (s t : State) : Prop :=
  t.pending = s.pending ∧ t.pauses = s.pauses ∧ t.phase = s.phase ∧ t.supplyOk = s.supplyOk ∧ t.eventIn = s.eventIn
    ∧ t.time = s.time ∧ t.activePattern = s.activePattern ∧ t.vehicle = s.vehicle ∧ t.store = s.store
    ∧ (∀ p, t.port p = s.port p) ∧ ∀ sd, { t.side sd with recorder := (s.side sd).recorder } = s.side sd

/-- The same, but for the blocks of one side. -/
abbrev SameElsewhere (sd : Side) (s t : State) : Prop :=
  SameButReports s { t with left := if sd = .left then s.left else t.left
                            right := if sd = .right then s.right else t.right }

/-- A header in whose fields every value lies in its range (01 section 1.1, R5). -/
abbrev WellFormedHeader (h : Header) : Prop :=
  1 ≤ h.tRep.toNat ∧ h.tRep.toNat ≤ 1500 ∧ 16 ≤ h.gRep.toNat ∧ h.gRep.toNat ≤ 256 ∧ -40 ≤ h.sensorTemp.toInt
    ∧ h.sensorTemp.toInt ≤ 150 ∧ h.sensorFlags = 0

/-- R54, R82, R135: the readings that stage 5 takes into a digest of a side from the blocks as they stand in u, with the
vehicle state of s: the summaries of the glare map, the view state and origin, speed and angle as presented, and the codes
of the records ACTIVE of the side or COMMON, in position order. -/
abbrev DigestReadings (s u : State) (sd : Side) (d : Digest) : Prop :=
  d.glareTiles = (u.side sd).glare.tiles.countP (·.flag) ∧ d.minGa ≤ 256
    ∧ (∀ t ∈ (u.side sd).glare.tiles, d.minGa ≤ t.ga)
    ∧ (d.minGa = 256 ∨ ∃ t ∈ (u.side sd).glare.tiles, t.ga = d.minGa)
    ∧ d.view = (u.side sd).view.state ∧ d.originX = (u.side sd).view.originX ∧ d.originY = (u.side sd).view.originY
    ∧ d.speed = presentedSpeed s ∧ d.angle = presentedAngle s
    ∧ d.activeCodes = (u.table.records.filter fun r =>
        r.active && (decide (r.side = faultSideOf sd) || decide (r.side = .common))).map (·.code)

/-- A pending exposure command is late at a header report of frame f (R37). -/
abbrev LateAt (f : FrameNumber) (e : PendingCommand) : Prop :=
  2 ≤ (f - e.due).toNat ∧ (f - e.due).toNat ≤ 32767

/-- The line-CRC window after a push: the newest 60 counts (R13). -/
abbrev pushed (window : List Nat) (n : Nat) : List Nat := (window ++ [n]).drop (window.length + 1 - 60)

/-! ### Operations in parts, in the terms of the claims -/

/-- How many stages of a frame completion, or parts of a load, a command takes the operation on for, and the state with
that pause taken: the first pause that the state holds, or 6, which no operation exceeds, where it holds none (log
16). -/
abbrev TakesPause (s : State) (n : Nat) (u : State) : Prop :=
  (s.pauses = [] ∧ n = 6 ∧ u = s) ∨ ∃ rest, s.pauses = n :: rest ∧ u = { s with pauses := rest }

/-! ### Requests, in the terms of the claims -/

/-- A request comes at the end of a transaction begun on READY, on a port that may issue it (R161, R163 step 1). -/
abbrev Reaches (s : State) (p : Port) (c : RequestCode) : Prop := (s.port p).txn = .onReady ∧ authorised s p c = true

/-- The port after a request has been answered: no transaction, the reply in the making in its slot, its notices and
baselines kept (R161). -/
def answered (p : Port) (c : RequestCode) (tag : BitVec 4) (st : Status) (payload : List Byte) (s : State) : State :=
  s.modPort p fun x =>
    { x with txn := .none, shiftOut := []
             slot := .preparing (some { status := st, code := codeByte c, tag := tag, payload := payload }) }

end Sys2Proof.Machine
end

