-- ==== Sys2Proof/Certificates/Slice0/Obligations.lean ====
section
/-! DEFINITION. The statements for the provers. Each says in its docstring which rule it formalises, or which log entry
it rests on where the spec leaves the point open. -/

open Sys2Proof Sys2Proof.Machine

/-! ### The queue -/

/-- The model's own step (log 2): the command at the front is run on the state with the rest of the queue; on an
empty queue the part idles. -/
def Obligations.StepRunsFrontCommand : Prop :=
  (∀ (c : Instr) (rest : List Instr) (s : State),
      step { s with pending := c :: rest } = exec c { s with pending := rest })
    ∧ ∀ s : State, s.pending = [] → step s = .next s

/-- The model's own form: every command in every state ends in a next state, one whose event cannot occur there in the
state it found (log 3), and the waiting commands are kept (log 2). -/
def Obligations.EveryCommandCompletes : Prop :=
  ∀ (c : Instr) (s : State), ∃ t, exec c s = .next t ∧ t.pending = s.pending

/-! ### Resets and the load -/

/-- R181, R129, R111, R165, R169, R180: a power-on. Every block takes its power-on values with the working copy as it
stands, both lines of each kind are low, a transaction in progress is cut. Outside a programming period the stored image
stays; within one the period is cut off with the effect of a supply failure on the stored image: every region being
programmed has an invalid checksum, and no CAL_PROGRAM_FAIL is sent. That the reset and its load are two commands, and
that RESET_N is low between them, is the model's reading (log 5). -/
def Obligations.PowerOnResetsEveryBlock : Prop :=
  ∀ s : State, ∃ t, exec .powerOnReset s = .next t ∧ t.phase = .resetHeld ∧ t.time = { epoch := 0, ms := 0 }
    ∧ t.table = { records := [], generation := 0 } ∧ t.activePattern = 0 ∧ t.vehicle = resetVehicle
    ∧ (∀ sd, t.side sd = resetSide s.cal sd ∧ validLine t sd = false)
    ∧ (∀ p, attnLine t p = false
        ∧ t.port p = { slot := .preparing none, txn := if (s.port p).txn = .none then .none else .cut, shiftOut := []
                       notices := noNotices, baseL := zeroCounters, baseR := zeroCounters })
    ∧ t.supplyOk = s.supplyOk ∧ t.eventIn = s.eventIn ∧ t.pending = s.pending
    ∧ (s.store.programming = none → t.store = s.store ∧ t.freeIndex = s.freeIndex)
    ∧ ∀ programmed, s.store.programming = some programmed →
        t.store.programming = none
          ∧ (∀ r, (perRegionGet programmed r = true →
                checksumOk (perRegionGet t.store.stored r) = false
                  ∧ (perRegionGet t.store.stored r).items.length = regionLength r
                  ∧ regionValid r (perRegionGet t.store.stored r) = false)
              ∧ (perRegionGet programmed r = false → perRegionGet t.store.stored r = perRegionGet s.store.stored r))
          ∧ t.store.staging = s.store.staging ∧ t.store.cal = s.store.cal ∧ t.store.defaulted = s.store.defaulted
          ∧ t.store.mask = s.store.mask ∧ t.store.window = s.store.window ∧ t.store.lowered = s.store.lowered

/-- R17, R42, R63, R83, R101, R158: the values that a reset gives a side, from the calibration it loads. The
fill count where AUTOSTART is OFF is log 22's and left out. -/
def Obligations.SideResetValues : Prop :=
  ∀ (k : Calibration) (sd : Side) (x : SideState), x = resetSide k sd →
    (x.clr.locked = false ∧ x.clr.frame.state = .idle ∧ x.clr.lastAccepted = none ∧ x.clr.contRun = 0
        ∧ x.clr.window = [] ∧ x.clr.sending = none ∧ x.clr.waiting = none ∧ x.clr.lastHeader = none
        ∧ x.clr.framesAccepted = 0 ∧ x.clr.framesDropped = 0 ∧ x.clr.linesRepaired = 0 ∧ x.clr.seqGaps = 0)
      ∧ (x.testFlag = false ∧ x.testNumber = 0 ∧ x.inputs = [] ∧ x.running = none)
      ∧ (x.stats.tiles = List.replicate 192 { mean := 0, peak := 0, bright := 0 } ∧ x.stats.fmean = 0
        ∧ x.stats.statsFrame = none ∧ x.stats.prevMeans = none ∧ x.stats.identRun = 0)
      ∧ x.expo = { mode := .auto, manual := none, manualSend := false, m := 0, l := 0, commands := []
                   lastIssued := 15, lastReported := none, confirmedRun := 0, dayNight := .day, policy := .auto
                   nightRun := 0, dayRun := 0 }
      ∧ (x.glare.tiles = List.replicate 192 { flag := false, gt := 256, ge := 256, ga := 256, h := 0 }
        ∧ x.glare.lastUpdate = none ∧ x.glare.lastBref = none)
      ∧ (x.view.state = .starting ∧ x.view.startCount = 0 ∧ x.view.heldCount = 0 ∧ x.view.lastComposed = none
        ∧ x.view.targetX = x.view.originX ∧ x.view.targetY = x.view.originY ∧ x.view.panLimited = false
        ∧ x.view.slot = none ∧ x.view.fresh = false
        ∧ x.view.originX = min (geometryOf k sd).x0 960 ∧ x.view.originY = min (geometryOf k sd).y0 720
        ∧ x.view.driverDx = 0 ∧ x.view.driverDy = 0 ∧ x.view.trailer = 0 ∧ x.view.firstFrame = true
        ∧ x.view.recoverCount = 0 ∧ x.view.lastRecovered = none ∧ x.view.framesHeld = 0)
      ∧ (x.dlt.locked = false ∧ x.dlt.state = .down ∧ x.dlt.reference = none ∧ x.dlt.confirmed = none
        ∧ x.dlt.run = 0 ∧ x.dlt.chosen = none ∧ x.dlt.negTimer = false ∧ x.dlt.failedTimer = false
        ∧ x.dlt.upDeadline = true ∧ x.dlt.retry = false ∧ x.dlt.tagCounter = 255 ∧ x.dlt.sent = []
        ∧ x.dlt.mismatchRun = 0 ∧ x.dlt.matchRun = 0 ∧ x.dlt.blCommand = k.image.blNightMax
        ∧ x.dlt.blSent = k.image.blNightMax ∧ x.dlt.pref = 100 ∧ x.dlt.ambient = none ∧ x.dlt.actual = none
        ∧ x.dlt.sigMismatches = 0 ∧ x.dlt.forward = .nothing)
      ∧ ((∀ a, slotRead x.recorder.slots a = none) ∧ x.recorder.rp = 0 ∧ x.recorder.frozen = 0
        ∧ x.recorder.headers = [] ∧ x.recorder.waiting = noSources ∧ x.recorder.current = none ∧ x.recorder.seq = 0
        ∧ x.recorder.cursorV = 0 ∧ x.recorder.cursorC = 0 ∧ x.recorder.size = k.capture.size
        ∧ x.recorder.npre = k.capture.npre ∧ x.recorder.crossLink = k.capture.crossLink
        ∧ x.recorder.triggersLost = 0 ∧ x.recorder.framesSuppressed = 0
        ∧ (k.capture.autostart = true → x.recorder.state = .filling ∧ x.recorder.fill = 0)
        ∧ (k.capture.autostart = false → x.recorder.state = .stopped))

/-- R174, R175, R165: the load of a power-on, in its parts (log 16): RESET_N rises; steps 1 to 5, which leave the store
as filled and every side at its reset values from the working copy just filled, while the ports stay without a reply;
steps 6 and 7, which raise CAL_DEFAULTS with the set of DEFAULTED regions, or leave the table empty, and make both slots
READY with the RESET_REPLY of cause POWER_ON. A trigger of CAL_DEFAULTS may change a recorder. That the reset and its load
are two commands is log 5's; that the age at step 5 is held below the STATE_HOLD just loaded is the model's choice, after
06 section 6.4 (log 11). -/
def Obligations.LoadAfterPowerOn : Prop :=
  ∀ (s u : State) (n : Nat), TakesPause s n u →
    (s.phase = .resetHeld → n = 1 → exec .load s = .next { u with phase := .loading })
    ∧ (s.phase = .resetHeld ∨ s.phase = .loading → ∃ w : State,
        w = { u with
          phase := .reporting .powerOn, activePattern := 0
          vehicle := { resetVehicle with
            age := min s.vehicle.age ((loadCalibration s.store.stored).integrity.stateHold - 1) }
          store :=
            { stored := s.store.stored, staging := perRegion fun r => (perRegionGet s.store.stored r).items
              cal := loadCalibration s.store.stored
              defaulted := perRegion fun r => !regionValid r (perRegionGet s.store.stored r)
              mask := (loadCalibration s.store.stored).access.storedMask, window := true, lowered := false
              programming := none }
          left := resetSide (loadCalibration s.store.stored) .left
          right := resetSide (loadCalibration s.store.stored) .right }
        ∧ (n = (if s.phase = .resetHeld then 2 else 1) → exec .load s = .next w)
        ∧ (s.table = { records := [], generation := 0 } → (if s.phase = .resetHeld then 3 else 2) ≤ n →
          ∃ t, exec .load s = .next t ∧ t.phase = .running ∧ t.time = s.time ∧ t.vehicle = w.vehicle
            ∧ t.activePattern = 0 ∧ t.store = w.store
            ∧ (∀ sd, { t.side sd with recorder := resetRecorder t.cal } = resetSide t.cal sd)
            ∧ (∀ p, t.port p = { s.port p with
                                 slot := .ready { status := .resetReply, code := 0, tag := 0, payload := [1] } })
            ∧ ((∀ r, regionValid r (perRegionGet s.store.stored r) = true) →
                t.table = s.table ∧ ∀ sd, t.side sd = resetSide t.cal sd)
            ∧ ((∃ r, regionValid r (perRegionGet s.store.stored r) = false) →
                t.table.records[0]? = some
                  { code := .calDefaults, side := .common, active := true, firstRaise := s.time, lastRaise := s.time
                    lastClear := none, onsets := 1, detail := BitVec.ofNat 16 (regionBits t.store.defaulted)
                    ackedBy := { v := false, c := false } })))
    ∧ ∀ cause, s.phase = .reporting cause → 1 ≤ n → ∃ t, exec .load s = .next t ∧ t.phase = .running
        ∧ t.time = s.time ∧ t.vehicle = s.vehicle ∧ t.activePattern = s.activePattern ∧ t.store = s.store
        ∧ (∀ p, t.port p = { s.port p with slot := .ready (resetReply cause) })
        ∧ resetReply cause =
            { status := .resetReply, code := 0, tag := 0, payload := [if cause = .powerOn then 1 else 2] }
        ∧ (∀ sd, { t.side sd with recorder := (s.side sd).recorder } = s.side sd)
        ∧ ((∀ r, perRegionGet s.store.defaulted r = false) →
            t.table = tableClear s.table .calDefaults .common s.time)
        ∧ ((∃ r, perRegionGet s.store.defaulted r = true) →
            ∃ x, findRecord t.table .calDefaults .common = some x ∧ x.active = true)

/-- R159, R174, R111, R165: the load of a RESTART, in its two parts (log 16). Steps 1 to 5: the store as filled, every
block of a side but its recorder at its reset values; each recorder keeps its frozen captures where the loaded S equals
the running S, and loses them where it differs. Steps 6 and 7: both slots READY with the RESET_REPLY of cause RESTART. The
time base and the vehicle state's age run on; that the age at step 5 is held below the STATE_HOLD just loaded is the
model's choice, after 06 section 6.4 (log 11). That the reset and its load are two commands is log 5's. -/
def Obligations.LoadAfterRestart : Prop :=
  ∀ (s u : State) (n : Nat), TakesPause s n u → s.phase = .restarting → (∀ sd, RecorderSound (s.side sd).recorder) →
    1 ≤ n →
    ∃ t, exec .load s = .next t ∧ t.phase = (if n = 1 then .reporting .restart else .running) ∧ t.time = s.time
      ∧ t.store =
          { stored := s.store.stored, staging := perRegion fun r => (perRegionGet s.store.stored r).items
            cal := loadCalibration s.store.stored
            defaulted := perRegion fun r => !regionValid r (perRegionGet s.store.stored r)
            mask := (loadCalibration s.store.stored).access.storedMask, window := true, lowered := false
            programming := none }
      ∧ t.vehicle = { s.vehicle with age := min s.vehicle.age (t.cal.integrity.stateHold - 1) }
      ∧ (n = 1 → t.table = s.table ∧ ∀ p, t.port p = s.port p)
      ∧ (2 ≤ n → ∀ p, (t.port p).slot = .ready { status := .resetReply, code := 0, tag := 0, payload := [2] })
      ∧ (∀ sd, { t.side sd with recorder := resetRecorder t.cal } = resetSide t.cal sd)
      ∧ ∀ (sd : Side) (x y : Recorder), x = (s.side sd).recorder → y = (t.side sd).recorder →
          y.seq = x.seq ∧ y.size = t.cal.capture.size ∧ y.npre = t.cal.capture.npre
            ∧ y.crossLink = t.cal.capture.crossLink ∧ y.cursorV = 0 ∧ y.cursorC = 0 ∧ y.current = none
            ∧ y.waiting = noSources ∧ y.framesSuppressed = 0
            ∧ (t.cal.capture.size = x.size →
                y.rp = x.rp ∧ y.frozen = x.frozen ∧ y.headers = x.headers
                  ∧ ∀ b i, bufferMark x b = .frozen → i < x.size →
                      slotRead y.slots (slotIndex y b i) = slotRead x.slots (slotIndex x b i))
            ∧ (t.cal.capture.size ≠ x.size →
                y.rp = 0 ∧ y.frozen = 0 ∧ y.headers = [] ∧ ∀ a, slotRead y.slots a = none)
            ∧ (t.cal.capture.autostart = false → x.state = .stopped → y.state = .stopped)
            ∧ (t.cal.capture.autostart = true ∨ x.state ≠ .stopped →
                y.state = if y.frozen < bufferCount y then .filling else .full)

/-- R181, R130, R165, R111: a RESTART on a port that holds CAL authority, while no programming runs. The table keeps its
records in their order, every ACTIVE one made PASSIVE with last_clear the present stamp, less those that are then PASSIVE
and marked by their whole audience; the generation rises by 1 for each record made PASSIVE and each removed. Every block of
a side is at its reset values with the working copy as it stands, but for the recorder, which R159 examines at the
load (log 5); that the CROSS triggers on their way to it are discarded is the model's (log 14). -/
def Obligations.RestartTaken : Prop :=
  ∀ (s : State) (p : Port) (tag : BitVec 4), Reaches s p .restart → s.store.programming = none →
    ∃ t, exec (.restart p tag []) s = .next t ∧ t.phase = .restarting ∧ t.time = s.time ∧ t.store = s.store
      ∧ t.table.records =
          ((s.table.records.map fun r =>
              if r.active then { r with active := false, lastClear := some s.time } else r).filter fun r =>
            !(r.ackedBy.v && (r.ackedBy.c || decide (severityOf r.code ≠ .viewLoss))))
      ∧ t.table.generation = s.table.generation + BitVec.ofNat 16
          (s.table.records.countP (·.active) + (s.table.records.length - t.table.records.length))
      ∧ t.vehicle = resetVehicle ∧ t.activePattern = 0
      ∧ (∀ sd, validLine t sd = false
          ∧ t.side sd = { resetSide s.cal sd with
                          recorder := { (s.side sd).recorder with crossIncoming := 0 } })
      ∧ (t.port p).txn = .none
      ∧ (∀ q, (t.port q).slot = .preparing none ∧ (t.port q).notices = noNotices
          ∧ (t.port q).baseL = zeroCounters ∧ (t.port q).baseR = zeroCounters
          ∧ (q ≠ p → (t.port q).txn = if (s.port q).txn = .none then .none else .cut))
      ∧ t.supplyOk = s.supplyOk ∧ t.eventIn = s.eventIn ∧ t.pending = s.pending ∧ t.freeIndex = s.freeIndex

/-- R173 with 11 section 11.5: a region that passes is copied into the working copy whole. The working copy holds every
item byte of a valid region of its own length, so that a WORKING read returns what is stored. The order of lux and level
in the curve is log 9's. -/
def Obligations.ValidRegionsKeepTheirBytes : Prop :=
  ∀ (st : PerRegion StoredRegion) (r : Region), (perRegionGet st r).items.length = regionLength r →
    (regionValid r (perRegionGet st r) = true → encodeRegion (loadCalibration st) r = (perRegionGet st r).items)
      ∧ (regionValid r (perRegionGet st r) = false →
          encodeRegion (loadCalibration st) r = encodeRegion defaultCalibration r)

/-! ### Management ports -/

/-- R161: a request received in a transaction begun on PREPARING, or cut by a reset (R165), is discarded without being
examined, whatever its code; so are bytes that frame none. The transaction ends and nothing else changes. In no
transaction, and in one begun on READY, REQUEST_DISCARDED is no event (log 3). -/
def Obligations.RequestDiscardedUnexamined : Prop :=
  ∀ (s : State) (p : Port), SupplySound s →
    ((s.port p).txn = .onPreparing ∨ (s.port p).txn = .cut →
        exec (.requestDiscarded p) s = .next (s.modPort p fun x => { x with txn := .none, shiftOut := [] })
          ∧ (∀ (c : RequestCode) (tag : BitVec 4) (ps : List Byte),
            exec (requestInstr c p tag ps s.supplyOk) s
              = .next (s.modPort p fun x => { x with txn := .none, shiftOut := [] }))
          ∧ (∀ bs, exec (.badFrame p bs) s = .next (s.modPort p fun x => { x with txn := .none, shiftOut := [] })))
      ∧ ((s.port p).txn = .none ∨ (s.port p).txn = .onReady → exec (.requestDiscarded p) s = .next s)

/-- R163 steps 1 and 2, R164, R166: a framed request on a port without authority is answered REFUSED_AUTHORITY, and one
of a wrong parameter length, or of one side that is neither LEFT nor RIGHT, REFUSED_PARAM, with no payload; the reply is
in the making and nothing else changes. With the default ACCESS region each port lacks authority for the requests
listed. -/
def Obligations.RefusedRequestsChangeNothing : Prop :=
  (∀ (s : State) (p : Port) (c : RequestCode) (tag : BitVec 4) (ps : List Byte), SupplySound s →
      (s.port p).txn = .onReady →
        (authorised s p c = false →
            exec (requestInstr c p tag ps s.supplyOk) s = .next (answered p c tag .refusedAuthority [] s))
          ∧ (authorised s p c = true → lengthOk c ps.length = false →
            exec (requestInstr c p tag ps s.supplyOk) s = .next (answered p c tag .refusedParam [] s))
          ∧ (authorised s p c = true → 1 < (ps.getD 0 0).toNat →
            c ∈ [RequestCode.readCounters, .readTileMap, .getCaptureStatus, .readCaptureHeader, .readCaptureSlot,
              .readCaptureNext, .releaseCapture, .captureControl, .setCaptureParams, .clearCapture] →
            exec (requestInstr c p tag ps s.supplyOk) s = .next (answered p c tag .refusedParam [] s)))
    ∧ ∀ s : State, s.cal.access = defaultAccess → ∀ c : RequestCode,
        (authorised s .v c = false ↔ c ∈ [RequestCode.setViewOffset, .setNightPolicy, .setBrightness])
          ∧ (authorised s .c c = false ↔
              c ∈ [RequestCode.setVehicleState, .setTime, .setExposureMode, .testImage, .captureControl,
                .setCaptureParams, .clearCapture, .releaseCapture, .calStage, .calDiscard, .calProgram, .calProtect,
                .restart])

/-- R160, R161, R165: chip select falls, and the reply becomes READY. Outside a transaction the port sends the reply that
a READY slot holds, or the NOT_READY frame with the code and tag of the request being prepared (0 and 0 where there is
none), or zero bytes while RESET_N is low. Within a transaction there is no such event; with no reply being formed none
becomes READY (log 3). -/
def Obligations.TransactionsAndReplies : Prop :=
  ∀ (s : State) (p : Port),
    ((s.port p).txn = .none → s.phase ≠ .resetHeld →
        (∀ r, (s.port p).slot = .ready r →
            exec (.chipSelectFall p) s = .next (s.modPort p fun x =>
              { x with txn := .onReady
                       shiftOut := replyHead r ++ [crc8 (replyHead r)] }))
          ∧ (∀ r, (s.port p).slot = .preparing (some r) →
            exec (.chipSelectFall p) s = .next (s.modPort p fun x =>
              { x with txn := .onPreparing
                       shiftOut := [0, 0x21, r.code, 0#4 ++ r.tag, crc8 [0, 0x21, r.code, 0#4 ++ r.tag]] }))
          ∧ ((s.port p).slot = .preparing none →
            exec (.chipSelectFall p) s = .next (s.modPort p fun x =>
              { x with txn := .onPreparing, shiftOut := [0, 0x21, 0, 0, crc8 [0, 0x21, 0, 0]] })))
      ∧ ((s.port p).txn = .none → s.phase = .resetHeld →
          exec (.chipSelectFall p) s = .next (s.modPort p fun x => { x with txn := .cut, shiftOut := [] }))
      ∧ ((s.port p).txn ≠ .none → exec (.chipSelectFall p) s = .next s)
      ∧ (∀ r, (s.port p).slot = .preparing (some r) →
          exec (.replyReady p) s = .next (s.modPort p fun x => { x with slot := .ready r }))
      ∧ ((∀ r, (s.port p).slot ≠ .preparing (some r)) → exec (.replyReady p) s = .next s)

/-- R162: a frame received on a READY slot is checked in the order LENGTH, SHORT, CRC, CODE; the reply of the first check
that fails carries its reason, and the code byte and tag as received, or 0. No block sees the frame. -/
def Obligations.BadFrameReply : Prop :=
  ∀ (s : State) (p : Port) (bs : List Byte) (n : Nat), (s.port p).txn = .onReady → n = (bs.getD 2 0).toNat →
    ∀ reason : Byte,
      ((bs.length < 3 ∨ 240 < n) ∧ reason = 1)
          ∨ (3 ≤ bs.length ∧ n ≤ 240 ∧ bs.length < 4 + n ∧ reason = 2)
          ∨ (4 + n ≤ bs.length ∧ n ≤ 240 ∧ crc8 (bs.take (3 + n)) ≠ bs.getD (3 + n) 0 ∧ reason = 3)
          ∨ (4 + n ≤ bs.length ∧ n ≤ 240 ∧ crc8 (bs.take (3 + n)) = bs.getD (3 + n) 0
              ∧ (∀ c ∈ requestCodes, codeByte c ≠ bs.getD 0 0) ∧ reason = 4) →
        exec (.badFrame p bs) s = .next (s.modPort p fun x =>
          { x with txn := .none, shiftOut := []
                   slot := .preparing (some { status := .badFrame, code := bs.getD 0 0
                                              tag := (bs.getD 1 0).extractLsb' 0 4, payload := [reason] }) })

/-- R162 with 11 section 11.3: a frame that a master sends for a request is read as that request, whatever follows it in
the transaction; tag and parameters come back bit for bit. -/
def Obligations.FramedRequestReadsBack : Prop :=
  ∀ (c : RequestCode) (p : Port) (tag : BitVec 4) (ps more : List Byte) (supplyOk : Bool), ps.length ≤ 240 →
    transactionInstr p supplyOk (requestBytes c tag ps ++ more) = requestInstr c p tag ps supplyOk
      ∧ (requestBytes c tag ps).length = 4 + ps.length

/-- R166, R168, R169: NO_OPERATION is answered OK with no payload and changes nothing; GET_STATUS is answered with the
56 bytes of 11 section 11.4, formed before its master's notice set is emptied, and leaves the other master's set. The
master's ATTN line is high exactly while a record of its audience lacks its mark or a notice waits for it. -/
def Obligations.StatusRequests : Prop :=
  (∀ (s : State) (p : Port), attnLine s p = true ↔
      (∃ r ∈ s.table.records, (p = .v ∧ r.ackedBy.v = false)
          ∨ (p = .c ∧ severityOf r.code = .viewLoss ∧ r.ackedBy.c = false))
        ∨ (s.port p).notices ≠ noNotices)
    ∧ ∀ (s : State) (p : Port) (tag : BitVec 4) (gen : List Byte) (part : Side → List Byte), (s.port p).txn = .onReady →
      gen = [s.table.generation.extractLsb' 8 8, s.table.generation.extractLsb' 0 8] →
      (∀ sd x, x = s.side sd → part sd =
          [BitVec.ofNat 8 (viewNumber x.view.state), BitVec.ofNat 8 (dayNightNumber x.expo.dayNight),
              BitVec.ofNat 8 (exposureModeNumber x.expo.mode), BitVec.ofNat 8 (policyNumber x.expo.policy),
              if x.testFlag then 1 else 0, if x.view.panLimited then 1 else 0, BitVec.ofNat 8 (negNumber x.dlt.state),
              BitVec.ofNat 8 (bitsOf [x.dlt.chosen.isSome, x.dlt.ambient.isSome, x.dlt.actual.isSome]),
              if x.dlt.chosen = some .m30 then 1 else 0]
            ++ word16 x.dlt.blSent ++ word16 (x.dlt.ambient.getD 0).toNat ++ word16 (x.dlt.actual.getD 0).toNat
            ++ [BitVec.ofNat 8 x.dlt.pref, BitVec.ofNat 8 (recorderNumber x.recorder.state),
              BitVec.ofNat 8 x.recorder.frozen,
              BitVec.ofNat 8 (s.table.records.countP fun r => decide (r.side = faultSideOf sd)),
              BitVec.ofNat 8 (s.table.records.countP fun r =>
                decide (r.active = true ∧ severityOf r.code = .viewLoss ∧ r.side = faultSideOf sd))] ++ gen) →
      (∀ sd, (part sd).length = 22)
        ∧ exec (.noOperation p tag []) s = .next (answered p .noOperation tag .ok [] s)
        ∧ exec (.getStatus p tag []) s = .next
            (answered p .getStatus tag .ok
              ([s.time.epoch, s.time.ms.extractLsb' 24 8, s.time.ms.extractLsb' 16 8, s.time.ms.extractLsb' 8 8,
                  s.time.ms.extractLsb' 0 8, if isFresh s then 1 else 0, BitVec.ofNat 8 s.table.records.length]
                ++ gen ++ [if s.store.programming.isSome then 1 else 0, BitVec.ofNat 8 (noticeBits (s.port p).notices),
                  if unacknowledged s.table p then 1 else 0] ++ part .left ++ part .right)
              (s.modPort p fun x => { x with notices := noNotices }))

/-- R170, R171: READ_COUNTERS reports, for each of the eight counters of a side, D, the rise of its total over the
master's baseline modulo 2^32: min(D, 65535) as its delta, marked as saturated where D exceeds 65535; and it sets the
baseline to the total. -/
def Obligations.CountersFollowBaselines : Prop :=
  ∀ (s : State) (p : Port) (tag : BitVec 4) (sd : Side), (s.port p).txn = .onReady →
    ∃ (deltas : List Nat) (marks : List Bool),
      exec (.readCounters p tag [BitVec.ofNat 8 (sideNumber sd)]) s = .next
          (answered p .readCounters tag .ok
            (BitVec.ofNat 8 (sideNumber sd) :: (deltas.flatMap fun d => word16 d) ++ [BitVec.ofNat 8 (bitsOf marks)])
            (s.modPort p (setBase sd (totalsOf (s.side sd)))))
        ∧ deltas.length = 8 ∧ marks.length = 8
        ∧ ∀ (i : Nat) (total base : BitVec 32) (d : Nat), i < 8 → (counterList (totalsOf (s.side sd)))[i]? = some total →
            (counterList (baseOf (s.port p) sd))[i]? = some base → d = (2 ^ 32 + total.toNat - base.toNat) % 2 ^ 32 →
              deltas[i]? = some (min d 65535) ∧ marks[i]? = some (decide (65535 < d))

/-! ### Time base and vehicle state -/

/-- R107, R109: the Time Base. A millisecond of the part's own clock, with no reset held: the count rises by 1 and wraps,
the epoch does not change; the age rises with it, its last step being the expiry's own event (log 11); while RESET_N is
low nothing changes (R181). SET_TIME(ms) sets the count, raises the epoch by 1 modulo 256, and is answered OK with the old
epoch, the old count and the new epoch. Nothing else changes. -/
def Obligations.TimeBaseCounts : Prop :=
  (∀ s : State, (s.phase = .resetHeld → exec .timeTick s = .next s) ∧ (s.phase ≠ .resetHeld →
      ∃ t age, exec .timeTick s = .next t ∧ t = { s with time := t.time, vehicle := { s.vehicle with age := age } }
        ∧ t.time.epoch = s.time.epoch ∧ t.time.ms.toNat = (s.time.ms.toNat + 1) % 2 ^ 32
        ∧ (s.vehicle.age + 1 < s.cal.integrity.stateHold → age = s.vehicle.age + 1)
        ∧ (s.cal.integrity.stateHold ≤ s.vehicle.age + 1 → age = s.vehicle.age)))
    ∧ ∀ (s : State) (p : Port) (tag : BitVec 4) (a b c d : Byte), Reaches s p .setTime →
        exec (.setTime p tag [a, b, c, d]) s = .next
          (answered p .setTime tag .ok
            ([s.time.epoch, s.time.ms.extractLsb' 24 8, s.time.ms.extractLsb' 16 8, s.time.ms.extractLsb' 8 8,
              s.time.ms.extractLsb' 0 8, s.time.epoch + 1])
            { s with time := { epoch := s.time.epoch + 1, ms := a ++ b ++ c ++ d } })

/-- R102, R21, R117: an accepted SET_VEHICLE_STATE replaces the record whole with its fields as clamped, sets the last
permission and the age, clears VEHICLE_STALE, and ends the tests of both sides unless the speed is present and 0; a
present boolean coded as neither value gives REFUSED_PARAM and changes nothing. The presence bits are 0..3 of the first
byte. -/
def Obligations.SetVehicleStateReplacesRecord : Prop :=
  ∀ (s : State) (p : Port) (tag : BitVec 4) (m v0 v1 a0 a1 rev per : Byte), Reaches s p .setVehicleState →
    (((m.getLsbD 2 = true → rev.toNat ≤ 1) ∧ (m.getLsbD 3 = true → per.toNat ≤ 1)) →
      ∃ v : Vehicle,
        v.held = true ∧ v.age = 0
          ∧ v.speed = (if m.getLsbD 0 then some (min (v0 ++ v1).toNat 250) else none)
          ∧ v.angle = (if m.getLsbD 1 then some (max (-180) (min (a0 ++ a1).toInt 180)) else none)
          ∧ v.reverse = (if m.getLsbD 2 then some (decide (rev = 1)) else none)
          ∧ v.permitted = (if m.getLsbD 3 then some (decide (per = 1)) else none)
          ∧ v.lastPermission = (!m.getLsbD 3 || decide (per = 1))
          ∧ exec (.setVehicleState p tag [m, v0, v1, a0, a1, rev, per]) s = .next
              (answered p .setVehicleState tag
                (if (m.getLsbD 0 = true ∧ 250 < (v0 ++ v1).toNat)
                    ∨ (m.getLsbD 1 = true ∧ ((a0 ++ a1).toInt < -180 ∨ 180 < (a0 ++ a1).toInt))
                  then .okClamped else .ok) []
                ((fun u : State => if v.speed = some 0 then u else clearTest .right (clearTest .left u))
                  { s with vehicle := v, table := tableClear s.table .vehicleStale .common s.time })))
      ∧ ((m.getLsbD 2 = true ∧ 1 < rev.toNat) ∨ (m.getLsbD 3 = true ∧ 1 < per.toNat) →
          exec (.setVehicleState p tag [m, v0, v1, a0, a1, rev, per]) s
            = .next (answered p .setVehicleState tag .refusedParam [] s))

/-- R103, R104, R21: freshness. A record is FRESH while it is held and its age is below STATE_HOLD, and it presents itself
by its fields; STALE, it presents nothing but the last permission. At the expiry, the model's own step from the
millisecond before STATE_HOLD onto it (log 11), the record is kept and goes STALE, VEHICLE_STALE is raised with detail 0
where a record is held and 1 where none is, and both tests end. At any other age the expiry is one that a request has
cancelled, or one taken already, and it leaves the state as it is (log 3). -/
def Obligations.FreshnessAndExpiry : Prop :=
  (∀ s : State,
    (s.vehicle.held = true ∧ s.vehicle.age < s.cal.integrity.stateHold →
        isFresh s = true ∧ presentedSpeed s = s.vehicle.speed ∧ presentedAngle s = s.vehicle.angle
          ∧ presentedReverse s = decide (s.vehicle.reverse = some true)
          ∧ presentedPermission s = decide (s.vehicle.permitted ≠ some false))
      ∧ (s.vehicle.held = false ∨ s.cal.integrity.stateHold ≤ s.vehicle.age →
          isFresh s = false ∧ presentedSpeed s = none ∧ presentedAngle s = none ∧ presentedReverse s = false
            ∧ presentedPermission s = s.vehicle.lastPermission))
  ∧ ∀ s : State, blocksRun s.phase = true →
    (s.vehicle.age + 1 = s.cal.integrity.stateHold →
        exec .vehicleStateExpiry s = .next
          (clearTest .right (clearTest .left (sendRaise .vehicleStale .common (if s.vehicle.held then 0 else 1)
            { s with vehicle := { s.vehicle with age := s.cal.integrity.stateHold } })))
          ∧ ∀ t, exec .vehicleStateExpiry s = .next t →
              isFresh t = false ∧ presentedPermission t = s.vehicle.lastPermission
                ∧ exec .vehicleStateExpiry t = .next t)
      ∧ (s.vehicle.age + 1 ≠ s.cal.integrity.stateHold → exec .vehicleStateExpiry s = .next s)

/-! ### Camera links -/

/-- R3, R2, R16: the lock state changes. A gain sends the clear of LINK_LOSS and leaves the rest as it is. A loss sends
the raise, drops a frame in progress, and leaves the frame record IDLE, the last number absent, the transmitter empty,
the continuity run as it stands. A change to the state held is no event (log 3). -/
def Obligations.CameraLockFollowsLink : Prop :=
  ∀ (s : State) (sd : Side), blocksRun s.phase = true →
    ((s.side sd).clr.locked = false →
        exec (.cameraLockAcquired sd) s = .next
            (sendClear .linkLoss (faultSideOf sd) (s.modClr sd fun c => { c with locked := true }))
          ∧ exec (.cameraLockLost sd) s = .next s)
      ∧ ((s.side sd).clr.locked = true →
          exec (.cameraLockAcquired sd) s = .next s
            ∧ ∃ u t : State, u = sendRaise .linkLoss (faultSideOf sd) 0 (s.modClr sd fun c => { c with locked := false })
                ∧ exec (.cameraLockLost sd) s = .next t
                ∧ t = (if (s.side sd).clr.frame.state = .receiving then dropFrame sd u else u).modClr sd (fun c =>
                    { c with frame := idleFrame, lastAccepted := none, sending := none, waiting := none })
                ∧ (t.side sd).clr.contRun = (s.side sd).clr.contRun
                ∧ ((s.side sd).clr.frame.state ≠ .receiving → (t.side sd).clr.window = (s.side sd).clr.window)
                ∧ ∃ r, findRecord t.table .linkLoss (faultSideOf sd) = some r ∧ r.active = true)

/-- R9, R13, R18: a drop event: the counter, the window with its raise, clear or neither, and the dropped-frame report
to frame completion, unless the side is in TEST. Nothing else changes but by the report of LINE_CRC. -/
def Obligations.DropEvent : Prop :=
  ∀ (s : State) (sd : Side) (h : Header) (w : List Nat), (s.side sd).clr.frame.header = some h →
    (s.side sd).clr.window.length ≤ 60 → w = pushed (s.side sd).clr.window (s.side sd).clr.frame.badCount →
      ∃ u v report,
        u = s.modClr sd (fun c => { c with framesDropped := c.framesDropped + 1, window := w })
          ∧ (s.cal.integrity.crcLimit ≤ w.sum →
              v = sendRaise .lineCrc (faultSideOf sd) (BitVec.ofNat 16 (min w.sum 65535)) u)
          ∧ (w.sum < s.cal.integrity.crcLimit → w.sum < s.cal.integrity.crcLimit / 2 →
              v = sendClear .lineCrc (faultSideOf sd) u)
          ∧ (w.sum < s.cal.integrity.crcLimit → s.cal.integrity.crcLimit / 2 ≤ w.sum → v = u)
          ∧ dropFrame sd s = v.modSide sd (fun x =>
              if x.testFlag then x else { x with inputs := x.inputs ++ [.dropped report] })
          ∧ report.number = h.frameNumber
          ∧ (WellFormedHeader h → report.exposure = some (h.tRep.toNat, h.gRep.toNat))
          ∧ (¬ WellFormedHeader h → report.exposure = none)
          ∧ SameElsewhere sd s (dropFrame sd s)

/-- R4, R5, R14: a FRAME_START in LOCKED. An open frame is dropped; the new one is RECEIVING with its counts 0, and the
temperature is examined; or its header fails, and it is dropped at once with the record DISCARDING. In UNLOCKED nothing
reaches the packet level (R1). -/
def Obligations.FrameStartOpens : Prop :=
  ∀ (s : State) (sd : Side) (h : Header), blocksRun s.phase = true →
    ((s.side sd).clr.locked = false → exec (.frameStart sd h) s = .next s)
      ∧ ((s.side sd).clr.locked = true →
          ∃ u v : State, u = (if (s.side sd).clr.frame.state = .receiving then dropFrame sd s else s)
            ∧ v = u.modClr sd (fun c =>
                { c with frame := { state := .receiving, header := some h, nextLine := 0, badCount := 0, badLines := []
                                    rows := [] } })
            ∧ (WellFormedHeader h →
                ∃ w, w = v.modClr sd (fun c => { c with lastHeader := some (h.tRep.toNat, h.gRep.toNat) })
                  ∧ (s.cal.integrity.tempLimit ≤ h.sensorTemp.toInt →
                      exec (.frameStart sd h) s = .next (sendRaise .sensorTemp (faultSideOf sd) h.sensorTemp w))
                  ∧ (h.sensorTemp.toInt ≤ s.cal.integrity.tempLimit - 5 →
                      exec (.frameStart sd h) s = .next (sendClear .sensorTemp (faultSideOf sd) w))
                  ∧ (s.cal.integrity.tempLimit - 5 < h.sensorTemp.toInt →
                      h.sensorTemp.toInt < s.cal.integrity.tempLimit → exec (.frameStart sd h) s = .next w))
            ∧ (¬ WellFormedHeader h →
                exec (.frameStart sd h) s = .next ((dropFrame sd v).modClr sd fun c =>
                  { c with frame := { c.frame with state := .discarding } })))

/-- R6, R4: a LINE in LOCKED: bad CRC, good and in order, good and out of order, or past line 1439; ignored while the
record is IDLE or DISCARDING, and in UNLOCKED (R1). -/
def Obligations.LineTaken : Prop :=
  ∀ (s : State) (sd : Side) (i : BitVec 16) (px : List Byte) (crc : BitVec 16) (f : FrameInProgress),
    blocksRun s.phase = true → f = (s.side sd).clr.frame →
      ((s.side sd).clr.locked = false ∨ f.state ≠ .receiving → exec (.line sd i px crc) s = .next s)
        ∧ ((s.side sd).clr.locked = true → f.state = .receiving →
          (f.nextLine < 1440 → crc ≠ lineCrc i px →
            exec (.line sd i px crc) s = .next (s.modClr sd fun c =>
              { c with frame := { f with badCount := f.badCount + 1, nextLine := f.nextLine + 1
                                         badLines := if f.badLines.length < 16 then f.badLines ++ [f.nextLine]
                                                     else f.badLines
                                         rows := f.rows ++ [pixelsOfBytes px] } }))
          ∧ (f.nextLine < 1440 → crc = lineCrc i px → i.toNat = f.nextLine →
            exec (.line sd i px crc) s = .next (s.modClr sd fun c =>
              { c with frame := { f with nextLine := f.nextLine + 1, rows := f.rows ++ [pixelsOfBytes px] } }))
          ∧ (1440 ≤ f.nextLine ∨ (crc = lineCrc i px ∧ i.toNat ≠ f.nextLine) →
            exec (.line sd i px crc) s = .next ((dropFrame sd s).modClr sd fun c =>
              { c with frame := { c.frame with state := .discarding } })))

/-- R7, R10 to R13, R17, R36 to R38: a FRAME_END. A frame with all 1440 lines, a line_count of 1440 and at most
LINE_REPAIR_MAX bad lines is accepted: counters, window with LINE_CRC, continuity with SEQ_ERROR, the header report with the
pending commands confirmed, superseded, unconfirmed or late and EXPOSURE_TRACK, the repaired frame handed on unless the
side is in TEST. Any other open frame is dropped. The record returns to IDLE with nothing in it (log 15). In UNLOCKED
nothing reaches the packet level (R1). In which order
the late entries of one header are raised is log 23's and left open here. -/
def Obligations.FrameEndDecides : Prop :=
  ∀ (s : State) (sd : Side) (n : BitVec 16) (c : Clr) (f : FrameInProgress) (h : Header), blocksRun s.phase = true →
    c = (s.side sd).clr → f = c.frame →
      (c.locked = false → exec (.frameEnd sd n) s = .next s)
      ∧ (c.locked = true →
        (f.state = .idle → exec (.frameEnd sd n) s = .next s)
        ∧ (f.state = .discarding →
            exec (.frameEnd sd n) s = .next (s.modClr sd fun c => { c with frame := idleFrame }))
        ∧ (f.state = .receiving → f.header = some h →
            ¬ (f.nextLine = 1440 ∧ n.toNat = 1440 ∧ f.badCount ≤ s.cal.integrity.lineRepairMax) →
            exec (.frameEnd sd n) s = .next ((dropFrame sd s).modClr sd fun c => { c with frame := idleFrame }))
        ∧ (f.state = .receiving → f.header = some h → c.window.length ≤ 60 → c.contRun ≤ 60 →
            f.nextLine = 1440 ∧ n.toNat = 1440 ∧ f.badCount ≤ s.cal.integrity.lineRepairMax →
            ∃ (t : State) (d : Clr), exec (.frameEnd sd n) s = .next t ∧ d = (t.side sd).clr
              ∧ d.framesAccepted = c.framesAccepted + 1
              ∧ d.linesRepaired = c.linesRepaired + BitVec.ofNat 32 f.badCount ∧ d.framesDropped = c.framesDropped
              ∧ d.window = pushed c.window f.badCount ∧ d.lastAccepted = some h.frameNumber ∧ d.frame = idleFrame
              ∧ (c.lastAccepted = none ∨ c.lastAccepted = some (h.frameNumber - 1) →
                  d.contRun = min (c.contRun + 1) 60 ∧ d.seqGaps = c.seqGaps)
              ∧ (∀ last, c.lastAccepted = some last → last ≠ h.frameNumber - 1 →
                  d.contRun = 0 ∧ d.seqGaps = c.seqGaps + (h.frameNumber - (last + 1)).setWidth 32
                    ∧ (∃ r, findRecord t.table .seqError (faultSideOf sd) = some r ∧ r.active = true)
                    ∧ findRecord t.table .seqError (faultSideOf sd) = findRecord (tableRaise s.table .seqError
                        (faultSideOf sd) (h.frameNumber - (last + 1)) s.time) .seqError (faultSideOf sd))
              ∧ (c.lastAccepted = none ∨ c.lastAccepted = some (h.frameNumber - 1) →
                  (c.contRun = 59 → ∀ r, findRecord t.table .seqError (faultSideOf sd) = some r → r.active = false)
                    ∧ (c.contRun ≠ 59 → findRecord t.table .seqError (faultSideOf sd)
                        = findRecord s.table .seqError (faultSideOf sd)))
              ∧ (s.cal.integrity.crcLimit ≤ d.window.sum →
                  findRecord t.table .lineCrc (faultSideOf sd) = findRecord (tableRaise s.table .lineCrc (faultSideOf sd)
                    (BitVec.ofNat 16 (min d.window.sum 65535)) s.time) .lineCrc (faultSideOf sd))
              ∧ (d.window.sum < s.cal.integrity.crcLimit →
                  (d.window.sum < s.cal.integrity.crcLimit / 2 →
                    ∀ r, findRecord t.table .lineCrc (faultSideOf sd) = some r → r.active = false)
                  ∧ (s.cal.integrity.crcLimit / 2 ≤ d.window.sum → findRecord t.table .lineCrc (faultSideOf sd)
                      = findRecord s.table .lineCrc (faultSideOf sd)))
              ∧ (∃ list run, (t.side sd).expo =
                  { (s.side sd).expo with commands := list, confirmedRun := run, lastReported := some h.appliedTag })
              ∧ (∀ (x : Exposure) (older newer : List PendingCommand) (found : Option PendingCommand),
                  x = (s.side sd).expo → x.commands = older ++ found.toList ++ newer →
                  (∀ e ∈ older, e.tag.setWidth 8 ≠ h.appliedTag) → (∀ e, found = some e → e.tag.setWidth 8 = h.appliedTag) →
                  (found = none → older = [] ∧ ∀ e ∈ newer, e.tag.setWidth 8 ≠ h.appliedTag) →
                    (t.side sd).expo.commands = newer.filter (fun e => decide ¬ LateAt h.frameNumber e)
                    ∧ ((∃ e ∈ newer, LateAt h.frameNumber e) → (t.side sd).expo.confirmedRun = 0
                        ∧ ∃ r, findRecord t.table .exposureTrack (faultSideOf sd) = some r ∧ r.active = true)
                    ∧ ((∀ e ∈ newer, ¬ LateAt h.frameNumber e) →
                        (found = none → (t.side sd).expo.confirmedRun = x.confirmedRun
                          ∧ findRecord t.table .exposureTrack (faultSideOf sd)
                              = findRecord s.table .exposureTrack (faultSideOf sd))
                        ∧ (∀ e, found = some e → (e.t ≠ h.tRep.toNat ∨ e.g ≠ h.gRep.toNat) →
                          (t.side sd).expo.confirmedRun = 0
                            ∧ findRecord t.table .exposureTrack (faultSideOf sd) = findRecord
                                (tableRaise s.table .exposureTrack (faultSideOf sd) (e.tag.setWidth 16) s.time)
                                .exposureTrack (faultSideOf sd))
                        ∧ (∀ e, found = some e → e.t = h.tRep.toNat → e.g = h.gRep.toNat →
                          (t.side sd).expo.confirmedRun = min (x.confirmedRun + 1) 30
                            ∧ (x.confirmedRun = 29 →
                                ∀ r, findRecord t.table .exposureTrack (faultSideOf sd) = some r → r.active = false)
                            ∧ (x.confirmedRun ≠ 29 → findRecord t.table .exposureTrack (faultSideOf sd)
                                = findRecord s.table .exposureTrack (faultSideOf sd)))))
              ∧ (t.side sd).inputs = (s.side sd).inputs ++ (if (s.side sd).testFlag then [] else
                  [.accepted { number := h.frameNumber, status := if f.badCount = 0 then .accepted else .repaired
                               repairedLines := f.badCount, tRep := h.tRep.toNat, gRep := h.gRep.toNat
                               image := .camera (repairRows f.badLines f.rows) }])
              ∧ d.sending = c.sending ∧ d.waiting = c.waiting ∧ d.lastHeader = c.lastHeader ∧ d.locked = true
              ∧ (t.side sd).stats = (s.side sd).stats ∧ (t.side sd).glare = (s.side sd).glare
              ∧ (t.side sd).view = (s.side sd).view ∧ (t.side sd).dlt = (s.side sd).dlt
              ∧ (t.side sd).testFlag = (s.side sd).testFlag ∧ (t.side sd).testNumber = (s.side sd).testNumber
              ∧ SameElsewhere sd s t))

/-- R8: bad lines are replaced in ascending order, each by the line above it as it stands after its own repair, line 0
by the nearest good line below; good lines keep their pixels. -/
def Obligations.RepairTopToBottom : Prop :=
  ∀ (bad : List Nat) (rows : List (List Pixel)), bad.Pairwise (· < ·) → (∀ i ∈ bad, i < rows.length) → bad.length ≤ 16 →
    rows.length = 1440 → ∃ out, out = repairRows bad rows ∧ out.length = 1440
      ∧ (∀ i, i ∉ bad → out[i]? = rows[i]?)
      ∧ (∀ i, i + 1 ∈ bad → out[i + 1]? = out[i]?)
      ∧ (0 ∈ bad → ∃ j, 0 < j ∧ j < 1440 ∧ j ∉ bad ∧ (∀ k, k < j → k ∈ bad) ∧ out[0]? = rows[j]?)

/-- R15: the back-channel transmitter: a command handed to it, and a transmission that ends. With none in
transmission there is no such event (log 3). -/
def Obligations.BackChannelTransmitter : Prop :=
  (∀ (k : Clr) (c : Command),
      (k.locked = false → handCommand c k = k)
        ∧ (k.locked = true → k.sending = none → handCommand c k = { k with sending := some c })
        ∧ (k.locked = true → k.sending.isSome = true → handCommand c k = { k with waiting := some c }))
    ∧ ∀ (s : State) (sd : Side), blocksRun s.phase = true →
        ((s.side sd).clr.sending.isSome = true →
            exec (.commandTransmissionComplete sd) s
              = .next (s.modClr sd fun c => { c with sending := c.waiting, waiting := none }))
          ∧ ((s.side sd).clr.sending = none → exec (.commandTransmissionComplete sd) s = .next s)

/-- R19, R21, R78: the tests. A test frame end of a side in TEST: the test frame number rises by 1, and the synthetic frame
of the active pattern is handed to frame completion, with the exposure of the last well-formed header or 1 and 16 (where
only ill-formed ones have come, log 23); without TEST the command leaves the state as it is (log 3). The end of a test:
the flag is cleared, the view becomes STARTING with the fresh mark cleared and the start count 0, and both masters get
the VIEW notice; on a side not in TEST nothing changes. -/
def Obligations.TestFramesAndTestEnd : Prop :=
  (∀ (s : State) (sd : Side), blocksRun s.phase = true →
    ((s.side sd).testFlag = true → ∃ f : AcceptedFrame,
        f.number = (s.side sd).testNumber + 1 ∧ f.status = .accepted ∧ f.repairedLines = 0
          ∧ f.image = .synthetic (patternOf s.cal s.activePattern.val)
          ∧ (∀ t g, (s.side sd).clr.lastHeader = some (t, g) → f.tRep = t ∧ f.gRep = g)
          ∧ ((s.side sd).clr.lastHeader = none → f.tRep = 1 ∧ f.gRep = 16)
          ∧ exec (.testFrameEnd sd) s = .next (s.modSide sd fun x =>
              { x with testNumber := x.testNumber + 1, inputs := x.inputs ++ [.accepted f] }))
      ∧ ((s.side sd).testFlag = false → exec (.testFrameEnd sd) s = .next s))
  ∧ ∀ (s : State) (sd : Side), TestSound s sd →
    ((s.side sd).testFlag = true → clearTest sd s =
        ((s.modSide sd fun x =>
            { x with testFlag := false
                     view := { x.view with state := .starting, fresh := false, startCount := 0 } }).modPort .v
          fun y => { y with notices := { y.notices with view := true } }).modPort .c
          fun y => { y with notices := { y.notices with view := true } })
      ∧ ((s.side sd).testFlag = false → clearTest sd s = s)

/-- R20, R78, R81: TEST_IMAGE. ON at rest sets the active pattern and starts the test of each named side that is in none, its
view in TEST, its test frame number 0 and the rest of it as it was, with both masters' VIEW notices; ON not
at rest is REFUSED_STATE, with a pattern above 3 REFUSED_PARAM; OFF ends the tests of the named sides whatever the pattern; a side set without a side or beyond the two is REFUSED_PARAM,
and so is a first byte that is neither. -/
def Obligations.TestImageRequest : Prop :=
  ∀ (s : State) (p : Port) (tag : BitVec 4) (on sides pat : Byte), Reaches s p .testImage →
    (1 < on.toNat ∨ sides.toNat = 0 ∨ 3 < sides.toNat ∨ (on = 1 ∧ 3 < pat.toNat) →
        exec (.testImage p tag [on, sides, pat]) s = .next (answered p .testImage tag .refusedParam [] s))
      ∧ (on.toNat ≤ 1 → 1 ≤ sides.toNat → sides.toNat ≤ 3 →
        (on = 1 → pat.toNat ≤ 3 → presentedSpeed s ≠ some 0 →
          exec (.testImage p tag [on, sides, pat]) s = .next (answered p .testImage tag .refusedState [] s))
        ∧ (on = 1 → (h : pat.toNat < 4) → presentedSpeed s = some 0 → ∃ t,
          exec (.testImage p tag [on, sides, pat]) s = .next (answered p .testImage tag .ok [] t)
            ∧ t.activePattern = ⟨pat.toNat, h⟩
            ∧ (∀ sd, sides.getLsbD (sideNumber sd) = true → (s.side sd).testFlag = false →
                t.side sd = { s.side sd with
                    testFlag := true, testNumber := 0
                    view := { (s.side sd).view with state := .test, fresh := false, heldCount := 0, startCount := 0
                                                    testComposed := false } }
                  ∧ validLine t sd = false)
            ∧ ((∃ sd, sides.getLsbD (sideNumber sd) = true ∧ (s.side sd).testFlag = false
                  ∧ (s.side sd).view.state ≠ .test) →
                ∀ q, t.port q = { s.port q with notices := { (s.port q).notices with view := true } })
            ∧ ((∀ sd, sides.getLsbD (sideNumber sd) = true →
                  (s.side sd).testFlag = true ∨ (s.side sd).view.state = .test) → ∀ q, t.port q = s.port q)
            ∧ (∀ sd, sides.getLsbD (sideNumber sd) = false ∨ (s.side sd).testFlag = true → t.side sd = s.side sd)
            ∧ t.table = s.table ∧ t.vehicle = s.vehicle ∧ t.store = s.store ∧ t.time = s.time
            ∧ t.phase = s.phase ∧ t.supplyOk = s.supplyOk ∧ t.eventIn = s.eventIn
            ∧ t.pending = s.pending ∧ t.freeIndex = s.freeIndex ∧ t.pauses = s.pauses)
        ∧ (on = 0 →
          exec (.testImage p tag [on, sides, pat]) s = .next (answered p .testImage tag .ok []
            ((fun u => if sides.getLsbD 1 then clearTest .right u else u)
              (if sides.getLsbD 0 then clearTest .left s else s)))))

/-! ### Frame completion, exposure, glare -/

/-- R20, R23, R24 with R25, R27 to R31, R33, R35, R44, R45, R54, R65, R79, R82, R135: the operation on an accepted
frame. Where the state gives it no pause before its end (log 16), it takes the oldest input and goes through six stages:
u is the state after stages 1 to 4, y its side, d the digest of stage 5; stage 6 offers the frame. With a pause it stops between two
stages, each of which is whole and changes what is its own; an operation cut in pieces is the operation whole.
FRAME_COMPLETION with no operation running and another input at the front, or none, is no event (log 3). -/
def Obligations.FrameCompletionRunsStages : Prop :=
  (∀ (s : State) (sd : Side), blocksRun s.phase = true →
    ((s.side sd).running = none → (∀ f rest, (s.side sd).inputs ≠ .accepted f :: rest) →
      exec (.frameCompletion sd) s = .next s)
    ∧ (∀ c n v, (s.side sd).running = some c → TakesPause s n v →
      exec (.frameCompletion sd) s = .next (runStages sd n v))
    ∧ (∀ f rest n v, (s.side sd).running = none → (s.side sd).inputs = .accepted f :: rest → TakesPause s n v →
      exec (.frameCompletion sd) s = .next (runStages sd n (v.modSide sd fun x =>
        { x with inputs := rest, running := some { frame := f, next := .statistics, command := none } })))
    ∧ ∀ (f : AcceptedFrame) (rest : List CompletionInput) (n : Nat) (v : State) (x : SideState) (k : ImageCal)
      (camera : Bool), (s.side sd).running = none → TakesPause s n v → 6 ≤ n →
      (s.side sd).inputs = .accepted f :: rest → x = s.side sd → k = s.cal.image →
      (camera = true ↔ ∃ rows, f.image = .camera rows) →
      ∃ (u t : State) (d : Digest) (y : SideState), exec (.frameCompletion sd) s = .next t
        ∧ u = runStages sd 4 (v.modSide sd fun x =>
            { x with inputs := rest, running := some { frame := f, next := .statistics, command := none } })
        ∧ y = u.side sd
        ∧ t = (stageOffer sd f ((writeDigest sd d u).modSide sd fun z =>
            { z with running := some { frame := f, next := .offer, command := d.command } })).modSide sd (fun z =>
              { z with running := none })
        ∧ (y.inputs = rest ∧ y.running = some { frame := f, next := .digest, command := d.command }
          ∧ y.stats.tiles = tileStats k.brightLevel f.image
          ∧ y.stats.fmean = ((tileMeans y.stats).sum) / 192 ∧ y.stats.statsFrame = some f.number
          ∧ (camera = false → y.stats.prevMeans = x.stats.prevMeans ∧ y.stats.identRun = x.stats.identRun
            ∧ findRecord u.table .frozenImage (faultSideOf sd) = findRecord s.table .frozenImage (faultSideOf sd))
          ∧ (camera = true → y.stats.prevMeans = some (tileMeans y.stats)
            ∧ y.stats.identRun = (if x.stats.prevMeans = none then x.stats.identRun
                else if x.stats.prevMeans = some (tileMeans y.stats) then min (x.stats.identRun + 1) 65535 else 0)
            ∧ ∀ (differs frozen : Prop), (differs ↔ ∃ p, x.stats.prevMeans = some p ∧ p ≠ tileMeans y.stats) →
                (frozen ↔ s.cal.integrity.frozenFrames ≤ y.stats.identRun
                  ∧ ∃ v, presentedSpeed s = some v ∧ s.cal.integrity.frozenSpeed ≤ v) →
                (frozen → ∃ r, findRecord u.table .frozenImage (faultSideOf sd) = some r ∧ r.active = true)
                ∧ (¬ differs → frozen → findRecord u.table .frozenImage (faultSideOf sd) = findRecord
                    (tableRaise s.table .frozenImage (faultSideOf sd) (BitVec.ofNat 16 y.stats.identRun) s.time)
                    .frozenImage (faultSideOf sd))
                ∧ (differs → ¬ frozen →
                    ∀ r, findRecord u.table .frozenImage (faultSideOf sd) = some r → r.active = false)
                ∧ (¬ differs → ¬ frozen → findRecord u.table .frozenImage (faultSideOf sd)
                    = findRecord s.table .frozenImage (faultSideOf sd)))
          ∧ (∃ g : GlareMap,
              g = (if x.expo.dayNight = .night then
                    { tiles := updateTiles k (max x.expo.m 16) y.stats.tiles x.glare.tiles, lastUpdate := some f.number
                      lastBref := some (max x.expo.m 16) }
                  else x.glare)
                ∧ y.expo.m = meteredLevel (weightsOf s.cal sd) g y.stats
                ∧ y.expo.l = min (y.expo.m * 65536 / (f.tRep * f.gRep)) 16777215
                ∧ y.glare = (if x.expo.dayNight = .night ∧ y.expo.dayNight = .day then unityMap else g))
          ∧ (d.command.isSome = true ↔ camera = true ∧ x.testFlag = false
              ∧ ((x.expo.mode = .auto ∧ k.tgt < ((y.expo.m : Int) - k.tgt).natAbs * 16)
                  ∨ (x.expo.mode = .manual ∧ x.expo.manualSend = true ∧ x.expo.manual.isSome = true)))
          ∧ (∀ c, d.command = some c → y.expo.lastIssued = c.tag ∧ y.clr = handCommand c x.clr
              ∧ c.tag = nextTag x.expo
              ∧ (x.expo.mode = .manual → x.expo.manual = some (c.t, c.g) ∧ y.expo.manualSend = false)
              ∧ (x.expo.mode = .auto →
                  (c.t, c.g) = splitExposure k (requestedExposure k y.expo.m (f.tRep * f.gRep)))
              ∧ ∀ list, list = x.expo.commands ++ [{ tag := c.tag, t := c.t, g := c.g, due := f.number + 3 }] →
                  (list.length ≠ 4 → y.expo.commands = list ∧ y.expo.confirmedRun = x.expo.confirmedRun
                    ∧ findRecord u.table .exposureTrack (faultSideOf sd)
                        = findRecord s.table .exposureTrack (faultSideOf sd))
                  ∧ (list.length = 4 → y.expo.commands = list.drop 1 ∧ y.expo.confirmedRun = 0
                    ∧ ∀ e, list.head? = some e → findRecord u.table .exposureTrack (faultSideOf sd) = findRecord
                        (tableRaise s.table .exposureTrack (faultSideOf sd) (e.tag.setWidth 16) s.time)
                        .exposureTrack (faultSideOf sd)))
          ∧ (d.command = none → y.expo.lastIssued = x.expo.lastIssued ∧ y.expo.commands = x.expo.commands
              ∧ y.expo.confirmedRun = x.expo.confirmedRun
              ∧ y.expo.manualSend = x.expo.manualSend ∧ y.clr = x.clr
              ∧ findRecord u.table .exposureTrack (faultSideOf sd)
                  = findRecord s.table .exposureTrack (faultSideOf sd))
          ∧ y.expo.lastReported = x.expo.lastReported
          ∧ y.expo.mode = x.expo.mode ∧ y.expo.manual = x.expo.manual ∧ y.expo.policy = x.expo.policy
          ∧ y.dlt = x.dlt ∧ y.testFlag = x.testFlag ∧ y.testNumber = x.testNumber
          ∧ d.frameNumber = f.number ∧ d.synthetic = !camera ∧ d.time = s.time ∧ d.status = f.status
          ∧ d.repairedLines = f.repairedLines ∧ d.exposure = some (f.tRep, f.gRep) ∧ d.m = y.expo.m ∧ d.l = y.expo.l
          ∧ d.mode = y.expo.dayNight ∧ d.stale = false ∧ d.tileMeans = some ((tileMeans y.stats).map (· / 16))
          ∧ DigestReadings s u sd d)
        ∧ ((if (t.side sd).view.state = .test then camera = false else camera = true) →
            (t.side sd).view.slot = some { image := f.image, number := f.number } ∧ (t.side sd).view.fresh = true)
        ∧ t.pending = s.pending ∧ t.phase = s.phase ∧ t.time = s.time ∧ t.vehicle = s.vehicle ∧ t.store = s.store
        ∧ t.activePattern = s.activePattern ∧ t.supplyOk = s.supplyOk ∧ t.eventIn = s.eventIn ∧ t.pauses = v.pauses
        ∧ (∀ p, { t.port p with notices := (s.port p).notices } = s.port p)
        ∧ { t.side (otherSide sd) with recorder := (s.side (otherSide sd)).recorder } = s.side (otherSide sd))
  ∧ (∀ (s : State) (sd : Side) (m n : Nat), runStages sd (m + n) s = runStages sd n (runStages sd m s))
  ∧ (∀ (s t : State) (sd : Side) (c : Completion) (x y : SideState), x = s.side sd → x.running = some c →
      t = runStages sd 1 s → y = t.side sd →
        (∀ next, (c.next, next) ∈ [(Stage.statistics, Stage.glare), (.glare, .exposure), (.exposure, .dayNight),
            (.dayNight, .digest), (.digest, .offer)] → ∃ cmd, y.running = some { frame := c.frame, next := next, command := cmd }
            ∧ (c.next ≠ .exposure → cmd = c.command))
        ∧ (c.next = .offer → y.running = none)
        ∧ y.inputs = x.inputs ∧ y.testFlag = x.testFlag ∧ y.testNumber = x.testNumber ∧ y.dlt = x.dlt
        ∧ (c.next ≠ .statistics → y.stats = x.stats)
        ∧ (c.next ≠ .glare → c.next ≠ .dayNight → y.glare = x.glare)
        ∧ (c.next ≠ .exposure → c.next ≠ .dayNight → y.expo = x.expo)
        ∧ (c.next ≠ .dayNight → y.expo.dayNight = x.expo.dayNight)
        ∧ (c.next ≠ .exposure → y.clr = x.clr) ∧ (c.next ≠ .statistics → c.next ≠ .offer → y.view = x.view))
  ∧ ∀ (s t : State) (sd : Side) (f : AcceptedFrame) (x y : Composer) (camera : Bool), x = (s.side sd).view →
      t = stageOffer sd f s → y = (t.side sd).view → (camera = true ↔ ∃ rows, f.image = .camera rows) →
        y = { x with
          slot := if camera = decide (x.state ≠ .test) then some { image := f.image, number := f.number } else x.slot
          fresh := if camera = decide (x.state ≠ .test) then true else x.fresh
          lastRecovered := if camera then some f.number else x.lastRecovered
          recoverCount := if camera = false then x.recoverCount
            else if x.lastRecovered = some (f.number - 1) then min (x.recoverCount + 1) s.cal.integrity.recoverFrames
            else 1 }
        ∧ t = { s.modView sd (fun _ => y) with
            table := if camera = true ∧ x.recoverCount < s.cal.integrity.recoverFrames
                  ∧ y.recoverCount = s.cal.integrity.recoverFrames then
                tableClear s.table .staleView (faultSideOf sd) s.time
              else s.table }

/-- R39, R40, R41, R52: stage 4: the policy and the scene level decide the mode; a change to DAY snaps the map to unity,
any change sets the NIGHT notice of Port C alone. -/
def Obligations.DayNightDecided : Prop :=
  ∀ (s t : State) (sd : Side) (f : AcceptedFrame) (x y : Exposure) (k : ImageCal) (camera : Bool),
    x = (s.side sd).expo → t = stageDayNight sd f s → y = (t.side sd).expo → k = s.cal.image →
    (camera = true ↔ ∃ rows, f.image = .camera rows) →
      (x.policy = .forceDay → y = { x with dayNight := .day })
      ∧ (x.policy = .forceNight → y = { x with dayNight := .night })
      ∧ (x.policy = .auto → camera = false → t = s)
      ∧ (x.policy = .auto → camera = true → x.dayNight = .day →
          y = (if k.nightEnter ≤ x.l then { x with nightRun := 0 }
            else if x.nightRun + 1 < k.nightFrames then { x with nightRun := x.nightRun + 1 }
            else { x with dayNight := .night, nightRun := 0, dayRun := 0 }))
      ∧ (x.policy = .auto → camera = true → x.dayNight = .night →
          y = (if x.l ≤ k.nightExit then { x with dayRun := 0 }
            else if x.dayRun + 1 < k.dayFrames then { x with dayRun := x.dayRun + 1 }
            else { x with dayNight := .day, nightRun := 0, dayRun := 0 }))
      ∧ (y.dayNight = x.dayNight → t = s.modExpo sd fun _ => y)
      ∧ (y.dayNight ≠ x.dayNight →
          t = (s.modSide sd fun z => { z with expo := y, glare := if y.dayNight = .day then unityMap else z.glare }).modPort
            .c fun p => { p with notices := { p.notices with night := true } })

/-- R25, R54, R82, R135: the operation on a dropped-frame report writes a digest and does nothing else: no command, no
tile means, the stored M, L and mode marked stale. With an operation running, or another input at the front, or none, it
is no event (log 3). -/
def Obligations.DroppedReportWritesDigest : Prop :=
  ∀ (s : State) (sd : Side), blocksRun s.phase = true →
    ((s.side sd).running.isSome = true ∨ (∀ r rest, (s.side sd).inputs ≠ .dropped r :: rest) →
      exec (.droppedFrameCompletion sd) s = .next s)
    ∧ ∀ (r : DroppedReport) (rest : List CompletionInput), (s.side sd).running = none →
      (s.side sd).inputs = .dropped r :: rest →
      ∃ d : Digest,
        exec (.droppedFrameCompletion sd) s
            = .next (writeDigest sd d (s.modSide sd fun x => { x with inputs := rest }))
          ∧ d.status = .dropped ∧ d.repairedLines = 0 ∧ d.frameNumber = r.number ∧ d.exposure = r.exposure
          ∧ d.command = none ∧ d.tileMeans = none ∧ d.m = (s.side sd).expo.m ∧ d.l = (s.side sd).expo.l
          ∧ d.mode = (s.side sd).expo.dayNight ∧ d.stale = true ∧ d.synthetic = false ∧ d.time = s.time
          ∧ DigestReadings s s sd d

/-- R27, R30, R31, R32, R35 step 1: the statistics of a tile from its 14,400 pixels, or from a flat tile's value; the
metered level over the tiles whose applied gain is 256; the exposure requested, by the step limit and then the range. The
split of an exposure of E_MIN..E_MAX: with the ranges of the IMAGE region the command lies in range and its product lies
in E_MIN..E, and no larger gain would fit. The tag is the first one after the last issued that is neither the last
reported nor that of a pending entry. -/
def Obligations.CommandsInRange : Prop :=
  (∀ (k : ImageCal) (e t g : Nat), 16 ≤ k.eMin → k.eMin ≤ 256 → 1 ≤ k.tMax → k.eMax ≤ k.tMax * 256 → k.eMin ≤ e →
      e ≤ k.eMax → (t, g) = splitExposure k e →
        1 ≤ t ∧ t ≤ k.tMax ∧ 16 ≤ g ∧ g ≤ 256 ∧ k.eMin ≤ t * g ∧ t * g ≤ e
          ∧ (g ≠ 256 → ¬ (t = 1 ∧ g = k.eMin) → e < t * g + t))
    ∧ (∀ x : Exposure, x.commands.length ≤ 4 → ∃ i, i < 16 ∧ nextTag x = x.lastIssued + 1 + BitVec.ofNat 4 i
        ∧ x.lastReported ≠ some ((nextTag x).setWidth 8) ∧ (∀ e ∈ x.commands, e.tag ≠ nextTag x)
        ∧ ∀ j, j < i → x.lastReported = some ((x.lastIssued + 1 + BitVec.ofNat 4 j).setWidth 8)
            ∨ ∃ e ∈ x.commands, e.tag = x.lastIssued + 1 + BitVec.ofNat 4 j)
    ∧ (∀ (bright : Nat) (rows : List (List Pixel)) (t : Nat) (st : TileStat) (ys : List Nat), t < 192 →
        rows.length = 1440 → (∀ row ∈ rows, row.length = 1920) →
        (tileStats bright (.camera rows))[t]? = some st →
        ys = (List.range 120).flatMap (fun j => (List.range 120).map fun i =>
          luminance (.camera rows) (120 * (t % 16) + i) (120 * (t / 16) + j)) →
          st.mean = ys.sum / 14400 ∧ st.peak ∈ ys ∧ (∀ y ∈ ys, y ≤ st.peak) ∧ ys.length = 14400
            ∧ st.bright = ys.countP (fun y => decide (bright ≤ y)) ∧ st.mean ≤ st.peak ∧ st.peak ≤ 4095)
    ∧ (∀ (bright : Nat) (values : List Nat) (t p : Nat), t < 192 → values[t]? = some p →
        (tileStats bright (.synthetic values))[t]?
          = some { mean := p, peak := p, bright := if bright ≤ p then 14400 else 0 })
    ∧ (∀ (bright : Nat) (img : Image), (tileStats bright img).length = 192)
    ∧ (∀ (weights : List Nat) (g : GlareMap) (st : Stats) (w : Nat → Nat) (total : Nat), g.tiles.length = 192 →
        st.tiles.length = 192 →
        (∀ t o, g.tiles[t]? = some o → w t = if o.ga = 256 then weights.getD t 0 else 0) →
        total = ((List.range 192).map w).sum →
          (total = 0 → meteredLevel weights g st = st.fmean)
          ∧ (1 ≤ total → meteredLevel weights g st
              = ((List.range 192).map fun t => w t * (tileMeans st).getD t 0).sum / total)
          ∧ (st.fmean ≤ 4095 → (∀ o ∈ st.tiles, o.mean ≤ 4095) → meteredLevel weights g st ≤ 4095))
    ∧ ∀ (k : ImageCal) (m eRep step : Nat), k.eMin ≤ k.eMax →
        step = max (eRep / 2) (min (eRep * k.tgt / max m 1) (2 * eRep)) →
          requestedExposure k m eRep = max k.eMin (min step k.eMax)

/-- R44 to R51: stage 2 leaves everything in DAY and updates the map in NIGHT, with a Bref of at least 16, the M stored
before where that is more, and records the frame and the Bref. An update keeps every gain within GMIN..256. The effective target is the smallest of the
tile's own target and half the dimming of its neighbours; the applied gain moves toward it and never past it; the hold
count is loaded below 256 and counts down at 256. -/
def Obligations.GlareUpdateBounds : Prop :=
  (∀ (s t : State) (sd : Side) (f : AcceptedFrame) (x : SideState) (bref : Nat), x = s.side sd →
    (x.expo.m ≤ 16 → bref = 16) → (16 ≤ x.expo.m → bref = x.expo.m) → t = stageGlare sd f s →
      (x.expo.dayNight = .day → t = s)
      ∧ (x.expo.dayNight = .night → t = s.modSide sd fun z =>
          { z with glare := { tiles := updateTiles s.cal.image bref x.stats.tiles x.glare.tiles
                              lastUpdate := some f.number, lastBref := some bref } }))
  ∧ ∀ (k : ImageCal) (bref : Nat) (stats : List TileStat) (old new : List GlareTile), k.gmin ≤ 256 → 1 ≤ k.attack →
    k.attack ≤ 16 → k.kneeIn < k.kneeOut → (∀ o ∈ old, k.gmin ≤ o.ga ∧ o.ga ≤ 256) →
    new = updateTiles k bref stats old → new.length = 192
      ∧ ∀ t o n st, t < 192 → old[t]? = some o → new[t]? = some n → stats[t]? = some st →
          (n.flag = true ↔ k.glarePixMin ≤ st.bright ∧ st.bright ≤ k.glarePixMax ∧ k.kneeOut ≤ st.peak
            ∧ k.glareRatio * bref ≤ st.peak * 16)
          ∧ (n.flag = false → n.gt = 256)
          ∧ (n.flag = true →
              n.gt = max k.gmin (256 * (k.kneeOut - k.kneeIn) / (st.peak - k.kneeIn)))
          ∧ k.gmin ≤ n.gt ∧ n.gt ≤ 256 ∧ k.gmin ≤ n.ge ∧ n.ge ≤ n.gt ∧ k.gmin ≤ n.ga ∧ n.ga ≤ 256
          ∧ (∀ j m, new[j]? = some m →
              ((j + 1 = t ∧ 0 < t % 16) ∨ (j = t + 1 ∧ t % 16 < 15) ∨ j + 16 = t ∨ j = t + 16) →
                n.ge ≤ (m.gt + 256) / 2)
          ∧ (n.ge = n.gt ∨ ∃ j m, new[j]? = some m ∧ n.ge = (m.gt + 256) / 2
              ∧ ((j + 1 = t ∧ 0 < t % 16) ∨ (j = t + 1 ∧ t % 16 < 15) ∨ j + 16 = t ∨ j = t + 16))
          ∧ (n.ge < 256 → n.h = k.holdFrames
              ∧ (n.ge < o.ga → n.ge ≤ n.ga ∧ n.ga < o.ga
                  ∧ (o.ga - n.ge) * k.attack ≤ (o.ga - n.ga) * 16 ∧ (o.ga - n.ga) * 16 < (o.ga - n.ge) * k.attack + 16)
              ∧ (o.ga ≤ n.ge → n.ga = min n.ge (o.ga + k.releaseStep)))
          ∧ (n.ge = 256 → (0 < o.h → n.ga = o.ga ∧ n.h = o.h - 1)
              ∧ (o.h = 0 → n.ga = min 256 (o.ga + k.releaseStep) ∧ n.h = 0))

/-- R57 to R60, R67, R68: pixel gains lie between the gains of the map, and are the tile's own at its centre; a
luminance above the knee is scaled by its gain, and with every gain 256 nothing is dimmed; a code is the square root of 16
times the luminance, at most 255, of one pixel in the far view and of the mean of four dimmed pixels in the wide view,
mirrored from left to right; the three rasters have 1,382,400 codes, each at its column and row. -/
def Obligations.OutputCodes : Prop :=
  (∀ (ga : List Nat) (lo hi x y : Nat), ga.length = 192 → (∀ g ∈ ga, lo ≤ g ∧ g ≤ hi) →
      lo ≤ pixelGain ga x y ∧ pixelGain ga x y ≤ hi)
    ∧ (∀ (ga : List Nat) (c r : Nat), ga.length = 192 → c < 16 → r < 12 →
        ga[16 * r + c]? = some (pixelGain ga (120 * c + 60) (120 * r + 60)))
    ∧ (∀ kneeIn y gp : Nat, gp ≤ 256 → compress kneeIn y gp ≤ y ∧ (y ≤ kneeIn ∨ gp = 256 → compress kneeIn y gp = y)
        ∧ (kneeIn ≤ y → kneeIn ≤ compress kneeIn y gp)
        ∧ (kneeIn < y → compress kneeIn y gp = kneeIn + (y - kneeIn) * gp / 256))
    ∧ (∀ y : Nat, codeOf y = min 255 (Nat.sqrt (16 * y)))
    ∧ (∀ (code : Nat → Nat → Nat), (raster code).length = 1382400
        ∧ ∀ u v, u < 960 → v < 1440 → (raster code)[960 * v + u]? = some (BitVec.ofNat 8 (code u v)))
    ∧ (∀ (kneeIn : Nat) (ga : List Nat) (img : Image) (ox oy u v : Nat) (yout : Nat → Nat → Nat),
        (∀ x y, yout x y = compress kneeIn (luminance img x y) (pixelGain ga x y)) → u < 960 →
          (v < 720 → (composeCodes kneeIn ga img ox oy)[960 * v + u]?
            = some (BitVec.ofNat 8 (min 255 (Nat.sqrt (16 * yout (ox + 959 - u) (oy + v))))))
          ∧ (720 ≤ v → v < 1440 → ∀ i j, i = 2 * (959 - u) → j = 2 * (v - 720) →
              (composeCodes kneeIn ga img ox oy)[960 * v + u]? = some (BitVec.ofNat 8 (min 255 (Nat.sqrt
                (16 * ((yout i j + yout (i + 1) j + yout i (j + 1) + yout (i + 1) (j + 1)) / 4)))))))
    ∧ (∀ u v : Nat, u < 960 → v < 1440 → blackCodes[960 * v + u]? = some 0
        ∧ invalidCodes[960 * v + u]?
          = some (if (2 * (v : Int) - 3 * (u : Int)).natAbs ≤ 120 then 0 else 64))
    ∧ (∀ (rows : List (List Pixel)) (row : List Pixel) (p : Pixel) (x y : Nat), rows[y]? = some row → row[x]? = some p →
        luminance (.camera rows) x y = p.toNat)
    ∧ ∀ (values : List Nat) (x y p : Nat), values[16 * (y / 120) + x / 120]? = some p →
        luminance (.synthetic values) x y = p

/-- R34: SET_EXPOSURE_MODE. In MANUAL the pair is clamped, and replaced by a split where its product leaves
E_MIN..E_MAX. A side already in MANUAL with that pair keeps what it has. -/
def Obligations.ExposureModeRequest : Prop :=
  ∀ (s : State) (p : Port) (tag : BitVec 4) (sides mode t1 t0 g1 g0 : Byte), Reaches s p .setExposureMode →
    (sides.toNat = 0 ∨ 3 < sides.toNat ∨ 2 < mode.toNat →
        exec (.setExposureMode p tag [sides, mode, t1, t0, g1, g0]) s
          = .next (answered p .setExposureMode tag .refusedParam [] s))
      ∧ (1 ≤ sides.toNat → sides.toNat ≤ 3 → mode.toNat ≤ 2 →
          ∃ (st : Status) (f : Exposure → Exposure) (k : ImageCal) (t g : Nat), k = s.cal.image
            ∧ t = max 1 (min (t1 ++ t0).toNat k.tMax) ∧ g = max 16 (min (g1 ++ g0).toNat 256)
            ∧ exec (.setExposureMode p tag [sides, mode, t1, t0, g1, g0]) s
                = .next (answered p .setExposureMode tag st []
                    { s with left := if sides.getLsbD 0 then { s.left with expo := f s.left.expo } else s.left
                             right := if sides.getLsbD 1 then { s.right with expo := f s.right.expo } else s.right })
            ∧ (mode = 0 → st = .ok ∧ ∀ x, f x = { x with mode := .auto, manualSend := false })
            ∧ (mode = 1 → st = .ok ∧ ∀ x, f x = { x with mode := .hold, manualSend := false })
            ∧ (mode = 2 → 1 ≤ k.tMax → ∃ pair : Nat × Nat,
                (k.eMin ≤ t * g ∧ t * g ≤ k.eMax → pair = (t, g))
                  ∧ (t * g < k.eMin → pair = splitExposure k k.eMin)
                  ∧ (k.eMin ≤ t * g → k.eMax < t * g → k.eMin ≤ k.eMax → pair = splitExposure k k.eMax)
                  ∧ (st = if pair = ((t1 ++ t0).toNat, (g1 ++ g0).toNat) then .ok else .okClamped)
                  ∧ ∀ x, (x.mode = .manual → x.manual = some pair → f x = x)
                      ∧ (x.mode ≠ .manual ∨ x.manual ≠ some pair →
                          f x = { x with mode := .manual, manual := some pair, manualSend := true })))

/-- R54, R61, R62: READ_TILE_MAP: a count above 32, or one that would run past tile 191, is reduced and answered
OK_CLAMPED; the reply is the summary of 16 bytes and one entry per tile from first; nothing changes. -/
def Obligations.TileMapRead : Prop :=
  (∀ t : GlareTile, t.gt ≤ 256 → t.ge ≤ 256 → t.ga ≤ 256 → t.h ≤ 255 → mapEntry t =
      [BitVec.ofNat 8 ((if t.flag then 1 else 0) + (if t.gt = 256 then 2 else 0) + (if t.ge = 256 then 4 else 0)
          + (if t.ga = 256 then 8 else 0)),
        BitVec.ofNat 8 t.gt, BitVec.ofNat 8 t.ge, BitVec.ofNat 8 t.ga, BitVec.ofNat 8 t.h])
    ∧ (∀ t : TileStat, statsEntry t = [BitVec.ofNat 8 (t.mean / 256), BitVec.ofNat 8 t.mean,
        BitVec.ofNat 8 (t.peak / 256), BitVec.ofNat 8 t.peak, BitVec.ofNat 8 (t.bright / 256), BitVec.ofNat 8 t.bright])
    ∧ ∀ (s : State) (p : Port) (tag : BitVec 4) (sd view first count : Byte), Reaches s p .readTileMap →
    (1 < sd.toNat ∨ 1 < view.toNat ∨ 191 < first.toNat ∨ count = 0 →
        exec (.readTileMap p tag [sd, view, first, count]) s = .next (answered p .readTileMap tag .refusedParam [] s))
      ∧ ∀ (side : Side) (n : Nat) (x : SideState), sd = BitVec.ofNat 8 (sideNumber side) → first.toNat ≤ 191 →
          count ≠ 0 → n = min (min count.toNat 32) (192 - first.toNat) → x = s.side side →
          x.stats.tiles.length = 192 →
          x.glare.tiles.length = 192 → ∀ st : Status, st = (if n = count.toNat then .ok else .okClamped) →
            ∃ (head : List Byte) (least : Nat), head =
                [sd, BitVec.ofNat 8 (dayNightNumber x.expo.dayNight),
                  BitVec.ofNat 8 (bitsOf [x.stats.statsFrame.isSome, x.glare.lastUpdate.isSome,
                    x.glare.lastBref.isSome])]
                ++ word16 (x.stats.statsFrame.getD 0).toNat ++ word16 x.stats.fmean
                ++ word16 (x.glare.lastUpdate.getD 0).toNat ++ word16 (x.glare.lastBref.getD 0)
                ++ [BitVec.ofNat 8 (x.glare.tiles.countP (·.flag))] ++ word16 least ++ [first, BitVec.ofNat 8 n]
              ∧ head.length = 16
              ∧ (∀ o ∈ x.glare.tiles, least ≤ o.ga) ∧ (least = 256 ∨ ∃ o ∈ x.glare.tiles, o.ga = least)
              ∧ (view = 0 → exec (.readTileMap p tag [sd, view, first, count]) s = .next
                  (answered p .readTileMap tag st
                    (head ++ ((x.glare.tiles.drop first.toNat).take n).flatMap mapEntry) s))
              ∧ (view = 1 → exec (.readTileMap p tag [sd, view, first, count]) s = .next
                  (answered p .readTileMap tag st
                    (head ++ ((x.stats.tiles.drop first.toNat).take n).flatMap statsEntry) s))

/-! ### Views and display links -/

/-- R41, R73, R99: the requests of the VIEW group. Each sets the named sides and answers OK, or OK_CLAMPED where a clamp
changed a value; an empty side set, one beyond the two, or an unknown policy is REFUSED_PARAM. -/
def Obligations.ViewGroupRequests : Prop :=
  ∀ (s : State) (p : Port) (tag : BitVec 4) (sides a b c d : Byte),
    (Reaches s p .setViewOffset → sides.toNat = 0 ∨ 3 < sides.toNat →
        exec (.setViewOffset p tag [sides, a, b, c, d]) s = .next (answered p .setViewOffset tag .refusedParam [] s))
      ∧ (Reaches s p .setNightPolicy → sides.toNat = 0 ∨ 3 < sides.toNat ∨ 2 < a.toNat →
        exec (.setNightPolicy p tag [sides, a]) s = .next (answered p .setNightPolicy tag .refusedParam [] s))
      ∧ (Reaches s p .setBrightness → sides.toNat = 0 ∨ 3 < sides.toNat →
        exec (.setBrightness p tag [sides, a]) s = .next (answered p .setBrightness tag .refusedParam [] s))
      ∧ (1 ≤ sides.toNat → sides.toNat ≤ 3 →
        (Reaches s p .setViewOffset → ∃ (dx dy : Int) (f : Composer → Composer),
          dx = max (-960) (min (a ++ b).toInt 960) ∧ dy = max (-720) (min (c ++ d).toInt 720)
            ∧ (∀ x, f x = { x with driverDx := dx, driverDy := dy })
            ∧ exec (.setViewOffset p tag [sides, a, b, c, d]) s = .next (answered p .setViewOffset tag
                (if dx = (a ++ b).toInt ∧ dy = (c ++ d).toInt then .ok else .okClamped) []
                { s with left := if sides.getLsbD 0 then { s.left with view := f s.left.view } else s.left
                         right := if sides.getLsbD 1 then { s.right with view := f s.right.view } else s.right }))
        ∧ (∀ v, ((a = 0 ∧ v = NightPolicy.auto) ∨ (a = 1 ∧ v = .forceDay) ∨ (a = 2 ∧ v = .forceNight)) →
          Reaches s p .setNightPolicy → ∃ f : Exposure → Exposure,
            (∀ x, f x = { x with policy := v, nightRun := 0, dayRun := 0 })
              ∧ exec (.setNightPolicy p tag [sides, a]) s = .next (answered p .setNightPolicy tag .ok []
                { s with left := if sides.getLsbD 0 then { s.left with expo := f s.left.expo } else s.left
                         right := if sides.getLsbD 1 then { s.right with expo := f s.right.expo } else s.right }))
        ∧ (Reaches s p .setBrightness → ∃ (n : Nat) (f : Dlt → Dlt), n = max 10 (min a.toNat 100)
            ∧ (∀ x, f x = { x with pref := n })
            ∧ exec (.setBrightness p tag [sides, a]) s = .next (answered p .setBrightness tag
                (if n = a.toNat then .ok else .okClamped) []
                { s with left := if sides.getLsbD 0 then { s.left with dlt := f s.left.dlt } else s.left
                         right := if sides.getLsbD 1 then { s.right with dlt := f s.right.dlt } else s.right })))

/-- R69 to R72, R105: step 1 of an output frame start: the trailer term, the target, PAN_LIMITED, and the origin moved
toward the target by at most PAN_SLEW on each axis, or set to it at the first output frame start. -/
def Obligations.FarWindowMoves : Prop :=
  ∀ (s : State) (sd : Side) (x y : Composer) (g : GeometrySide) (tx ty : Int),
    x = (s.side sd).view → y = ((windowStep sd s).side sd).view → g = geometryOf s.cal sd →
    tx = g.x0 + x.driverDx + y.trailer → ty = g.y0 + x.driverDy + (if presentedReverse s then g.reverseDy else 0) →
      (∀ a, presentedAngle s = some a →
          y.trailer = g.panGain * (match sd with | .right => a | .left => -a).toNat / 2)
        ∧ (presentedAngle s = none → y.trailer = x.trailer - g.panReturn)
        ∧ (y.targetX : Int) = max 0 (min tx 960) ∧ (y.targetY : Int) = max 0 (min ty 720)
        ∧ (y.panLimited = true ↔ tx < 0 ∨ 960 < tx ∨ ty < 0 ∨ 720 < ty)
        ∧ (x.firstFrame = true → y.originX = y.targetX ∧ y.originY = y.targetY) ∧ y.firstFrame = false
        ∧ (x.firstFrame = false →
            (x.originX ≤ y.targetX → y.originX = min y.targetX (x.originX + g.panSlew))
            ∧ (y.targetX ≤ x.originX → y.originX = max y.targetX (x.originX - g.panSlew))
            ∧ (x.originY ≤ y.targetY → y.originY = min y.targetY (x.originY + g.panSlew))
            ∧ (y.targetY ≤ x.originY → y.originY = max y.targetY (x.originY - g.panSlew)))
        ∧ windowStep sd s = s.modView sd fun z =>
            { z with trailer := y.trailer, targetX := y.targetX, targetY := y.targetY, panLimited := y.panLimited
                     originX := y.originX, originY := y.originY, firstFrame := y.firstFrame }

/-- R64, R66, R67, R68, R74 to R76, R78, R79: steps 2 and 3 of an output frame start, and the frame handed to the DLT. w
is the state after step 1, u after step 3. That the held count stays on an entry to INVALID is log 22's. -/
def Obligations.OutputStartDecides : Prop :=
  ∀ (s w : State) (sd : Side) (x : Composer) (newer loss : Prop), blocksRun s.phase = true → w = windowStep sd s →
    x = (w.side sd).view → (newer ↔ x.fresh = true ∧ x.slot.isSome = true) → (loss ↔ viewLossActive s.table sd = true) →
      ∃ (u : State) (codes : List Byte), exec (.outputFrameStart sd) s = .next (takeFrame sd codes (u.modDlt sd retryOffer))
        ∧ (newer → x.state = .live ∨ x.state = .holding ∨ ((x.state = .starting ∨ x.state = .invalid) ∧ ¬ loss) →
            (∃ f, x.slot = some f ∧ codes = composeCodes s.cal.image.kneeIn ((s.side sd).glare.tiles.map (·.ga)) f.image
              x.originX x.originY)
            ∧ u = (changeView sd .live w).modView sd fun z =>
                { z with heldCount := 0, fresh := false, lastComposed := some codes })
        ∧ (x.state = .starting → loss → u = enterInvalid sd w ∧ codes = invalidCodes)
        ∧ (x.state = .starting → ¬ loss → ¬ newer →
            (x.startCount + 1 < s.cal.integrity.startLimit →
                u = w.modView sd (fun z => { z with startCount := x.startCount + 1 }) ∧ codes = blackCodes)
            ∧ (s.cal.integrity.startLimit ≤ x.startCount + 1 → codes = invalidCodes
                ∧ u = sendRaise .staleView (faultSideOf sd) 1
                    ((enterInvalid sd w).modView sd fun z => { z with recoverCount := 0 })))
        ∧ (∀ held, held = (if x.state = .live then 0 else x.heldCount) + 1 → x.state = .live ∨ x.state = .holding →
            ¬ newer →
              (held < s.cal.integrity.holdLimit → codes = x.lastComposed.getD blackCodes
                ∧ u = (changeView sd .holding w).modView sd fun z =>
                    { z with heldCount := held, framesHeld := z.framesHeld + 1 })
              ∧ (s.cal.integrity.holdLimit ≤ held → codes = invalidCodes
                ∧ u = sendRaise .staleView (faultSideOf sd) 0
                    ((enterInvalid sd w).modView sd fun z => { z with heldCount := held, recoverCount := 0 })))
        ∧ (x.state = .invalid → loss → u = w.modView sd (fun z => { z with startCount := 0 }) ∧ codes = invalidCodes)
        ∧ (x.state = .invalid → ¬ loss → ¬ newer → codes = invalidCodes
            ∧ (x.startCount + 1 < s.cal.integrity.startLimit →
                u = w.modView sd fun z => { z with startCount := x.startCount + 1 })
            ∧ (s.cal.integrity.startLimit ≤ x.startCount + 1 →
                u = sendRaise .staleView (faultSideOf sd) 1
                    (w.modView sd fun z => { z with startCount := 0, recoverCount := 0 })))
        ∧ (x.state = .test → newer →
            (∃ f, x.slot = some f ∧ codes = composeCodes s.cal.image.kneeIn ((s.side sd).glare.tiles.map (·.ga)) f.image
              x.originX x.originY)
            ∧ u = w.modView sd fun z => { z with fresh := false, testComposed := true, lastComposed := some codes })
        ∧ (x.state = .test → ¬ newer → u = w
            ∧ codes = if x.testComposed then x.lastComposed.getD blackCodes else blackCodes)

/-- R64, R86, R87, R88, R93, R95, R98: the output frame that the DLT is handed, and the retry before it. In UP the frame is
tagged, signed, listed and sent with the level moved by at most BL_RAMP; the oldest of five entries is counted as a
mismatch. In OFFER and CONFIRM the ability word goes in its slot; in DOWN and FAILED nothing is sent. The period to the
next output frame start is 1/30 s in UP with M30, and 1/60 s in every other case. That the message is held for its slot
is the model's form (log 20). -/
def Obligations.OutputFrameSent : Prop :=
  (∀ d : Dlt, (d.state = .down → d.retry = true → retryOffer d =
        { d with state := .offer, reference := none, run := 0, negTimer := true, retry := false })
      ∧ (d.state ≠ .down ∨ d.retry = false → retryOffer d = d))
    ∧ (∀ (s : State) (sd : Side) (d : Dlt), d = (s.side sd).dlt →
        (d.state = .up → d.chosen = some .m30 → outputPeriod s sd = 2)
          ∧ (d.state ≠ .up ∨ d.chosen ≠ some .m30 → outputPeriod s sd = 1))
    ∧ ∀ (s : State) (sd : Side) (codes : List Byte) (d : Dlt), d = (s.side sd).dlt →
      (d.state = .down ∨ d.state = .failed →
          takeFrame sd codes s = s.modDlt sd fun d => { d with forward := .nothing })
      ∧ (d.state = .offer → takeFrame sd codes s = s.modDlt sd fun d => { d with forward := .abilityWord false })
      ∧ (d.state = .confirm → takeFrame sd codes s = s.modDlt sd fun d => { d with forward := .abilityWord true })
      ∧ (d.state = .up → ∃ (level : Nat) (e : Dlt),
          (d.blSent ≤ d.blCommand → level = min d.blCommand (d.blSent + s.cal.image.blRamp))
          ∧ (d.blCommand ≤ d.blSent → level = max d.blCommand (d.blSent - s.cal.image.blRamp))
          ∧ e = { d with tagCounter := d.tagCounter + 1, blSent := level
                         sent := d.sent ++ [{ tag := d.tagCounter + 1, signature := crc32 codes }]
                         forward := .outputFrame (d.tagCounter + 1) level codes }
          ∧ (d.sent.length < 4 → takeFrame sd codes s = s.modDlt sd fun _ => e)
          ∧ (d.sent.length = 4 → ∃ (run : Nat) (u : State), run = min (d.mismatchRun + 1) 255
              ∧ u = s.modDlt sd (fun _ => { e with sent := e.sent.drop 1, sigMismatches := d.sigMismatches + 1
                                                   mismatchRun := run, matchRun := 0 })
              ∧ takeFrame sd codes s = if s.cal.integrity.sigLimit ≤ run then
                  sendRaise .dispSignature (faultSideOf sd) (BitVec.ofNat 16 run) u else u))

/-- R85, R86, R89, R91, R92: the back channel's lock and the three timers. A loss of lock takes any state to DOWN, and a
departure from UP raises DISP_LINK with detail 1; the expiries take OFFER and CONFIRM, and FAILED, to DOWN with the retry
mark set where the lock is held; the up deadline raises DISP_LINK with detail 5 and leaves the state. An event that finds
nothing to do changes nothing (log 3). The confirmed word at a loss of lock is log 18's, the message held for the slot
log 20's. -/
def Obligations.NegotiationEvents : Prop :=
  ∀ (s : State) (sd : Side) (d : Dlt), blocksRun s.phase = true → d = (s.side sd).dlt →
    (d.locked = false → exec (.backChannelLockAcquired sd) s = .next (s.modDlt sd fun d =>
          { d with locked := true, state := .offer, reference := none, run := 0, negTimer := true, retry := false })
        ∧ exec (.backChannelLockLost sd) s = .next s)
      ∧ (d.locked = true → exec (.backChannelLockAcquired sd) s = .next s
        ∧ (d.state ≠ .up → exec (.backChannelLockLost sd) s = .next (s.modDlt sd fun d =>
            { d with locked := false, state := .down, negTimer := false, failedTimer := false, reference := none
                     run := 0, retry := false, forward := .nothing }))
        ∧ (d.state = .up → exec (.backChannelLockLost sd) s = .next (notifyBoth .display
            (sendRaise .dispLink (faultSideOf sd) 1 (s.modDlt sd fun d =>
              { d with locked := false, state := .down, negTimer := false, failedTimer := false, reference := none
                       run := 0, retry := false, chosen := none, sent := [], mismatchRun := 0, matchRun := 0
                       forward := .nothing })))))
      ∧ (d.negTimer = true → d.state = .offer ∨ d.state = .confirm →
          exec (.negotiationTimerExpiry sd) s = .next (s.modDlt sd fun d =>
            { d with state := .down, negTimer := false, reference := none, confirmed := none, run := 0
                     retry := d.locked, forward := .nothing }))
      ∧ (d.negTimer = false ∨ (d.state ≠ .offer ∧ d.state ≠ .confirm) →
          exec (.negotiationTimerExpiry sd) s = .next s)
      ∧ (d.failedTimer = true → d.state = .failed → exec (.failedTimerExpiry sd) s = .next (s.modDlt sd fun d =>
          { d with state := .down, failedTimer := false, retry := d.locked }))
      ∧ (d.failedTimer = false ∨ d.state ≠ .failed → exec (.failedTimerExpiry sd) s = .next s)
      ∧ (d.upDeadline = true → exec (.upDeadlineExpiry sd) s = .next (notifyBoth .display
          (sendRaise .dispLink (faultSideOf sd) 5 (s.modDlt sd fun d => { d with upDeadline := false }))))
      ∧ (d.upDeadline = false → exec (.upDeadlineExpiry sd) s = .next s)

/-- R84, R87, R88, R90, R91 with 11 section 11.6: a monitor ability word, by the negotiation state. Bits 0 to 2 of the
word are compared, bit 3 is its ack, bits 4 to 7 are ignored. The confirmed word at a departure from UP is log 18's, the
message held for the slot log 20's. -/
def Obligations.AbilityWordTaken : Prop :=
  ∀ (s : State) (sd : Side) (w : Byte) (d : Dlt) (a : Ability), blocksRun s.phase = true → d = (s.side sd).dlt →
    a = { m60 := w.getLsbD 0, m30 := w.getLsbD 1, signature := w.getLsbD 2 } →
      (d.locked = false ∨ d.state = .down ∨ d.state = .failed → exec (.monitorAbilityWord sd w) s = .next s)
      ∧ (d.locked = true →
        (d.state = .offer → d.reference ≠ some a →
          exec (.monitorAbilityWord sd w) s = .next (s.modDlt sd fun d => { d with reference := some a, run := 1 }))
        ∧ (d.state = .offer → d.reference = some a → d.run + 1 < 3 →
          exec (.monitorAbilityWord sd w) s = .next (s.modDlt sd fun d => { d with run := d.run + 1 }))
        ∧ (d.state = .offer → d.reference = some a → 3 ≤ d.run + 1 →
          (a.signature = true → a.m60 = true ∨ a.m30 = true →
            exec (.monitorAbilityWord sd w) s = .next (s.modDlt sd fun d =>
              { d with run := d.run + 1, confirmed := some a, state := .confirm }))
          ∧ ∀ cause, (a.signature = false ∧ cause = 3)
                ∨ (a.signature = true ∧ a.m60 = false ∧ a.m30 = false ∧ cause = 4) →
            exec (.monitorAbilityWord sd w) s = .next (notifyBoth .display
              (sendRaise .dispLink (faultSideOf sd) cause (s.modDlt sd fun d =>
                { d with run := d.run + 1, state := .failed, negTimer := false, failedTimer := true
                         forward := .nothing }))))
        ∧ (d.state = .confirm → d.confirmed = some a → w.getLsbD 3 = false →
          exec (.monitorAbilityWord sd w) s = .next s)
        ∧ (d.state = .confirm → d.confirmed = some a → w.getLsbD 3 = true →
          exec (.monitorAbilityWord sd w) s = .next (sendClear .dispLink (faultSideOf sd) (s.modDlt sd fun d =>
            { d with state := .up, chosen := some (if a.m60 then .m60 else .m30), negTimer := false
                     upDeadline := false, mismatchRun := 0, matchRun := 0, sent := [] })))
        ∧ (d.state = .confirm → d.confirmed ≠ some a →
          exec (.monitorAbilityWord sd w) s = .next (s.modDlt sd fun d =>
            { d with state := .offer, reference := some a, run := 1, confirmed := none }))
        ∧ (d.state = .up → d.confirmed = some a → exec (.monitorAbilityWord sd w) s = .next s)
        ∧ (d.state = .up → d.confirmed ≠ some a →
          exec (.monitorAbilityWord sd w) s = .next (notifyBoth .display
            (sendRaise .dispLink (faultSideOf sd) 2 (s.modDlt sd fun d =>
              { d with state := .offer, reference := some a, run := 1, negTimer := true, chosen := none, sent := []
                       mismatchRun := 0, matchRun := 0, forward := .nothing })))))

/-- R94 to R97: a frame return, discarded whole outside UP. In UP: the match against the sent-signature list, the
raise, the clear or neither of DISP_SIGNATURE and the raise or clear of MONITOR_FAULT with their details, the readings,
the backlight command from the curve, the preference, the night cap and the floor. -/
def Obligations.FrameReturnTaken : Prop :=
  (∀ (s : State) (sd : Side) (tag : Byte) (sig : BitVec 32) (ambient actual flags : BitVec 16),
      (s.side sd).dlt.state ≠ .up → exec (.frameReturn sd tag sig ambient actual flags) s = .next s)
    ∧ (∀ (s : State) (sd : Side) (tag : Byte) (sig : BitVec 32) (ambient actual flags : BitVec 16) (d : Dlt)
        (older rest : List SentFrame) (k : ImageCal) (misses : Nat) (hit : Bool), blocksRun s.phase = true →
        d = (s.side sd).dlt → d.state = .up → d.locked = true → d.mismatchRun ≤ 255 → k = s.cal.image →
        s.cal.integrity.sigLimit ≤ 255 → (∀ e ∈ older, e.tag ≠ tag) →
        (∃ e, d.sent = older ++ e :: rest ∧ e.tag = tag ∧ hit = decide (e.signature = sig)
              ∧ misses = older.length + (if hit then 0 else 1))
            ∨ (d.sent = rest ∧ older = [] ∧ (∀ e ∈ rest, e.tag ≠ tag) ∧ hit = false ∧ misses = 1) →
          ∃ (t : State) (cmd : Nat), exec (.frameReturn sd tag sig ambient actual flags) s = .next t
            ∧ (t.side sd).dlt =
                { d with sent := rest, sigMismatches := d.sigMismatches + BitVec.ofNat 32 misses
                         mismatchRun := if hit then 0 else min (d.mismatchRun + misses) 255
                         matchRun := if hit then (if misses = 0 then min (d.matchRun + 1) 30 else 1) else 0
                         ambient := some ambient, actual := some actual
                         blCommand := max cmd k.blMin }
            ∧ cmd = (if (s.side sd).expo.dayNight = .night then
                  min (curveLevel k.curve ambient.toNat * d.pref / 100) k.blNightMax
                else curveLevel k.curve ambient.toNat * d.pref / 100)
            ∧ (1 ≤ misses → s.cal.integrity.sigLimit ≤ d.mismatchRun + misses →
                (∃ r, findRecord t.table .dispSignature (faultSideOf sd) = some r ∧ r.active = true)
                ∧ findRecord t.table .dispSignature (faultSideOf sd) = findRecord (tableRaise s.table .dispSignature
                    (faultSideOf sd) (BitVec.ofNat 16 (min 255 (max s.cal.integrity.sigLimit (d.mismatchRun + 1))))
                    s.time) .dispSignature (faultSideOf sd))
            ∧ (1 ≤ misses → d.mismatchRun + misses < s.cal.integrity.sigLimit →
                findRecord t.table .dispSignature (faultSideOf sd)
                  = findRecord s.table .dispSignature (faultSideOf sd))
            ∧ (hit = true → misses = 0 → d.matchRun = 29 →
                ∀ r, findRecord t.table .dispSignature (faultSideOf sd) = some r → r.active = false)
            ∧ (hit = true → misses = 0 → d.matchRun ≠ 29 → findRecord t.table .dispSignature (faultSideOf sd)
                = findRecord s.table .dispSignature (faultSideOf sd))
            ∧ (flags ≠ 0 → (∃ r, findRecord t.table .monitorFault (faultSideOf sd) = some r ∧ r.active = true)
                ∧ findRecord t.table .monitorFault (faultSideOf sd) = findRecord (tableRaise s.table .monitorFault
                    (faultSideOf sd) flags s.time) .monitorFault (faultSideOf sd))
            ∧ (flags = 0 →
                ∀ r, findRecord t.table .monitorFault (faultSideOf sd) = some r → r.active = false)
            ∧ ∀ x, (t.side x).clr = (s.side x).clr ∧ (t.side x).stats = (s.side x).stats
                ∧ (t.side x).expo = (s.side x).expo ∧ (t.side x).glare = (s.side x).glare
                ∧ (t.side x).inputs = (s.side x).inputs ∧ t.store = s.store ∧ t.vehicle = s.vehicle ∧ t.time = s.time
                ∧ (x ≠ sd → (t.side x).dlt = (s.side x).dlt ∧ (t.side x).view = (s.side x).view))
    ∧ ∀ (pts : List CurvePoint) (a : Nat), pts.Pairwise (fun p q => p.lux < q.lux) →
        (∀ p, pts.head? = some p → a ≤ p.lux → curveLevel pts a = p.level)
        ∧ (∀ p, pts.getLast? = some p → p.lux ≤ a → curveLevel pts a = p.level)
        ∧ ∀ (i : Nat) (p q : CurvePoint), pts[i]? = some p → pts[i + 1]? = some q → p.lux ≤ a → a < q.lux →
            (curveLevel pts a : Int)
                = p.level + (((q.level : Int) - p.level) * ((a : Int) - p.lux)) / ((q.lux : Int) - p.lux)
              ∧ min p.level q.level ≤ curveLevel pts a ∧ curveLevel pts a ≤ max p.level q.level

/-! ### Fault table -/

/-- R113 to R118: raise, clear and event on a table that holds the key's record at position i, or no record of the key. A
record keeps its place; a removal moves the later ones up; the generation rises by 1 for each record created or changed
and by 1 for each removed; every other record stays as it is. That an event which leaves its record with the very same
values counts as a change is the model's choice (log 23). -/
def Obligations.ReportsOnTheTable : Prop :=
  ∀ (t : FaultTable) (c : FaultCode) (sd : FaultSide) (d : BitVec 16) (now : Stamp), (t.records.map keyOf).Nodup →
    ((∀ r ∈ t.records, keyOf r ≠ (c, sd)) →
        tableRaise t c sd d now =
            { records := t.records ++ [{ code := c, side := sd, active := true, firstRaise := now, lastRaise := now
                                         lastClear := none, onsets := 1, detail := d, ackedBy := ⟨false, false⟩ }]
              generation := t.generation + 1 }
          ∧ tableClear t c sd now = t
          ∧ tableEvent t c sd d now =
            { records := t.records ++ [{ code := c, side := sd, active := false, firstRaise := now, lastRaise := now
                                         lastClear := some now, onsets := 1, detail := d, ackedBy := ⟨false, false⟩ }]
              generation := t.generation + 1 })
      ∧ ∀ (i : Nat) (r : FaultRecord), t.records[i]? = some r → keyOf r = (c, sd) →
          (r.active = true → tableRaise t c sd d now = t)
          ∧ (r.active = false → tableRaise t c sd d now =
              { records := t.records.set i { r with active := true, lastRaise := now, onsets := min (r.onsets + 1) 255
                                                    detail := d, ackedBy := ⟨false, false⟩ }
                generation := t.generation + 1 })
          ∧ (r.active = false → tableClear t c sd now = t)
          ∧ (r.active = true → r.ackedBy.v = false ∨ (r.ackedBy.c = false ∧ severityOf c = .viewLoss) →
              tableClear t c sd now =
                { records := t.records.set i { r with active := false, lastClear := some now }
                  generation := t.generation + 1 })
          ∧ (r.active = true → r.ackedBy.v = true → r.ackedBy.c = true ∨ severityOf c ≠ .viewLoss →
              tableClear t c sd now = { records := t.records.eraseIdx i, generation := t.generation + 2 })
          ∧ (tableEvent t c sd d now =
              { records := t.records.set i { r with lastRaise := now, lastClear := some now
                                                    onsets := min (r.onsets + 1) 255, detail := d
                                                    ackedBy := ⟨false, false⟩ }
                generation := t.generation + 1 })

/-- R77, R81, R114, R115, R116, R128: what a report brings about beyond the table. An onset of a VIEW_LOSS code takes its
side's view to INVALID at once, unless it is INVALID or in TEST; an onset of a code in the capture trigger mask hands a
FAULT trigger to the recorder of its side, and one of a COMMON record to both recorders, in an order the spec does not
give (log 6); a raise of an ACTIVE record and a clear bring about nothing more. -/
def Obligations.OnsetsReachViewAndRecorder : Prop :=
  ∀ (s : State) (c : FaultCode) (sd : Side) (d : BitVec 16),
    (sendClear c (faultSideOf sd) s = { s with table := tableClear s.table c (faultSideOf sd) s.time })
      ∧ (∀ r, findRecord s.table c (faultSideOf sd) = some r → r.active = true → sendRaise c (faultSideOf sd) d s = s)
      ∧ ((∀ r, findRecord s.table c (faultSideOf sd) = some r → r.active = false) → ∃ u v : State,
          u = { s with table := tableRaise s.table c (faultSideOf sd) d s.time }
            ∧ (severityOf c = .viewLoss →
                (s.side sd).view.state = .starting ∨ (s.side sd).view.state = .live ∨ (s.side sd).view.state = .holding →
                validLine v sd = false
                  ∧ v = ((u.modView sd fun x =>
                      { x with state := .invalid, fresh := false, heldCount := 0, startCount := 0 }).modPort .v fun y =>
                      { y with notices := { y.notices with view := true } }).modPort .c fun y =>
                      { y with notices := { y.notices with view := true } })
            ∧ (severityOf c ≠ .viewLoss ∨ (s.side sd).view.state = .invalid ∨ (s.side sd).view.state = .test → v = u)
            ∧ (inTriggerMask s.cal c = true → sendRaise c (faultSideOf sd) d s = takeTrigger sd (.fault c) v)
            ∧ (inTriggerMask s.cal c = false → sendRaise c (faultSideOf sd) d s = v))
      ∧ (sendEvent .captureLost .common d s = { s with table := tableEvent s.table .captureLost .common d s.time })
      ∧ (∀ e, inTriggerMask s.cal e = true → e ≠ .captureLost)
      ∧ ∀ (e : FaultCode) (u v : State), sideAllowed e .common = true →
          (sendClear e .common s = { s with table := tableClear s.table e .common s.time })
          ∧ (∀ r, findRecord s.table e .common = some r → r.active = true → sendRaise e .common d s = s)
          ∧ ((isEvent e = false ∧ (∀ r, findRecord s.table e .common = some r → r.active = false)
                ∧ u = { s with table := tableRaise s.table e .common d s.time } ∧ v = sendRaise e .common d s)
              ∨ (isEvent e = true ∧ u = { s with table := tableEvent s.table e .common d s.time }
                ∧ v = sendEvent e .common d s) →
            (inTriggerMask s.cal e = true → ∃ first, v = takeTrigger (otherSide first) (.fault e)
                (takeTrigger first (.fault e) { u with freeIndex := u.freeIndex + 1 }))
            ∧ (inTriggerMask s.cal e = false → v = u))

/-- R120, R121, R122: READ_FAULT and READ_FAULT_KEY reply with the record, its position and the two counts, or with the
counts alone; a code outside the fourteen, or a side its class does not allow, is REFUSED_PARAM, with no counts (the
model's choice, log 23). -/
def Obligations.FaultRecordsRead : Prop :=
  ∀ (s : State) (p : Port) (tag : BitVec 4), TableSound s.table →
    ∀ counts, counts = [BitVec.ofNat 8 s.table.records.length, s.table.generation.extractLsb' 8 8,
        s.table.generation.extractLsb' 0 8] →
      (∀ (i : Byte), (s.port p).txn = .onReady →
        (s.table.records.length ≤ i.toNat →
          exec (.readFault p tag [i]) s = .next (answered p .readFault tag .notFound counts s))
        ∧ ∀ r, s.table.records[i.toNat]? = some r →
          exec (.readFault p tag [i]) s
            = .next (answered p .readFault tag .ok (i :: counts ++ recordBytes false r) s))
      ∧ (∀ (code side : Byte), (s.port p).txn = .onReady →
        (∀ (i : Nat) (r : FaultRecord), s.table.records[i]? = some r → code.toNat = faultCodeNumber r.code →
          side.toNat = faultSideNumber r.side →
            exec (.readFaultKey p tag [code, side]) s
              = .next (answered p .readFaultKey tag .ok (BitVec.ofNat 8 i :: counts ++ recordBytes false r) s))
        ∧ (∀ c sd, code.toNat = faultCodeNumber c → side.toNat = faultSideNumber sd → sideAllowed c sd = true →
          (∀ r ∈ s.table.records, keyOf r ≠ (c, sd)) →
            exec (.readFaultKey p tag [code, side]) s = .next (answered p .readFaultKey tag .notFound counts s))
        ∧ (13 < code.toNat ∨ 2 < side.toNat ∨ (code.toNat < 10 ∧ side.toNat = 2) ∨ (10 ≤ code.toNat ∧ side.toNat < 2) →
          exec (.readFaultKey p tag [code, side]) s = .next (answered p .readFaultKey tag .refusedParam [] s)))
      ∧ ∀ (removed : Bool) (r : FaultRecord), r.onsets ≤ 255 → (recordBytes removed r).length = 25
        ∧ (recordBytes removed r).take 10 =
            [BitVec.ofNat 8 (bitsOf [removed, r.lastClear.isSome]), BitVec.ofNat 8 (faultCodeNumber r.code),
              BitVec.ofNat 8 (faultSideNumber r.side), BitVec.ofNat 8 (severityNumber (severityOf r.code)),
              if r.active then 1 else 0, BitVec.ofNat 8 (bitsOf [r.ackedBy.v, r.ackedBy.c]),
              if severityOf r.code = .viewLoss then 3 else 1, BitVec.ofNat 8 r.onsets,
              r.detail.extractLsb' 8 8, r.detail.extractLsb' 0 8]
        ∧ (recordBytes removed r).drop 10 = stampBytes r.firstRaise ++ stampBytes r.lastRaise
            ++ (match r.lastClear with | some x => stampBytes x | none => [0, 0, 0, 0, 0])

/-- R117, R118, R122, R123, R124: ACK_FAULT marks one record for the master, ACK_ALL every record of its audience that
lacks the mark; a PASSIVE record whose set is then complete is removed in the same action, and an ACTIVE one stays. A
refused ACK_FAULT is answered without counts (the model's choice, log 23). -/
def Obligations.AcknowledgementsMarkAndRemove : Prop :=
  ∀ (s : State) (p : Port) (tag : BitVec 4), TableSound s.table → (s.port p).txn = .onReady →
    (∀ (code side : Byte) (i : Nat) (r m : FaultRecord), s.table.records[i]? = some r →
      code.toNat = faultCodeNumber r.code → side.toNat = faultSideNumber r.side →
      m = { r with ackedBy := { v := r.ackedBy.v || decide (p = .v), c := r.ackedBy.c || decide (p = .c) } } →
        (p = .c → severityOf r.code ≠ .viewLoss →
          exec (.ackFault p tag [code, side]) s = .next (answered p .ackFault tag .refusedAuthority [] s))
        ∧ (p = .v ∨ severityOf r.code = .viewLoss → ∀ t : FaultTable,
            (m = r → t = s.table)
            → (m ≠ r → complete m = false →
                t = { records := s.table.records.set i m, generation := s.table.generation + 1 })
            → (complete m = true →
                t = { records := s.table.records.eraseIdx i, generation := s.table.generation + 2 })
            → exec (.ackFault p tag [code, side]) s = .next (answered p .ackFault tag .ok
                ([BitVec.ofNat 8 i, BitVec.ofNat 8 t.records.length, t.generation.extractLsb' 8 8,
                  t.generation.extractLsb' 0 8] ++ recordBytes (complete m) m) { s with table := t })))
      ∧ (∀ (code side : Byte) c sd, code.toNat = faultCodeNumber c → side.toNat = faultSideNumber sd →
          sideAllowed c sd = true → (∀ r ∈ s.table.records, keyOf r ≠ (c, sd)) →
            exec (.ackFault p tag [code, side]) s = .next (answered p .ackFault tag .notFound
              [BitVec.ofNat 8 s.table.records.length, s.table.generation.extractLsb' 8 8,
                s.table.generation.extractLsb' 0 8] s))
      ∧ (∀ (code side : Byte),
          13 < code.toNat ∨ 2 < side.toNat ∨ (code.toNat < 10 ∧ side.toNat = 2) ∨ (10 ≤ code.toNat ∧ side.toNat < 2) →
            exec (.ackFault p tag [code, side]) s = .next (answered p .ackFault tag .refusedParam [] s))
      ∧ ∃ (t : FaultTable) (marks removals : Nat),
          exec (.ackAll p tag []) s = .next (answered p .ackAll tag .ok
              [BitVec.ofNat 8 marks, BitVec.ofNat 8 removals, t.generation.extractLsb' 8 8,
                t.generation.extractLsb' 0 8] { s with table := t })
            ∧ t.generation = s.table.generation + BitVec.ofNat 16 (marks + removals)
            ∧ s.table.records.length = t.records.length + removals
            ∧ (p = .v → marks = s.table.records.countP (fun r => !r.ackedBy.v)
                ∧ t.records = (s.table.records.filter fun r => r.ackedBy.v || r.active
                    || (decide (severityOf r.code = .viewLoss) && !r.ackedBy.c)).map fun r =>
                    { r with ackedBy := { r.ackedBy with v := true } })
            ∧ (p = .c → marks = s.table.records.countP (fun r => decide (severityOf r.code = .viewLoss) && !r.ackedBy.c)
                ∧ t.records = (s.table.records.filter fun r => decide (severityOf r.code ≠ .viewLoss) || r.ackedBy.c
                    || r.active || !r.ackedBy.v).map fun r =>
                    if severityOf r.code = .viewLoss then { r with ackedBy := { r.ackedBy with c := true } } else r)
            ∧ unacknowledged t p = false

/-! ### Incident recorder -/

/-- R138 to R142: a trigger is taken by the recorder's state and the trigger's class: ignored, lost with CAPTURE_LOST,
added to the pending set, accepted, or merged. An acceptance starts a capture and, for a source other than CROSS, hands a
CROSS trigger to the other side where CROSS_LINK is ON. CROSS_TRIGGER takes one that waits, which a
counter holds (log 14), and with none it is no event (log 3). -/
def Obligations.TriggersTakenByState : Prop :=
  (∀ (s : State) (sd : Side) (trg : Trigger) (r : Recorder) (bypass : Prop) (lost : BitVec 16),
      r = (s.side sd).recorder → lost = BitVec.ofNat 16 (256 * sideNumber sd + sourceNumber (sourceOf trg)) →
      (bypass ↔ trg = .masterV ∨ trg = .masterC ∨ trg = .eventIn) →
      (r.state = .stopped → takeTrigger sd trg s = s)
      ∧ (r.state = .full ∨ (r.state = .filling ∧ ¬ bypass) →
          takeTrigger sd trg s
            = ({ s with table := tableEvent s.table .captureLost .common lost s.time } : State).modRec sd fun r =>
              { r with triggersLost := r.triggersLost + 1 })
      ∧ (r.state = .filling ∨ r.state = .post → bypass →
          takeTrigger sd trg s = s.modRec sd fun r => { r with waiting := addSource r.waiting (sourceOf trg) })
      ∧ (r.state = .armed → ∃ u : State, u = s.modRec sd (fun r =>
            { r with state := .post, post := r.size - r.npre
                     current := some
                       { sources := addSource noSources (sourceOf trg)
                         faultCodes := match trg with | .fault c => [c] | _ => []
                         seen := match trg with | .fault c => [c] | _ => []
                         extraCodes := 0, triggerFrame := none, triggerTime := s.time, preCount := r.npre
                         postCount := r.size - r.npre, continues := false } })
          ∧ (r.crossLink = true → trg ≠ .cross → takeTrigger sd trg s =
              u.modRec (otherSide sd) fun r => { r with crossIncoming := r.crossIncoming + 1 })
          ∧ (r.crossLink = false ∨ trg = .cross → takeTrigger sd trg s = u))
      ∧ (∀ k, r.state = .post → r.current = some k → trg = .cross → takeTrigger sd trg s = s.modRec sd fun r =>
          { r with current := some { k with sources := { k.sources with cross := true } } })
      ∧ (∀ k m c, r.state = .post → r.current = some k → trg = .fault c →
          m = { k with sources := { k.sources with fault := true }
                       seen := if c ∈ k.seen then k.seen else k.seen ++ [c]
                       faultCodes := if c ∈ k.seen ∨ 4 ≤ k.faultCodes.length then k.faultCodes else k.faultCodes ++ [c]
                       extraCodes := if c ∈ k.seen ∨ k.faultCodes.length < 4 then k.extraCodes
                                     else min (k.extraCodes + 1) 255 } →
            takeTrigger sd trg s = s.modRec sd fun r => { r with current := some m }))
    ∧ ∀ (s : State) (sd : Side), blocksRun s.phase = true →
        ((s.side sd).recorder.crossIncoming = 0 → exec (.crossTrigger sd) s = .next s)
          ∧ (0 < (s.side sd).recorder.crossIncoming → exec (.crossTrigger sd) s = .next
              (takeTrigger sd .cross (s.modRec sd fun r => { r with crossIncoming := r.crossIncoming - 1 })))

/-- R142, R143, R144, R174: a rising edge of EVENT_IN hands one trigger to each recorder, in an order the spec does not
give (log 6); a line that is high gives none until it has been low, and while a reset holds the part an edge hands none.
TRIGGER_CAPTURE hands its master's trigger to each named side and replies what each did with it. -/
def Obligations.OutsideTriggersHanded : Prop :=
  (∀ s : State, exec .eventInFall s = .next { s with eventIn := false }
      ∧ (s.eventIn = true → exec .eventInEdge s = .next s)
      ∧ (s.eventIn = false → blocksRun s.phase = false → exec .eventInEdge s = .next { s with eventIn := true })
      ∧ (s.eventIn = false → blocksRun s.phase = true → ∃ first, exec .eventInEdge s = .next
          (takeTrigger (otherSide first) .eventIn
            (takeTrigger first .eventIn { s with eventIn := true, freeIndex := s.freeIndex + 1 }))))
    ∧ ∀ (s : State) (p : Port) (tag : BitVec 4) (sides : Byte) (trg : Trigger) (did : Side → Byte),
        Reaches s p .triggerCapture → trg = (match p with | .v => Trigger.masterV | .c => .masterC) →
        (∀ sd, did sd = if sides.getLsbD (sideNumber sd) = false then 0 else
            match (s.side sd).recorder.state with
            | .armed => 1 | .filling | .post => 2 | .full => 3 | .stopped => 4) →
          (sides.toNat = 0 ∨ 3 < sides.toNat →
              exec (.triggerCapture p tag [sides]) s = .next (answered p .triggerCapture tag .refusedParam [] s))
            ∧ (∀ sd, sides.toNat = sideNumber sd + 1 → exec (.triggerCapture p tag [sides]) s = .next
                (answered p .triggerCapture tag .ok [did .left, did .right] (takeTrigger sd trg s)))
            ∧ (sides = 3 → ∃ first, exec (.triggerCapture p tag [sides]) s = .next
                (answered p .triggerCapture tag .ok [did .left, did .right]
                  (takeTrigger (otherSide first) trg
                    (takeTrigger first trg { s with freeIndex := s.freeIndex + 1 }))))

/-- R136, R137, R140, R141, R146, R147: a digest is taken by the recorder's state. In FILLING the write that brings the
fill count to NPRE arms the recorder, or accepts the pending set. In POST the write that brings the post count to 0 completes the
capture: kept with a header and CAPTURE notices, or suppressed. A freeze of the last buffer enters FULL and loses the
pending set, one CAPTURE_LOST event per source, in an order the spec does not give (log 6); any other goes on in the next
buffer, in FILLING or as a continuation. An accepted pending set hands the other side one CROSS trigger where CROSS_LINK is
ON, which a counter holds until it is taken (log 14). -/
def Obligations.DigestsTakenByState : Prop :=
  ∀ (s t : State) (sd : Side) (d : Digest) (r p : Recorder) (next : Nat), RecorderSound r → r = (s.side sd).recorder →
    t = writeDigest sd d s →
    p = { r with slots := slotWrite r.slots (writePointer r * r.size + r.w) d, w := (r.w + 1) % r.size } →
    next = (writePointer r + 1) % bufferCount r →
      (r.state = .stopped ∨ r.state = .full → t = s)
      ∧ (r.state = .armed → t = s.modRec sd fun _ => p)
      ∧ (r.state = .filling → r.fill + 1 < r.npre → t = s.modRec sd fun _ => { p with fill := r.fill + 1 })
      ∧ (r.state = .filling → r.npre ≤ r.fill + 1 → noSource r.waiting = true →
          t = s.modRec sd fun _ => { p with fill := r.fill + 1, state := .armed })
      ∧ (r.state = .filling → r.npre ≤ r.fill + 1 → noSource r.waiting = false →
          (t.side sd).recorder = { p with
            fill := r.fill + 1, state := .post, post := r.size - r.npre, waiting := noSources
            current := some { sources := r.waiting, faultCodes := [], seen := [], extraCodes := 0, triggerFrame := none
                              triggerTime := s.time, preCount := r.npre, postCount := r.size - r.npre
                              continues := false } }
            ∧ (t.side (otherSide sd)).recorder =
                { (s.side (otherSide sd)).recorder with
                  crossIncoming := (s.side (otherSide sd)).recorder.crossIncoming + (if r.crossLink then 1 else 0) }
            ∧ t.table = s.table ∧ ∀ port, t.port port = s.port port)
      ∧ (∀ k m : Capture, r.state = .post → r.current = some k →
          m = (if k.triggerFrame = none then { k with triggerFrame := some d.frameNumber } else k) →
          (1 < r.post → t = s.modRec sd fun _ => { p with post := r.post - 1, current := some m })
          ∧ (r.post = 1 → presentedPermission s = false → hasBypass k.sources = false → noSource r.waiting = true →
              t = s.modRec sd fun _ =>
                { p with post := 0, current := none, state := .armed
                         framesSuppressed := r.framesSuppressed + BitVec.ofNat 32 r.size })
          ∧ (r.post = 1 → presentedPermission s = true ∨ hasBypass k.sources = true ∨ noSource r.waiting = false →
            ∃ (h : CaptureHeader) (q : Recorder),
              h = { seq := r.seq, buffer := writePointer r, triggerFrame := m.triggerFrame, triggerTime := k.triggerTime
                    freezeTime := s.time, stopSlot := r.w, preCount := k.preCount, postCount := k.postCount
                    sources := k.sources, faultCodes := k.faultCodes, extraCodes := k.extraCodes
                    continues := k.continues, windowBypassed := !presentedPermission s }
                ∧ q = { p with post := 0, headers := r.headers ++ [h], seq := r.seq + 1, frozen := r.frozen + 1
                               current := none }
                ∧ (∀ port, (t.port port).notices = { (s.port port).notices with capture := true })
                ∧ (r.frozen + 1 = bufferCount r →
                    (t.side sd).recorder = { q with
                      state := .full, waiting := noSources
                      triggersLost := r.triggersLost + BitVec.ofNat 32 (sourceList r.waiting).length }
                    ∧ (noSource r.waiting = true → t.table = s.table)
                    ∧ (∃ order : List TriggerSource, order.Perm (sourceList r.waiting)
                        ∧ t.table = order.foldl (fun table src => tableEvent table .captureLost .common
                            (BitVec.ofNat 16 (256 * sideNumber sd + sourceNumber src)) s.time) s.table)
                    ∧ t.side (otherSide sd) = s.side (otherSide sd))
                ∧ (r.frozen + 1 < bufferCount r → noSource r.waiting = true →
                    (t.side sd).recorder = { q with
                      slots := slotClear p.slots (next * r.size) ((next + 1) * r.size), w := 0, state := .filling
                      fill := 0 } ∧ t.table = s.table ∧ t.side (otherSide sd) = s.side (otherSide sd))
                ∧ (r.frozen + 1 < bufferCount r → noSource r.waiting = false →
                    (t.side sd).recorder = { q with
                      slots := slotClear p.slots (next * r.size) ((next + 1) * r.size), w := 0, state := .post
                      post := r.size - r.npre, waiting := noSources
                      current := some { sources := r.waiting, faultCodes := [], seen := [], extraCodes := 0
                                        triggerFrame := none, triggerTime := s.time, preCount := 0
                                        postCount := r.size - r.npre, continues := true } }
                    ∧ (t.side (otherSide sd)).recorder =
                        { (s.side (otherSide sd)).recorder with
                          crossIncoming := (s.side (otherSide sd)).recorder.crossIncoming
                            + (if r.crossLink then 1 else 0) }
                    ∧ t.table = s.table)))
      ∧ (∀ x, { t.side x with recorder := (s.side x).recorder } = s.side x)
      ∧ t.store = s.store ∧ t.vehicle = s.vehicle ∧ t.time = s.time ∧ t.pending = s.pending

/-- R148 to R152, R156, R184: readout of the head capture, and the 31 bytes of GET_CAPTURE_STATUS. Digest k is in slot
(stop_slot + 1 + k) modulo S; READ_NEXT moves its own master's cursor alone; a release frees the head's buffer, and from
FULL starts it. -/
def Obligations.CapturesReadAndReleased : Prop :=
  ∀ (s : State) (p : Port) (tag : BitVec 4) (sd : Side) (r : Recorder) (side : Byte), r = (s.side sd).recorder →
    side = BitVec.ofNat 8 (sideNumber sd) → (s.port p).txn = .onReady →
      (r.headers = [] →
        exec (.readCaptureHeader p tag [side]) s = .next (answered p .readCaptureHeader tag .notFound [] s)
          ∧ exec (.readCaptureNext p tag [side]) s = .next (answered p .readCaptureNext tag .notFound [] s)
          ∧ (∀ k1 k0 : Byte, (k1 ++ k0).toNat < r.size → exec (.readCaptureSlot p tag [side, k1, k0]) s
              = .next (answered p .readCaptureSlot tag .notFound [] s))
          ∧ (authorised s p .releaseCapture = true → ∀ q, exec (.releaseCapture p tag [side, q]) s
              = .next (answered p .releaseCapture tag .notFound [] s)))
      ∧ (∀ k1 k0 : Byte, r.size ≤ (k1 ++ k0).toNat → exec (.readCaptureSlot p tag [side, k1, k0]) s
          = .next (answered p .readCaptureSlot tag .refusedParam [] s))
      ∧ (∃ status, status.length = 31
          ∧ exec (.getCaptureStatus p tag [side]) s = .next (answered p .getCaptureStatus tag .ok status s)
          ∧ status.getD 0 0 = BitVec.ofNat 8 (recorderNumber r.state)
          ∧ status.getD 9 0 = BitVec.ofNat 8 r.rp ∧ status.getD 11 0 = BitVec.ofNat 8 r.frozen)
      ∧ (∀ (active : Bool) (sources : SourceSet) (codes : List FaultCode),
          (active = true ↔ r.state = .filling ∨ r.state = .armed ∨ r.state = .post) →
          (r.state = .post → ∃ k, r.current = some k ∧ sources = k.sources ∧ codes = k.faultCodes) →
          (r.state ≠ .post → sources = noSources ∧ codes = []) →
          exec (.getCaptureStatus p tag [side]) s = .next (answered p .getCaptureStatus tag .ok
            ([BitVec.ofNat 8 (recorderNumber r.state)] ++ word16 r.size ++ [BitVec.ofNat 8 (2048 / r.size)]
              ++ word16 r.npre ++ word16 (r.size - r.npre)
              ++ [if r.crossLink then 1 else 0, BitVec.ofNat 8 r.rp,
                BitVec.ofNat 8 ((r.rp + r.frozen) % (2048 / r.size)), BitVec.ofNat 8 r.frozen,
                BitVec.ofNat 8 (bitsOf [active, decide (r.state = .filling), decide (r.state = .post),
                  decide (r.headers ≠ [])])]
              ++ word16 (if active then r.w else 0) ++ word16 (if r.state = .filling then r.fill else 0)
              ++ word16 (if r.state = .post then r.post else 0)
              ++ [BitVec.ofNat 8 (sourceBits sources), BitVec.ofNat 8 codes.length]
              ++ ((List.range 4).map fun i =>
                  match codes[i]? with | some c => BitVec.ofNat 8 (faultCodeNumber c) | none => 0)
              ++ [BitVec.ofNat 8 (sourceBits r.waiting), BitVec.ofNat 8 r.headers.length,
                match r.headers with | h :: _ => h.seq | [] => 0, r.seq]
              ++ word16 (match p with | .v => r.cursorV | .c => r.cursorC)) s))
      ∧ ∀ (h : CaptureHeader) (rest : List CaptureHeader), r.headers = h :: rest →
        (exec (.readCaptureHeader p tag [side]) s = .next (answered p .readCaptureHeader tag .ok
            ([BitVec.ofNat 8 r.headers.length, BitVec.ofNat 8 (recorderNumber r.state), BitVec.ofNat 8 r.frozen]
              ++ headerBytes h)
            (s.modRec sd fun r => match p with | .v => { r with cursorV := 0 } | .c => { r with cursorC := 0 })))
        ∧ (∀ (k slot : Nat) (reply : List Byte), k < r.size → r.size ≤ 1024 → slot = (h.stopSlot + 1 + k) % r.size →
            reply = [h.seq] ++ word16 k ++ word16 slot
              ++ (match slotRead r.slots (h.buffer * r.size + slot) with
                  | some d => 1 :: digestBytes d
                  | none => [0]) →
            exec (.readCaptureSlot p tag (side :: word16 k)) s = .next (answered p .readCaptureSlot tag .ok reply s)
            ∧ ((match p with | .v => r.cursorV | .c => r.cursorC) = k →
                exec (.readCaptureNext p tag [side]) s = .next (answered p .readCaptureNext tag .ok reply
                  (s.modRec sd fun r => match p with
                    | .v => { r with cursorV := if k + 1 = r.size then 0 else k + 1 }
                    | .c => { r with cursorC := if k + 1 = r.size then 0 else k + 1 }))))
        ∧ (authorised s p .releaseCapture = true → ∀ q : Byte,
            (q ≠ h.seq → exec (.releaseCapture p tag [side, q]) s
              = .next (answered p .releaseCapture tag .notFound [] s))
            ∧ (q = h.seq → ∃ e : Recorder, e = { r with headers := rest, rp := (r.rp + 1) % bufferCount r
                                                        frozen := r.frozen - 1, cursorV := 0, cursorC := 0 }
                ∧ exec (.releaseCapture p tag [side, q]) s = .next
                    (answered p .releaseCapture tag .ok [h.seq, BitVec.ofNat 8 e.frozen]
                      (s.modRec sd fun _ => if r.state = .full then
                        { e with state := .filling, fill := 0, w := 0
                                 slots := slotClear e.slots (writePointer e * e.size)
                                   ((writePointer e + 1) * e.size) } else e))))

/-- R153, R154, R155: CAPTURE_CONTROL, SET_CAPTURE_PARAMS and CLEAR_CAPTURE. START and STOP in a state that has them in
effect change nothing. A change of S frees every buffer; CLEAR_CAPTURE does so whatever the state. -/
def Obligations.RecorderControlled : Prop :=
  ∀ (s : State) (p : Port) (tag : BitVec 4) (sd : Side) (r : Recorder) (side : Byte), r = (s.side sd).recorder →
    side = BitVec.ofNat 8 (sideNumber sd) → (s.port p).txn = .onReady → RecorderSound r →
      (authorised s p .captureControl = true → ∀ action : Byte,
        (1 < action.toNat → exec (.captureControl p tag [side, action]) s
          = .next (answered p .captureControl tag .refusedParam [] s))
        ∧ (action.toNat ≤ 1 → ∃ y : Recorder,
          exec (.captureControl p tag [side, action]) s = .next (answered p .captureControl tag .ok
              [BitVec.ofNat 8 (recorderNumber y.state)] (s.modRec sd fun _ => y))
            ∧ ((action = 0 ∧ r.state ≠ .stopped) ∨ (action = 1 ∧ r.state = .stopped) → y = r)
            ∧ (action = 0 → r.state = .stopped → r.frozen = bufferCount r → y = { r with state := .full })
            ∧ (action = 0 → r.state = .stopped → r.frozen < bufferCount r →
                y = { r with state := .filling, fill := 0, w := 0
                             slots := slotClear r.slots (writePointer r * r.size) ((writePointer r + 1) * r.size) })
            ∧ (action = 1 → r.state = .full → y = { r with state := .stopped, current := none, waiting := noSources })
            ∧ (action = 1 → hasActiveBuffer r = true →
                y = { r with state := .stopped, current := none, waiting := noSources
                             slots := slotClear r.slots (writePointer r * r.size) ((writePointer r + 1) * r.size) })))
      ∧ (authorised s p .setCaptureParams = true → ∀ (s1 s0 n1 n0 x : Byte) (size npre : Nat),
        size = (s1 ++ s0).toNat → npre = max 1 (min (n1 ++ n0).toNat (size - 1)) →
        (size ∉ [128, 256, 512, 1024] ∨ 1 < x.toNat → exec (.setCaptureParams p tag [side, s1, s0, n1, n0, x]) s
          = .next (answered p .setCaptureParams tag .refusedParam [] s))
        ∧ (size ∈ [128, 256, 512, 1024] → x.toNat ≤ 1 → r.state ≠ .stopped →
          exec (.setCaptureParams p tag [side, s1, s0, n1, n0, x]) s
            = .next (answered p .setCaptureParams tag .refusedState [] s))
        ∧ (size ∈ [128, 256, 512, 1024] → x.toNat ≤ 1 → r.state = .stopped → ∃ y : Recorder,
          exec (.setCaptureParams p tag [side, s1, s0, n1, n0, x]) s = .next (answered p .setCaptureParams tag
              (if npre = (n1 ++ n0).toNat then .ok else .okClamped) [] (s.modRec sd fun _ => y))
            ∧ (size = r.size → y = { r with npre := npre, crossLink := decide (x = 1) })
            ∧ (size ≠ r.size → y = { r with size := size, npre := npre, crossLink := decide (x = 1), slots := []
                                            headers := [], rp := 0, frozen := 0, cursorV := 0, cursorC := 0 })))
      ∧ (authorised s p .clearCapture = true → ∃ y : Recorder,
        exec (.clearCapture p tag [side]) s = .next (answered p .clearCapture tag .ok [] (s.modRec sd fun _ => y))
          ∧ (r.state = .stopped → y = { r with slots := [], headers := [], rp := 0, frozen := 0, cursorV := 0
                                               cursorC := 0, waiting := noSources, current := none })
          ∧ (r.state ≠ .stopped → y = { r with slots := [], headers := [], rp := 0, frozen := 0, cursorV := 0
                                               cursorC := 0, waiting := noSources, current := none, w := 0
                                               state := .filling, fill := 0 }))

/-! ### Calibration store -/

/-- R177, R178: CAL_STAGE replaces staging bytes, CAL_DISCARD sets the staging image to the stored bytes, CAL_READ reads
the working copy or the staging image with a summary of the region; a count is reduced to 224 and to the region's end.
While a programming period runs the stored image, and so the summary's staged changes, is the one before it (the model's
choice, log 23). -/
def Obligations.StagingAndReading : Prop :=
  ∀ (s : State) (p : Port) (tag : BitVec 4), (s.port p).txn = .onReady → ImagesSound s.store →
    (authorised s p .calStage = true → s.store.programming = none → ∀ (region o1 o0 : Byte) (bs : List Byte),
        1 ≤ bs.length → bs.length ≤ 236 →
        (4 < region.toNat → exec (.calStage p tag (region :: o1 :: o0 :: bs)) s
          = .next (answered p .calStage tag .refusedParam [] s))
        ∧ ∀ r : Region, region.toNat = regionNumber r →
          (regionLength r < (o1 ++ o0).toNat + bs.length → exec (.calStage p tag (region :: o1 :: o0 :: bs)) s
            = .next (answered p .calStage tag .refusedParam [] s))
          ∧ ((o1 ++ o0).toNat + bs.length ≤ regionLength r → ∃ new : List Byte,
            exec (.calStage p tag (region :: o1 :: o0 :: bs)) s = .next (answered p .calStage tag .ok []
                { s with store := { s.store with staging := perRegionSet s.store.staging r new } })
              ∧ new.length = regionLength r
              ∧ (∀ i, i < bs.length → new[(o1 ++ o0).toNat + i]? = bs[i]?)
              ∧ ∀ i, i < (o1 ++ o0).toNat ∨ (o1 ++ o0).toNat + bs.length ≤ i →
                  new[i]? = (perRegionGet s.store.staging r)[i]?))
      ∧ (authorised s p .calDiscard = true → s.store.programming = none →
        exec (.calDiscard p tag []) s = .next (answered p .calDiscard tag .ok []
          { s with store := { s.store with staging := perRegion fun r => (perRegionGet s.store.stored r).items } }))
      ∧ ∀ (source region o1 o0 count : Byte),
        (1 < source.toNat ∨ 4 < region.toNat ∨ count = 0 → exec (.calRead p tag [source, region, o1, o0, count]) s
          = .next (answered p .calRead tag .refusedParam [] s))
        ∧ ∀ (r : Region) (bytes : List Byte) (n : Nat), region.toNat = regionNumber r →
          (source = 0 ∧ bytes = encodeRegion s.cal r) ∨ (source = 1 ∧ bytes = perRegionGet s.store.staging r) →
          (regionLength r ≤ (o1 ++ o0).toNat → exec (.calRead p tag [source, region, o1, o0, count]) s
            = .next (answered p .calRead tag .refusedParam [] s))
          ∧ (count ≠ 0 → (o1 ++ o0).toNat < regionLength r →
            n = min (min count.toNat 224) (regionLength r - (o1 ++ o0).toNat) →
            exec (.calRead p tag [source, region, o1, o0, count]) s
              = .next (answered p .calRead tag (if n = count.toNat then .ok else .okClamped)
                ([BitVec.ofNat 8 (bitsOf [perRegionGet s.store.defaulted r, perRegionGet s.store.mask r,
                    stagedChange s.store r, s.store.window, s.store.lowered]), o1, o0, BitVec.ofNat 8 n]
                  ++ (bytes.drop (o1 ++ o0).toNat).take n) s))

/-- R176, R179, R177, R181: CAL_PROTECT, the expiry of its window, and CAL_PROGRAM. A lowering is taken once, within the
window; CAL_PROGRAM stops at the first check that fails, and begins a period with the regions that have staged changes. The
level of SUPPLY_OK comes with the request (log 13). While the programming state is BUSY, CAL_STAGE, CAL_DISCARD,
CAL_PROGRAM, CAL_PROTECT and RESTART of the right length are answered BUSY, and nothing else changes. -/
def Obligations.ProtectionAndProgramming : Prop :=
  (∀ (s : State) (p : Port) (tag : BitVec 4) (ps : List Byte), SupplySound s → s.store.programming.isSome = true →
    (s.port p).txn = .onReady →
      ∀ c ∈ [RequestCode.calStage, .calDiscard, .calProgram, .calProtect, .restart],
        authorised s p c = true → lengthOk c ps.length = true →
          exec (requestInstr c p tag ps s.supplyOk) s = .next (answered p c tag .busy [] s))
  ∧ (∀ s : State, blocksRun s.phase = true →
      exec .protectWindowExpiry s = .next { s with store := { s.store with window := false } })
  ∧ ∀ (s : State) (p : Port) (tag : BitVec 4), (s.port p).txn = .onReady → s.store.programming = none →
    (authorised s p .calProtect = true → ∀ (b : Byte) (lowering : Prop),
        (lowering ↔ ∃ r, perRegionGet s.store.mask r = true ∧ b.getLsbD (regionNumber r) = false) →
        (31 < b.toNat → exec (.calProtect p tag [b]) s = .next (answered p .calProtect tag .refusedParam [] s))
        ∧ (b.toNat ≤ 31 → lowering → s.store.window = false ∨ s.store.lowered = true →
          exec (.calProtect p tag [b]) s = .next (answered p .calProtect tag .refusedState [] s))
        ∧ (b.toNat ≤ 31 → ¬ lowering ∨ (s.store.window = true ∧ s.store.lowered = false) → ∃ low : Bool,
          (low = true ↔ lowering ∨ s.store.lowered = true)
            ∧ exec (.calProtect p tag [b]) s = .next (answered p .calProtect tag .ok [b] { s with
                store := { s.store with mask := perRegion fun r => b.getLsbD (regionNumber r), lowered := low } })))
      ∧ (authorised s p .calProgram = true → ∀ (supply : Bool) (u : State), u = { s with supplyOk := supply } →
        (supply = false ∨ presentedSpeed s ≠ some 0
            ∨ (∃ r, stagedChange s.store r = true ∧ perRegionGet s.store.mask r = true) →
          exec (.calProgram p tag [] supply) s = .next (answered p .calProgram tag .refusedState [] u))
        ∧ (supply = true → presentedSpeed s = some 0 →
            (∀ r, stagedChange s.store r = true → perRegionGet s.store.mask r = false) →
          ((∀ r, stagedChange s.store r = false) →
            exec (.calProgram p tag [] supply) s = .next (answered p .calProgram tag .ok [0] u))
          ∧ ((∃ r, stagedChange s.store r = true) → ∃ set : RegionSet,
            (∀ r, perRegionGet set r = stagedChange s.store r)
              ∧ exec (.calProgram p tag [] supply) s = .next (answered p .calProgram tag .ok
                  [BitVec.ofNat 8 (regionBits set)] { u with store := { s.store with programming := some set } }))))

/-- R180, R179, R167: a programming period ends: by its 40 ms, with the regions that do not read back, or by a fall of
SUPPLY_OK, which fails every region being programmed. A region that verifies holds the staged bytes with a checksum that
checks; a failed one fails its checksum; CAL_PROGRAM_FAIL is reported with the cause and the failed regions; the CAL
notice of Port V is set. The bytes and the checksum that a failed region holds are free (log 7, log 8). Outside a period
the end is no event (log 3), and a fall lowers the line alone. -/
def Obligations.ProgrammingPeriodEnds : Prop :=
  ∀ (s : State) (bad : RegionSet), blocksRun s.phase = true →
    (s.store.programming = none → exec (.programmingPeriodEnd bad) s = .next s
        ∧ exec .supplyFail s = .next { s with supplyOk := false })
      ∧ ∀ (done failed : RegionSet) (c : Instr) (cause : Nat), s.store.programming = some done →
        (c = .programmingPeriodEnd bad ∧ cause = 1 ∧ ∀ r, perRegionGet failed r = (perRegionGet bad r && perRegionGet done r))
            ∨ (c = .supplyFail ∧ cause = 2 ∧ failed = done) →
          ∃ t, exec c s = .next t ∧ t.store.programming = none
            ∧ t.supplyOk = (if cause = 2 then false else s.supplyOk)
            ∧ (∀ r, (perRegionGet failed r = true → checksumOk (perRegionGet t.store.stored r) = false
                  ∧ (perRegionGet t.store.stored r).items.length = regionLength r)
                ∧ (perRegionGet failed r = false → perRegionGet done r = true →
                    (perRegionGet t.store.stored r).items = perRegionGet s.store.staging r
                      ∧ checksumOk (perRegionGet t.store.stored r) = true ∧ stagedChange t.store r = false)
                ∧ (perRegionGet failed r = false → perRegionGet done r = false →
                    perRegionGet t.store.stored r = perRegionGet s.store.stored r))
            ∧ { t.store with stored := s.store.stored, programming := s.store.programming } = s.store
            ∧ t.portV.notices = { s.portV.notices with cal := true } ∧ t.portC = s.portC
            ∧ ((∀ r, perRegionGet failed r = false) → t.table = s.table)
            ∧ ((∃ r, perRegionGet failed r = true) → ∃ x, findRecord t.table .calProgramFail .common = some x
                ∧ x.detail = BitVec.ofNat 16 (256 * cause + regionBits failed) ∧ x.lastRaise = s.time)
            ∧ t.vehicle = s.vehicle ∧ t.time = s.time ∧ t.pending = s.pending
            ∧ ∀ x, { t.side x with recorder := (s.side x).recorder } = s.side x

/-- R1, R174, R181: what is discarded. A packet of another kind leaves everything as it is, and so do all events of the
links, the timers and the frame operations while a reset holds the blocks, from RESET_N low, or a RESTART taken, to step
5 of the load. The load itself comes at a reset alone (log 3). -/
def Obligations.EventsDiscarded : Prop :=
  ∀ (s : State) (sd : Side),
    (∀ kind, exec (.discardedPacket sd kind) s = .next s)
      ∧ (s.phase = .running → exec .load s = .next s)
      ∧ (blocksRun s.phase = false → ∀ c : Instr,
          (c ∈ [Instr.cameraLockAcquired sd, .cameraLockLost sd, .commandTransmissionComplete sd, .testFrameEnd sd,
              .frameCompletion sd, .droppedFrameCompletion sd, .outputFrameStart sd, .backChannelLockAcquired sd,
              .backChannelLockLost sd, .negotiationTimerExpiry sd, .failedTimerExpiry sd, .upDeadlineExpiry sd,
              .vehicleStateExpiry, .crossTrigger sd, .protectWindowExpiry]
            ∨ (∃ h, c = .frameStart sd h) ∨ (∃ i px crc, c = .line sd i px crc) ∨ (∃ n, c = .frameEnd sd n)
            ∨ (∃ w, c = .monitorAbilityWord sd w) ∨ (∃ a b x y z, c = .frameReturn sd a b x y z)
            ∨ ∃ f, c = .programmingPeriodEnd f) →
          exec c s = .next s)

/-! ### Invariants -/

/-- R112 to R117, R122, R125, R77, R78, R80: from every state that has them, every step keeps the soundness of the fault
table (one record per key, a side its code allows, 1 to 255 onsets, no event record ACTIVE, no PASSIVE record marked by
its whole audience), of the views (VALID high only on a side without an ACTIVE VIEW_LOSS record), and of the tests (TEST
exactly while the flag is set). -/
def Obligations.TableAndViewsStaySound : Prop :=
  ∀ s t : State, TableSound s.table → (∀ sd, ViewSound s sd ∧ TestSound s sd) → step s = .next t →
    TableSound t.table ∧ ∀ sd, ViewSound t sd ∧ TestSound t sd

/-- R133 to R138, R145 to R148, R151: every step keeps both recorders sound, where the working copy gives parameters in
range: the queue names exactly the frozen buffers in ring order, frozen plus active buffers fit the ring, a capture record
exists exactly in POST, counts and cursors lie within their buffer, and pending triggers are of the bypass class alone. -/
def Obligations.RecordersStaySound : Prop :=
  ∀ s t : State, CaptureSound s.cal.capture.size s.cal.capture.npre → (∀ sd, RecorderSound (s.side sd).recorder) →
    step s = .next t → CaptureSound t.cal.capture.size t.cal.capture.npre ∧ ∀ sd, RecorderSound (t.side sd).recorder

/-- R1 to R7, R12, R13, R16, R51, R69, R72, R85 to R95: every step keeps, on each side, the camera link's record and
counts within their bounds, the glare map at unity gain in DAY, the far window on the sensor, and the negotiation state in
accord with its lock, timers, mode and list. -/
def Obligations.SideBlocksStaySound : Prop :=
  ∀ s t : State, (∀ sd, ClrSound (s.side sd).clr ∧ DaySound (s.side sd) ∧ WindowSound (s.side sd).view
      ∧ DltSound (s.side sd).dlt) → step s = .next t →
    ∀ sd, ClrSound (t.side sd).clr ∧ DaySound (t.side sd) ∧ WindowSound (t.side sd).view ∧ DltSound (t.side sd).dlt

/-- R103, R173, R177, R179, R180: every step keeps the age at most STATE_HOLD, both calibration images at the length of
their regions, and SUPPLY_OK high while a programming period runs. -/
def Obligations.StoreAndAgeStaySound : Prop :=
  ∀ s t : State, AgeSound s → ImagesSound s.store → SupplySound s → step s = .next t →
    AgeSound t ∧ ImagesSound t.store ∧ SupplySound t

/-- The state after reset has every invariant above, with both VALID lines and both ATTN lines low, and no record in the
table (R80, R111, R129, R158, R169). Its stored image and pin levels are the model's choice (log 1, log 13), and its
queue is the model's own (log 2). -/
def Obligations.ResetIsSound : Prop :=
  TableSound State.reset.table ∧ (∀ sd, ViewSound State.reset sd ∧ TestSound State.reset sd)
    ∧ CaptureSound State.reset.cal.capture.size State.reset.cal.capture.npre
    ∧ (∀ sd, RecorderSound (State.reset.side sd).recorder ∧ ClrSound (State.reset.side sd).clr
        ∧ DaySound (State.reset.side sd) ∧ WindowSound (State.reset.side sd).view ∧ DltSound (State.reset.side sd).dlt)
    ∧ AgeSound State.reset ∧ ImagesSound State.reset.store ∧ SupplySound State.reset
    ∧ (∀ sd, validLine State.reset sd = false) ∧ (∀ p, attnLine State.reset p = false)
    ∧ State.reset.time = { epoch := 0, ms := 0 } ∧ State.reset.pending = []
end

