-- ==== Sys2Proof/Laws/State.lean ====
section
/-! SUPPORT. What each update of State leaves and changes: one lemma per field per update. -/

namespace Sys2Proof.Machine

/-! ### Sides -/

@[simp] theorem otherSide_otherSide (sd : Side) : otherSide (otherSide sd) = sd := by cases sd <;> rfl
@[simp] theorem otherSide_ne (sd : Side) : otherSide sd ≠ sd := by cases sd <;> decide
@[simp] theorem ne_otherSide (sd : Side) : sd ≠ otherSide sd := by cases sd <;> decide
theorem side_eq_or_other (sd x : Side) : x = sd ∨ x = otherSide sd := by cases sd <;> cases x <;> decide
@[simp] theorem side_left (s : State) : s.side .left = s.left := rfl
@[simp] theorem side_right (s : State) : s.side .right = s.right := rfl
@[simp] theorem port_v (s : State) : s.port .v = s.portV := rfl
@[simp] theorem port_c (s : State) : s.port .c = s.portC := rfl

@[simp] theorem withSide_side (s : State) (sd : Side) (x : SideState) : (s.withSide sd x).side sd = x := by
  cases sd <;> rfl
@[simp] theorem withSide_side_other (s : State) (sd : Side) (x : SideState) :
    (s.withSide sd x).side (otherSide sd) = s.side (otherSide sd) := by cases sd <;> rfl
theorem withSide_side_ne (s : State) (sd sd' : Side) (x : SideState) (h : sd' ≠ sd) :
    (s.withSide sd x).side sd' = s.side sd' := by cases sd <;> cases sd' <;> first | rfl | exact absurd rfl h
@[simp] theorem modSide_side (s : State) (sd : Side) (f : SideState → SideState) :
    (s.modSide sd f).side sd = f (s.side sd) := by cases sd <;> rfl
@[simp] theorem modSide_side_other (s : State) (sd : Side) (f : SideState → SideState) :
    (s.modSide sd f).side (otherSide sd) = s.side (otherSide sd) := by cases sd <;> rfl
theorem modSide_side_ne (s : State) (sd sd' : Side) (f : SideState → SideState) (h : sd' ≠ sd) :
    (s.modSide sd f).side sd' = s.side sd' := by cases sd <;> cases sd' <;> first | rfl | exact absurd rfl h

@[simp] theorem withSide_pending (s : State) (sd : Side) (x : SideState) : (s.withSide sd x).pending = s.pending := by cases sd <;> rfl
@[simp] theorem withSide_freeIndex (s : State) (sd : Side) (x : SideState) : (s.withSide sd x).freeIndex = s.freeIndex := by cases sd <;> rfl
@[simp] theorem withSide_phase (s : State) (sd : Side) (x : SideState) : (s.withSide sd x).phase = s.phase := by cases sd <;> rfl
@[simp] theorem withSide_pauses (s : State) (sd : Side) (x : SideState) : (s.withSide sd x).pauses = s.pauses := by cases sd <;> rfl
@[simp] theorem withSide_supplyOk (s : State) (sd : Side) (x : SideState) : (s.withSide sd x).supplyOk = s.supplyOk := by cases sd <;> rfl
@[simp] theorem withSide_eventIn (s : State) (sd : Side) (x : SideState) : (s.withSide sd x).eventIn = s.eventIn := by cases sd <;> rfl
@[simp] theorem withSide_time (s : State) (sd : Side) (x : SideState) : (s.withSide sd x).time = s.time := by cases sd <;> rfl
@[simp] theorem withSide_table (s : State) (sd : Side) (x : SideState) : (s.withSide sd x).table = s.table := by cases sd <;> rfl
@[simp] theorem withSide_activePattern (s : State) (sd : Side) (x : SideState) : (s.withSide sd x).activePattern = s.activePattern := by cases sd <;> rfl
@[simp] theorem withSide_vehicle (s : State) (sd : Side) (x : SideState) : (s.withSide sd x).vehicle = s.vehicle := by cases sd <;> rfl
@[simp] theorem withSide_store (s : State) (sd : Side) (x : SideState) : (s.withSide sd x).store = s.store := by cases sd <;> rfl
@[simp] theorem withSide_cal (s : State) (sd : Side) (x : SideState) : (s.withSide sd x).cal = s.cal := by cases sd <;> rfl
@[simp] theorem withSide_port (s : State) (sd : Side) (x : SideState) (p : Port) :
    (s.withSide sd x).port p = s.port p := by cases sd <;> cases p <;> rfl
@[simp] theorem modSide_pending (s : State) (sd : Side) (f : SideState → SideState) :
    (s.modSide sd f).pending = s.pending := by cases sd <;> rfl
@[simp] theorem modSide_freeIndex (s : State) (sd : Side) (f : SideState → SideState) :
    (s.modSide sd f).freeIndex = s.freeIndex := by cases sd <;> rfl
@[simp] theorem modSide_phase (s : State) (sd : Side) (f : SideState → SideState) :
    (s.modSide sd f).phase = s.phase := by cases sd <;> rfl
@[simp] theorem modSide_pauses (s : State) (sd : Side) (f : SideState → SideState) :
    (s.modSide sd f).pauses = s.pauses := by cases sd <;> rfl
@[simp] theorem modSide_supplyOk (s : State) (sd : Side) (f : SideState → SideState) :
    (s.modSide sd f).supplyOk = s.supplyOk := by cases sd <;> rfl
@[simp] theorem modSide_eventIn (s : State) (sd : Side) (f : SideState → SideState) :
    (s.modSide sd f).eventIn = s.eventIn := by cases sd <;> rfl
@[simp] theorem modSide_time (s : State) (sd : Side) (f : SideState → SideState) :
    (s.modSide sd f).time = s.time := by cases sd <;> rfl
@[simp] theorem modSide_table (s : State) (sd : Side) (f : SideState → SideState) :
    (s.modSide sd f).table = s.table := by cases sd <;> rfl
@[simp] theorem modSide_activePattern (s : State) (sd : Side) (f : SideState → SideState) :
    (s.modSide sd f).activePattern = s.activePattern := by cases sd <;> rfl
@[simp] theorem modSide_vehicle (s : State) (sd : Side) (f : SideState → SideState) :
    (s.modSide sd f).vehicle = s.vehicle := by cases sd <;> rfl
@[simp] theorem modSide_store (s : State) (sd : Side) (f : SideState → SideState) :
    (s.modSide sd f).store = s.store := by cases sd <;> rfl
@[simp] theorem modSide_cal (s : State) (sd : Side) (f : SideState → SideState) :
    (s.modSide sd f).cal = s.cal := by cases sd <;> rfl
@[simp] theorem modSide_port (s : State) (sd : Side) (f : SideState → SideState) (p : Port) :
    (s.modSide sd f).port p = s.port p := by cases sd <;> cases p <;> rfl

/-! ### modClr -/

@[simp] theorem modClr_pending (s : State) (sd : Side) (f : Clr → Clr) :
    (s.modClr sd f).pending = s.pending := by cases sd <;> rfl
@[simp] theorem modClr_freeIndex (s : State) (sd : Side) (f : Clr → Clr) :
    (s.modClr sd f).freeIndex = s.freeIndex := by cases sd <;> rfl
@[simp] theorem modClr_phase (s : State) (sd : Side) (f : Clr → Clr) :
    (s.modClr sd f).phase = s.phase := by cases sd <;> rfl
@[simp] theorem modClr_pauses (s : State) (sd : Side) (f : Clr → Clr) :
    (s.modClr sd f).pauses = s.pauses := by cases sd <;> rfl
@[simp] theorem modClr_supplyOk (s : State) (sd : Side) (f : Clr → Clr) :
    (s.modClr sd f).supplyOk = s.supplyOk := by cases sd <;> rfl
@[simp] theorem modClr_eventIn (s : State) (sd : Side) (f : Clr → Clr) :
    (s.modClr sd f).eventIn = s.eventIn := by cases sd <;> rfl
@[simp] theorem modClr_time (s : State) (sd : Side) (f : Clr → Clr) :
    (s.modClr sd f).time = s.time := by cases sd <;> rfl
@[simp] theorem modClr_table (s : State) (sd : Side) (f : Clr → Clr) :
    (s.modClr sd f).table = s.table := by cases sd <;> rfl
@[simp] theorem modClr_activePattern (s : State) (sd : Side) (f : Clr → Clr) :
    (s.modClr sd f).activePattern = s.activePattern := by cases sd <;> rfl
@[simp] theorem modClr_vehicle (s : State) (sd : Side) (f : Clr → Clr) :
    (s.modClr sd f).vehicle = s.vehicle := by cases sd <;> rfl
@[simp] theorem modClr_store (s : State) (sd : Side) (f : Clr → Clr) :
    (s.modClr sd f).store = s.store := by cases sd <;> rfl
@[simp] theorem modClr_cal (s : State) (sd : Side) (f : Clr → Clr) :
    (s.modClr sd f).cal = s.cal := by cases sd <;> rfl
@[simp] theorem modClr_port (s : State) (sd : Side) (f : Clr → Clr) (p : Port) :
    (s.modClr sd f).port p = s.port p := by cases sd <;> cases p <;> rfl
@[simp] theorem modClr_side_other (s : State) (sd : Side) (f : Clr → Clr) :
    (s.modClr sd f).side (otherSide sd) = s.side (otherSide sd) := by cases sd <;> rfl
theorem modClr_side_ne (s : State) (sd sd' : Side) (f : Clr → Clr) (h : sd' ≠ sd) :
    (s.modClr sd f).side sd' = s.side sd' := by cases sd <;> cases sd' <;> first | rfl | exact absurd rfl h
@[simp] theorem modClr_side_clr (s : State) (sd : Side) (f : Clr → Clr) :
    ((s.modClr sd f).side sd).clr = f (s.side sd).clr := by cases sd <;> rfl
@[simp] theorem modClr_side_testFlag (s : State) (sd sd' : Side) (f : Clr → Clr) :
    ((s.modClr sd f).side sd').testFlag = (s.side sd').testFlag := by cases sd <;> cases sd' <;> rfl
@[simp] theorem modClr_side_testNumber (s : State) (sd sd' : Side) (f : Clr → Clr) :
    ((s.modClr sd f).side sd').testNumber = (s.side sd').testNumber := by cases sd <;> cases sd' <;> rfl
@[simp] theorem modClr_side_inputs (s : State) (sd sd' : Side) (f : Clr → Clr) :
    ((s.modClr sd f).side sd').inputs = (s.side sd').inputs := by cases sd <;> cases sd' <;> rfl
@[simp] theorem modClr_side_running (s : State) (sd sd' : Side) (f : Clr → Clr) :
    ((s.modClr sd f).side sd').running = (s.side sd').running := by cases sd <;> cases sd' <;> rfl
@[simp] theorem modClr_side_stats (s : State) (sd sd' : Side) (f : Clr → Clr) :
    ((s.modClr sd f).side sd').stats = (s.side sd').stats := by cases sd <;> cases sd' <;> rfl
@[simp] theorem modClr_side_expo (s : State) (sd sd' : Side) (f : Clr → Clr) :
    ((s.modClr sd f).side sd').expo = (s.side sd').expo := by cases sd <;> cases sd' <;> rfl
@[simp] theorem modClr_side_glare (s : State) (sd sd' : Side) (f : Clr → Clr) :
    ((s.modClr sd f).side sd').glare = (s.side sd').glare := by cases sd <;> cases sd' <;> rfl
@[simp] theorem modClr_side_view (s : State) (sd sd' : Side) (f : Clr → Clr) :
    ((s.modClr sd f).side sd').view = (s.side sd').view := by cases sd <;> cases sd' <;> rfl
@[simp] theorem modClr_side_dlt (s : State) (sd sd' : Side) (f : Clr → Clr) :
    ((s.modClr sd f).side sd').dlt = (s.side sd').dlt := by cases sd <;> cases sd' <;> rfl
@[simp] theorem modClr_side_recorder (s : State) (sd sd' : Side) (f : Clr → Clr) :
    ((s.modClr sd f).side sd').recorder = (s.side sd').recorder := by cases sd <;> cases sd' <;> rfl

/-! ### modStats -/

@[simp] theorem modStats_pending (s : State) (sd : Side) (f : Stats → Stats) :
    (s.modStats sd f).pending = s.pending := by cases sd <;> rfl
@[simp] theorem modStats_freeIndex (s : State) (sd : Side) (f : Stats → Stats) :
    (s.modStats sd f).freeIndex = s.freeIndex := by cases sd <;> rfl
@[simp] theorem modStats_phase (s : State) (sd : Side) (f : Stats → Stats) :
    (s.modStats sd f).phase = s.phase := by cases sd <;> rfl
@[simp] theorem modStats_pauses (s : State) (sd : Side) (f : Stats → Stats) :
    (s.modStats sd f).pauses = s.pauses := by cases sd <;> rfl
@[simp] theorem modStats_supplyOk (s : State) (sd : Side) (f : Stats → Stats) :
    (s.modStats sd f).supplyOk = s.supplyOk := by cases sd <;> rfl
@[simp] theorem modStats_eventIn (s : State) (sd : Side) (f : Stats → Stats) :
    (s.modStats sd f).eventIn = s.eventIn := by cases sd <;> rfl
@[simp] theorem modStats_time (s : State) (sd : Side) (f : Stats → Stats) :
    (s.modStats sd f).time = s.time := by cases sd <;> rfl
@[simp] theorem modStats_table (s : State) (sd : Side) (f : Stats → Stats) :
    (s.modStats sd f).table = s.table := by cases sd <;> rfl
@[simp] theorem modStats_activePattern (s : State) (sd : Side) (f : Stats → Stats) :
    (s.modStats sd f).activePattern = s.activePattern := by cases sd <;> rfl
@[simp] theorem modStats_vehicle (s : State) (sd : Side) (f : Stats → Stats) :
    (s.modStats sd f).vehicle = s.vehicle := by cases sd <;> rfl
@[simp] theorem modStats_store (s : State) (sd : Side) (f : Stats → Stats) :
    (s.modStats sd f).store = s.store := by cases sd <;> rfl
@[simp] theorem modStats_cal (s : State) (sd : Side) (f : Stats → Stats) :
    (s.modStats sd f).cal = s.cal := by cases sd <;> rfl
@[simp] theorem modStats_port (s : State) (sd : Side) (f : Stats → Stats) (p : Port) :
    (s.modStats sd f).port p = s.port p := by cases sd <;> cases p <;> rfl
@[simp] theorem modStats_side_other (s : State) (sd : Side) (f : Stats → Stats) :
    (s.modStats sd f).side (otherSide sd) = s.side (otherSide sd) := by cases sd <;> rfl
theorem modStats_side_ne (s : State) (sd sd' : Side) (f : Stats → Stats) (h : sd' ≠ sd) :
    (s.modStats sd f).side sd' = s.side sd' := by cases sd <;> cases sd' <;> first | rfl | exact absurd rfl h
@[simp] theorem modStats_side_stats (s : State) (sd : Side) (f : Stats → Stats) :
    ((s.modStats sd f).side sd).stats = f (s.side sd).stats := by cases sd <;> rfl
@[simp] theorem modStats_side_clr (s : State) (sd sd' : Side) (f : Stats → Stats) :
    ((s.modStats sd f).side sd').clr = (s.side sd').clr := by cases sd <;> cases sd' <;> rfl
@[simp] theorem modStats_side_testFlag (s : State) (sd sd' : Side) (f : Stats → Stats) :
    ((s.modStats sd f).side sd').testFlag = (s.side sd').testFlag := by cases sd <;> cases sd' <;> rfl
@[simp] theorem modStats_side_testNumber (s : State) (sd sd' : Side) (f : Stats → Stats) :
    ((s.modStats sd f).side sd').testNumber = (s.side sd').testNumber := by cases sd <;> cases sd' <;> rfl
@[simp] theorem modStats_side_inputs (s : State) (sd sd' : Side) (f : Stats → Stats) :
    ((s.modStats sd f).side sd').inputs = (s.side sd').inputs := by cases sd <;> cases sd' <;> rfl
@[simp] theorem modStats_side_running (s : State) (sd sd' : Side) (f : Stats → Stats) :
    ((s.modStats sd f).side sd').running = (s.side sd').running := by cases sd <;> cases sd' <;> rfl
@[simp] theorem modStats_side_expo (s : State) (sd sd' : Side) (f : Stats → Stats) :
    ((s.modStats sd f).side sd').expo = (s.side sd').expo := by cases sd <;> cases sd' <;> rfl
@[simp] theorem modStats_side_glare (s : State) (sd sd' : Side) (f : Stats → Stats) :
    ((s.modStats sd f).side sd').glare = (s.side sd').glare := by cases sd <;> cases sd' <;> rfl
@[simp] theorem modStats_side_view (s : State) (sd sd' : Side) (f : Stats → Stats) :
    ((s.modStats sd f).side sd').view = (s.side sd').view := by cases sd <;> cases sd' <;> rfl
@[simp] theorem modStats_side_dlt (s : State) (sd sd' : Side) (f : Stats → Stats) :
    ((s.modStats sd f).side sd').dlt = (s.side sd').dlt := by cases sd <;> cases sd' <;> rfl
@[simp] theorem modStats_side_recorder (s : State) (sd sd' : Side) (f : Stats → Stats) :
    ((s.modStats sd f).side sd').recorder = (s.side sd').recorder := by cases sd <;> cases sd' <;> rfl

/-! ### modExpo -/

@[simp] theorem modExpo_pending (s : State) (sd : Side) (f : Exposure → Exposure) :
    (s.modExpo sd f).pending = s.pending := by cases sd <;> rfl
@[simp] theorem modExpo_freeIndex (s : State) (sd : Side) (f : Exposure → Exposure) :
    (s.modExpo sd f).freeIndex = s.freeIndex := by cases sd <;> rfl
@[simp] theorem modExpo_phase (s : State) (sd : Side) (f : Exposure → Exposure) :
    (s.modExpo sd f).phase = s.phase := by cases sd <;> rfl
@[simp] theorem modExpo_pauses (s : State) (sd : Side) (f : Exposure → Exposure) :
    (s.modExpo sd f).pauses = s.pauses := by cases sd <;> rfl
@[simp] theorem modExpo_supplyOk (s : State) (sd : Side) (f : Exposure → Exposure) :
    (s.modExpo sd f).supplyOk = s.supplyOk := by cases sd <;> rfl
@[simp] theorem modExpo_eventIn (s : State) (sd : Side) (f : Exposure → Exposure) :
    (s.modExpo sd f).eventIn = s.eventIn := by cases sd <;> rfl
@[simp] theorem modExpo_time (s : State) (sd : Side) (f : Exposure → Exposure) :
    (s.modExpo sd f).time = s.time := by cases sd <;> rfl
@[simp] theorem modExpo_table (s : State) (sd : Side) (f : Exposure → Exposure) :
    (s.modExpo sd f).table = s.table := by cases sd <;> rfl
@[simp] theorem modExpo_activePattern (s : State) (sd : Side) (f : Exposure → Exposure) :
    (s.modExpo sd f).activePattern = s.activePattern := by cases sd <;> rfl
@[simp] theorem modExpo_vehicle (s : State) (sd : Side) (f : Exposure → Exposure) :
    (s.modExpo sd f).vehicle = s.vehicle := by cases sd <;> rfl
@[simp] theorem modExpo_store (s : State) (sd : Side) (f : Exposure → Exposure) :
    (s.modExpo sd f).store = s.store := by cases sd <;> rfl
@[simp] theorem modExpo_cal (s : State) (sd : Side) (f : Exposure → Exposure) :
    (s.modExpo sd f).cal = s.cal := by cases sd <;> rfl
@[simp] theorem modExpo_port (s : State) (sd : Side) (f : Exposure → Exposure) (p : Port) :
    (s.modExpo sd f).port p = s.port p := by cases sd <;> cases p <;> rfl
@[simp] theorem modExpo_side_other (s : State) (sd : Side) (f : Exposure → Exposure) :
    (s.modExpo sd f).side (otherSide sd) = s.side (otherSide sd) := by cases sd <;> rfl
theorem modExpo_side_ne (s : State) (sd sd' : Side) (f : Exposure → Exposure) (h : sd' ≠ sd) :
    (s.modExpo sd f).side sd' = s.side sd' := by cases sd <;> cases sd' <;> first | rfl | exact absurd rfl h
@[simp] theorem modExpo_side_expo (s : State) (sd : Side) (f : Exposure → Exposure) :
    ((s.modExpo sd f).side sd).expo = f (s.side sd).expo := by cases sd <;> rfl
@[simp] theorem modExpo_side_clr (s : State) (sd sd' : Side) (f : Exposure → Exposure) :
    ((s.modExpo sd f).side sd').clr = (s.side sd').clr := by cases sd <;> cases sd' <;> rfl
@[simp] theorem modExpo_side_testFlag (s : State) (sd sd' : Side) (f : Exposure → Exposure) :
    ((s.modExpo sd f).side sd').testFlag = (s.side sd').testFlag := by cases sd <;> cases sd' <;> rfl
@[simp] theorem modExpo_side_testNumber (s : State) (sd sd' : Side) (f : Exposure → Exposure) :
    ((s.modExpo sd f).side sd').testNumber = (s.side sd').testNumber := by cases sd <;> cases sd' <;> rfl
@[simp] theorem modExpo_side_inputs (s : State) (sd sd' : Side) (f : Exposure → Exposure) :
    ((s.modExpo sd f).side sd').inputs = (s.side sd').inputs := by cases sd <;> cases sd' <;> rfl
@[simp] theorem modExpo_side_running (s : State) (sd sd' : Side) (f : Exposure → Exposure) :
    ((s.modExpo sd f).side sd').running = (s.side sd').running := by cases sd <;> cases sd' <;> rfl
@[simp] theorem modExpo_side_stats (s : State) (sd sd' : Side) (f : Exposure → Exposure) :
    ((s.modExpo sd f).side sd').stats = (s.side sd').stats := by cases sd <;> cases sd' <;> rfl
@[simp] theorem modExpo_side_glare (s : State) (sd sd' : Side) (f : Exposure → Exposure) :
    ((s.modExpo sd f).side sd').glare = (s.side sd').glare := by cases sd <;> cases sd' <;> rfl
@[simp] theorem modExpo_side_view (s : State) (sd sd' : Side) (f : Exposure → Exposure) :
    ((s.modExpo sd f).side sd').view = (s.side sd').view := by cases sd <;> cases sd' <;> rfl
@[simp] theorem modExpo_side_dlt (s : State) (sd sd' : Side) (f : Exposure → Exposure) :
    ((s.modExpo sd f).side sd').dlt = (s.side sd').dlt := by cases sd <;> cases sd' <;> rfl
@[simp] theorem modExpo_side_recorder (s : State) (sd sd' : Side) (f : Exposure → Exposure) :
    ((s.modExpo sd f).side sd').recorder = (s.side sd').recorder := by cases sd <;> cases sd' <;> rfl

/-! ### modGlare -/

@[simp] theorem modGlare_pending (s : State) (sd : Side) (f : GlareMap → GlareMap) :
    (s.modGlare sd f).pending = s.pending := by cases sd <;> rfl
@[simp] theorem modGlare_freeIndex (s : State) (sd : Side) (f : GlareMap → GlareMap) :
    (s.modGlare sd f).freeIndex = s.freeIndex := by cases sd <;> rfl
@[simp] theorem modGlare_phase (s : State) (sd : Side) (f : GlareMap → GlareMap) :
    (s.modGlare sd f).phase = s.phase := by cases sd <;> rfl
@[simp] theorem modGlare_pauses (s : State) (sd : Side) (f : GlareMap → GlareMap) :
    (s.modGlare sd f).pauses = s.pauses := by cases sd <;> rfl
@[simp] theorem modGlare_supplyOk (s : State) (sd : Side) (f : GlareMap → GlareMap) :
    (s.modGlare sd f).supplyOk = s.supplyOk := by cases sd <;> rfl
@[simp] theorem modGlare_eventIn (s : State) (sd : Side) (f : GlareMap → GlareMap) :
    (s.modGlare sd f).eventIn = s.eventIn := by cases sd <;> rfl
@[simp] theorem modGlare_time (s : State) (sd : Side) (f : GlareMap → GlareMap) :
    (s.modGlare sd f).time = s.time := by cases sd <;> rfl
@[simp] theorem modGlare_table (s : State) (sd : Side) (f : GlareMap → GlareMap) :
    (s.modGlare sd f).table = s.table := by cases sd <;> rfl
@[simp] theorem modGlare_activePattern (s : State) (sd : Side) (f : GlareMap → GlareMap) :
    (s.modGlare sd f).activePattern = s.activePattern := by cases sd <;> rfl
@[simp] theorem modGlare_vehicle (s : State) (sd : Side) (f : GlareMap → GlareMap) :
    (s.modGlare sd f).vehicle = s.vehicle := by cases sd <;> rfl
@[simp] theorem modGlare_store (s : State) (sd : Side) (f : GlareMap → GlareMap) :
    (s.modGlare sd f).store = s.store := by cases sd <;> rfl
@[simp] theorem modGlare_cal (s : State) (sd : Side) (f : GlareMap → GlareMap) :
    (s.modGlare sd f).cal = s.cal := by cases sd <;> rfl
@[simp] theorem modGlare_port (s : State) (sd : Side) (f : GlareMap → GlareMap) (p : Port) :
    (s.modGlare sd f).port p = s.port p := by cases sd <;> cases p <;> rfl
@[simp] theorem modGlare_side_other (s : State) (sd : Side) (f : GlareMap → GlareMap) :
    (s.modGlare sd f).side (otherSide sd) = s.side (otherSide sd) := by cases sd <;> rfl
theorem modGlare_side_ne (s : State) (sd sd' : Side) (f : GlareMap → GlareMap) (h : sd' ≠ sd) :
    (s.modGlare sd f).side sd' = s.side sd' := by cases sd <;> cases sd' <;> first | rfl | exact absurd rfl h
@[simp] theorem modGlare_side_glare (s : State) (sd : Side) (f : GlareMap → GlareMap) :
    ((s.modGlare sd f).side sd).glare = f (s.side sd).glare := by cases sd <;> rfl
@[simp] theorem modGlare_side_clr (s : State) (sd sd' : Side) (f : GlareMap → GlareMap) :
    ((s.modGlare sd f).side sd').clr = (s.side sd').clr := by cases sd <;> cases sd' <;> rfl
@[simp] theorem modGlare_side_testFlag (s : State) (sd sd' : Side) (f : GlareMap → GlareMap) :
    ((s.modGlare sd f).side sd').testFlag = (s.side sd').testFlag := by cases sd <;> cases sd' <;> rfl
@[simp] theorem modGlare_side_testNumber (s : State) (sd sd' : Side) (f : GlareMap → GlareMap) :
    ((s.modGlare sd f).side sd').testNumber = (s.side sd').testNumber := by cases sd <;> cases sd' <;> rfl
@[simp] theorem modGlare_side_inputs (s : State) (sd sd' : Side) (f : GlareMap → GlareMap) :
    ((s.modGlare sd f).side sd').inputs = (s.side sd').inputs := by cases sd <;> cases sd' <;> rfl
@[simp] theorem modGlare_side_running (s : State) (sd sd' : Side) (f : GlareMap → GlareMap) :
    ((s.modGlare sd f).side sd').running = (s.side sd').running := by cases sd <;> cases sd' <;> rfl
@[simp] theorem modGlare_side_stats (s : State) (sd sd' : Side) (f : GlareMap → GlareMap) :
    ((s.modGlare sd f).side sd').stats = (s.side sd').stats := by cases sd <;> cases sd' <;> rfl
@[simp] theorem modGlare_side_expo (s : State) (sd sd' : Side) (f : GlareMap → GlareMap) :
    ((s.modGlare sd f).side sd').expo = (s.side sd').expo := by cases sd <;> cases sd' <;> rfl
@[simp] theorem modGlare_side_view (s : State) (sd sd' : Side) (f : GlareMap → GlareMap) :
    ((s.modGlare sd f).side sd').view = (s.side sd').view := by cases sd <;> cases sd' <;> rfl
@[simp] theorem modGlare_side_dlt (s : State) (sd sd' : Side) (f : GlareMap → GlareMap) :
    ((s.modGlare sd f).side sd').dlt = (s.side sd').dlt := by cases sd <;> cases sd' <;> rfl
@[simp] theorem modGlare_side_recorder (s : State) (sd sd' : Side) (f : GlareMap → GlareMap) :
    ((s.modGlare sd f).side sd').recorder = (s.side sd').recorder := by cases sd <;> cases sd' <;> rfl

/-! ### modView -/

@[simp] theorem modView_pending (s : State) (sd : Side) (f : Composer → Composer) :
    (s.modView sd f).pending = s.pending := by cases sd <;> rfl
@[simp] theorem modView_freeIndex (s : State) (sd : Side) (f : Composer → Composer) :
    (s.modView sd f).freeIndex = s.freeIndex := by cases sd <;> rfl
@[simp] theorem modView_phase (s : State) (sd : Side) (f : Composer → Composer) :
    (s.modView sd f).phase = s.phase := by cases sd <;> rfl
@[simp] theorem modView_pauses (s : State) (sd : Side) (f : Composer → Composer) :
    (s.modView sd f).pauses = s.pauses := by cases sd <;> rfl
@[simp] theorem modView_supplyOk (s : State) (sd : Side) (f : Composer → Composer) :
    (s.modView sd f).supplyOk = s.supplyOk := by cases sd <;> rfl
@[simp] theorem modView_eventIn (s : State) (sd : Side) (f : Composer → Composer) :
    (s.modView sd f).eventIn = s.eventIn := by cases sd <;> rfl
@[simp] theorem modView_time (s : State) (sd : Side) (f : Composer → Composer) :
    (s.modView sd f).time = s.time := by cases sd <;> rfl
@[simp] theorem modView_table (s : State) (sd : Side) (f : Composer → Composer) :
    (s.modView sd f).table = s.table := by cases sd <;> rfl
@[simp] theorem modView_activePattern (s : State) (sd : Side) (f : Composer → Composer) :
    (s.modView sd f).activePattern = s.activePattern := by cases sd <;> rfl
@[simp] theorem modView_vehicle (s : State) (sd : Side) (f : Composer → Composer) :
    (s.modView sd f).vehicle = s.vehicle := by cases sd <;> rfl
@[simp] theorem modView_store (s : State) (sd : Side) (f : Composer → Composer) :
    (s.modView sd f).store = s.store := by cases sd <;> rfl
@[simp] theorem modView_cal (s : State) (sd : Side) (f : Composer → Composer) :
    (s.modView sd f).cal = s.cal := by cases sd <;> rfl
@[simp] theorem modView_port (s : State) (sd : Side) (f : Composer → Composer) (p : Port) :
    (s.modView sd f).port p = s.port p := by cases sd <;> cases p <;> rfl
@[simp] theorem modView_side_other (s : State) (sd : Side) (f : Composer → Composer) :
    (s.modView sd f).side (otherSide sd) = s.side (otherSide sd) := by cases sd <;> rfl
theorem modView_side_ne (s : State) (sd sd' : Side) (f : Composer → Composer) (h : sd' ≠ sd) :
    (s.modView sd f).side sd' = s.side sd' := by cases sd <;> cases sd' <;> first | rfl | exact absurd rfl h
@[simp] theorem modView_side_view (s : State) (sd : Side) (f : Composer → Composer) :
    ((s.modView sd f).side sd).view = f (s.side sd).view := by cases sd <;> rfl
@[simp] theorem modView_side_clr (s : State) (sd sd' : Side) (f : Composer → Composer) :
    ((s.modView sd f).side sd').clr = (s.side sd').clr := by cases sd <;> cases sd' <;> rfl
@[simp] theorem modView_side_testFlag (s : State) (sd sd' : Side) (f : Composer → Composer) :
    ((s.modView sd f).side sd').testFlag = (s.side sd').testFlag := by cases sd <;> cases sd' <;> rfl
@[simp] theorem modView_side_testNumber (s : State) (sd sd' : Side) (f : Composer → Composer) :
    ((s.modView sd f).side sd').testNumber = (s.side sd').testNumber := by cases sd <;> cases sd' <;> rfl
@[simp] theorem modView_side_inputs (s : State) (sd sd' : Side) (f : Composer → Composer) :
    ((s.modView sd f).side sd').inputs = (s.side sd').inputs := by cases sd <;> cases sd' <;> rfl
@[simp] theorem modView_side_running (s : State) (sd sd' : Side) (f : Composer → Composer) :
    ((s.modView sd f).side sd').running = (s.side sd').running := by cases sd <;> cases sd' <;> rfl
@[simp] theorem modView_side_stats (s : State) (sd sd' : Side) (f : Composer → Composer) :
    ((s.modView sd f).side sd').stats = (s.side sd').stats := by cases sd <;> cases sd' <;> rfl
@[simp] theorem modView_side_expo (s : State) (sd sd' : Side) (f : Composer → Composer) :
    ((s.modView sd f).side sd').expo = (s.side sd').expo := by cases sd <;> cases sd' <;> rfl
@[simp] theorem modView_side_glare (s : State) (sd sd' : Side) (f : Composer → Composer) :
    ((s.modView sd f).side sd').glare = (s.side sd').glare := by cases sd <;> cases sd' <;> rfl
@[simp] theorem modView_side_dlt (s : State) (sd sd' : Side) (f : Composer → Composer) :
    ((s.modView sd f).side sd').dlt = (s.side sd').dlt := by cases sd <;> cases sd' <;> rfl
@[simp] theorem modView_side_recorder (s : State) (sd sd' : Side) (f : Composer → Composer) :
    ((s.modView sd f).side sd').recorder = (s.side sd').recorder := by cases sd <;> cases sd' <;> rfl

/-! ### modDlt -/

@[simp] theorem modDlt_pending (s : State) (sd : Side) (f : Dlt → Dlt) :
    (s.modDlt sd f).pending = s.pending := by cases sd <;> rfl
@[simp] theorem modDlt_freeIndex (s : State) (sd : Side) (f : Dlt → Dlt) :
    (s.modDlt sd f).freeIndex = s.freeIndex := by cases sd <;> rfl
@[simp] theorem modDlt_phase (s : State) (sd : Side) (f : Dlt → Dlt) :
    (s.modDlt sd f).phase = s.phase := by cases sd <;> rfl
@[simp] theorem modDlt_pauses (s : State) (sd : Side) (f : Dlt → Dlt) :
    (s.modDlt sd f).pauses = s.pauses := by cases sd <;> rfl
@[simp] theorem modDlt_supplyOk (s : State) (sd : Side) (f : Dlt → Dlt) :
    (s.modDlt sd f).supplyOk = s.supplyOk := by cases sd <;> rfl
@[simp] theorem modDlt_eventIn (s : State) (sd : Side) (f : Dlt → Dlt) :
    (s.modDlt sd f).eventIn = s.eventIn := by cases sd <;> rfl
@[simp] theorem modDlt_time (s : State) (sd : Side) (f : Dlt → Dlt) :
    (s.modDlt sd f).time = s.time := by cases sd <;> rfl
@[simp] theorem modDlt_table (s : State) (sd : Side) (f : Dlt → Dlt) :
    (s.modDlt sd f).table = s.table := by cases sd <;> rfl
@[simp] theorem modDlt_activePattern (s : State) (sd : Side) (f : Dlt → Dlt) :
    (s.modDlt sd f).activePattern = s.activePattern := by cases sd <;> rfl
@[simp] theorem modDlt_vehicle (s : State) (sd : Side) (f : Dlt → Dlt) :
    (s.modDlt sd f).vehicle = s.vehicle := by cases sd <;> rfl
@[simp] theorem modDlt_store (s : State) (sd : Side) (f : Dlt → Dlt) :
    (s.modDlt sd f).store = s.store := by cases sd <;> rfl
@[simp] theorem modDlt_cal (s : State) (sd : Side) (f : Dlt → Dlt) :
    (s.modDlt sd f).cal = s.cal := by cases sd <;> rfl
@[simp] theorem modDlt_port (s : State) (sd : Side) (f : Dlt → Dlt) (p : Port) :
    (s.modDlt sd f).port p = s.port p := by cases sd <;> cases p <;> rfl
@[simp] theorem modDlt_side_other (s : State) (sd : Side) (f : Dlt → Dlt) :
    (s.modDlt sd f).side (otherSide sd) = s.side (otherSide sd) := by cases sd <;> rfl
theorem modDlt_side_ne (s : State) (sd sd' : Side) (f : Dlt → Dlt) (h : sd' ≠ sd) :
    (s.modDlt sd f).side sd' = s.side sd' := by cases sd <;> cases sd' <;> first | rfl | exact absurd rfl h
@[simp] theorem modDlt_side_dlt (s : State) (sd : Side) (f : Dlt → Dlt) :
    ((s.modDlt sd f).side sd).dlt = f (s.side sd).dlt := by cases sd <;> rfl
@[simp] theorem modDlt_side_clr (s : State) (sd sd' : Side) (f : Dlt → Dlt) :
    ((s.modDlt sd f).side sd').clr = (s.side sd').clr := by cases sd <;> cases sd' <;> rfl
@[simp] theorem modDlt_side_testFlag (s : State) (sd sd' : Side) (f : Dlt → Dlt) :
    ((s.modDlt sd f).side sd').testFlag = (s.side sd').testFlag := by cases sd <;> cases sd' <;> rfl
@[simp] theorem modDlt_side_testNumber (s : State) (sd sd' : Side) (f : Dlt → Dlt) :
    ((s.modDlt sd f).side sd').testNumber = (s.side sd').testNumber := by cases sd <;> cases sd' <;> rfl
@[simp] theorem modDlt_side_inputs (s : State) (sd sd' : Side) (f : Dlt → Dlt) :
    ((s.modDlt sd f).side sd').inputs = (s.side sd').inputs := by cases sd <;> cases sd' <;> rfl
@[simp] theorem modDlt_side_running (s : State) (sd sd' : Side) (f : Dlt → Dlt) :
    ((s.modDlt sd f).side sd').running = (s.side sd').running := by cases sd <;> cases sd' <;> rfl
@[simp] theorem modDlt_side_stats (s : State) (sd sd' : Side) (f : Dlt → Dlt) :
    ((s.modDlt sd f).side sd').stats = (s.side sd').stats := by cases sd <;> cases sd' <;> rfl
@[simp] theorem modDlt_side_expo (s : State) (sd sd' : Side) (f : Dlt → Dlt) :
    ((s.modDlt sd f).side sd').expo = (s.side sd').expo := by cases sd <;> cases sd' <;> rfl
@[simp] theorem modDlt_side_glare (s : State) (sd sd' : Side) (f : Dlt → Dlt) :
    ((s.modDlt sd f).side sd').glare = (s.side sd').glare := by cases sd <;> cases sd' <;> rfl
@[simp] theorem modDlt_side_view (s : State) (sd sd' : Side) (f : Dlt → Dlt) :
    ((s.modDlt sd f).side sd').view = (s.side sd').view := by cases sd <;> cases sd' <;> rfl
@[simp] theorem modDlt_side_recorder (s : State) (sd sd' : Side) (f : Dlt → Dlt) :
    ((s.modDlt sd f).side sd').recorder = (s.side sd').recorder := by cases sd <;> cases sd' <;> rfl

/-! ### modRec -/

@[simp] theorem modRec_pending (s : State) (sd : Side) (f : Recorder → Recorder) :
    (s.modRec sd f).pending = s.pending := by cases sd <;> rfl
@[simp] theorem modRec_freeIndex (s : State) (sd : Side) (f : Recorder → Recorder) :
    (s.modRec sd f).freeIndex = s.freeIndex := by cases sd <;> rfl
@[simp] theorem modRec_phase (s : State) (sd : Side) (f : Recorder → Recorder) :
    (s.modRec sd f).phase = s.phase := by cases sd <;> rfl
@[simp] theorem modRec_pauses (s : State) (sd : Side) (f : Recorder → Recorder) :
    (s.modRec sd f).pauses = s.pauses := by cases sd <;> rfl
@[simp] theorem modRec_supplyOk (s : State) (sd : Side) (f : Recorder → Recorder) :
    (s.modRec sd f).supplyOk = s.supplyOk := by cases sd <;> rfl
@[simp] theorem modRec_eventIn (s : State) (sd : Side) (f : Recorder → Recorder) :
    (s.modRec sd f).eventIn = s.eventIn := by cases sd <;> rfl
@[simp] theorem modRec_time (s : State) (sd : Side) (f : Recorder → Recorder) :
    (s.modRec sd f).time = s.time := by cases sd <;> rfl
@[simp] theorem modRec_table (s : State) (sd : Side) (f : Recorder → Recorder) :
    (s.modRec sd f).table = s.table := by cases sd <;> rfl
@[simp] theorem modRec_activePattern (s : State) (sd : Side) (f : Recorder → Recorder) :
    (s.modRec sd f).activePattern = s.activePattern := by cases sd <;> rfl
@[simp] theorem modRec_vehicle (s : State) (sd : Side) (f : Recorder → Recorder) :
    (s.modRec sd f).vehicle = s.vehicle := by cases sd <;> rfl
@[simp] theorem modRec_store (s : State) (sd : Side) (f : Recorder → Recorder) :
    (s.modRec sd f).store = s.store := by cases sd <;> rfl
@[simp] theorem modRec_cal (s : State) (sd : Side) (f : Recorder → Recorder) :
    (s.modRec sd f).cal = s.cal := by cases sd <;> rfl
@[simp] theorem modRec_port (s : State) (sd : Side) (f : Recorder → Recorder) (p : Port) :
    (s.modRec sd f).port p = s.port p := by cases sd <;> cases p <;> rfl
@[simp] theorem modRec_side_other (s : State) (sd : Side) (f : Recorder → Recorder) :
    (s.modRec sd f).side (otherSide sd) = s.side (otherSide sd) := by cases sd <;> rfl
theorem modRec_side_ne (s : State) (sd sd' : Side) (f : Recorder → Recorder) (h : sd' ≠ sd) :
    (s.modRec sd f).side sd' = s.side sd' := by cases sd <;> cases sd' <;> first | rfl | exact absurd rfl h
@[simp] theorem modRec_side_recorder (s : State) (sd : Side) (f : Recorder → Recorder) :
    ((s.modRec sd f).side sd).recorder = f (s.side sd).recorder := by cases sd <;> rfl
@[simp] theorem modRec_side_clr (s : State) (sd sd' : Side) (f : Recorder → Recorder) :
    ((s.modRec sd f).side sd').clr = (s.side sd').clr := by cases sd <;> cases sd' <;> rfl
@[simp] theorem modRec_side_testFlag (s : State) (sd sd' : Side) (f : Recorder → Recorder) :
    ((s.modRec sd f).side sd').testFlag = (s.side sd').testFlag := by cases sd <;> cases sd' <;> rfl
@[simp] theorem modRec_side_testNumber (s : State) (sd sd' : Side) (f : Recorder → Recorder) :
    ((s.modRec sd f).side sd').testNumber = (s.side sd').testNumber := by cases sd <;> cases sd' <;> rfl
@[simp] theorem modRec_side_inputs (s : State) (sd sd' : Side) (f : Recorder → Recorder) :
    ((s.modRec sd f).side sd').inputs = (s.side sd').inputs := by cases sd <;> cases sd' <;> rfl
@[simp] theorem modRec_side_running (s : State) (sd sd' : Side) (f : Recorder → Recorder) :
    ((s.modRec sd f).side sd').running = (s.side sd').running := by cases sd <;> cases sd' <;> rfl
@[simp] theorem modRec_side_stats (s : State) (sd sd' : Side) (f : Recorder → Recorder) :
    ((s.modRec sd f).side sd').stats = (s.side sd').stats := by cases sd <;> cases sd' <;> rfl
@[simp] theorem modRec_side_expo (s : State) (sd sd' : Side) (f : Recorder → Recorder) :
    ((s.modRec sd f).side sd').expo = (s.side sd').expo := by cases sd <;> cases sd' <;> rfl
@[simp] theorem modRec_side_glare (s : State) (sd sd' : Side) (f : Recorder → Recorder) :
    ((s.modRec sd f).side sd').glare = (s.side sd').glare := by cases sd <;> cases sd' <;> rfl
@[simp] theorem modRec_side_view (s : State) (sd sd' : Side) (f : Recorder → Recorder) :
    ((s.modRec sd f).side sd').view = (s.side sd').view := by cases sd <;> cases sd' <;> rfl
@[simp] theorem modRec_side_dlt (s : State) (sd sd' : Side) (f : Recorder → Recorder) :
    ((s.modRec sd f).side sd').dlt = (s.side sd').dlt := by cases sd <;> cases sd' <;> rfl

/-! ### Ports -/

@[simp] theorem withPort_pending (s : State) (p : Port) (x : PortState) : (s.withPort p x).pending = s.pending := by cases p <;> rfl
@[simp] theorem withPort_freeIndex (s : State) (p : Port) (x : PortState) : (s.withPort p x).freeIndex = s.freeIndex := by cases p <;> rfl
@[simp] theorem withPort_phase (s : State) (p : Port) (x : PortState) : (s.withPort p x).phase = s.phase := by cases p <;> rfl
@[simp] theorem withPort_pauses (s : State) (p : Port) (x : PortState) : (s.withPort p x).pauses = s.pauses := by cases p <;> rfl
@[simp] theorem withPort_supplyOk (s : State) (p : Port) (x : PortState) : (s.withPort p x).supplyOk = s.supplyOk := by cases p <;> rfl
@[simp] theorem withPort_eventIn (s : State) (p : Port) (x : PortState) : (s.withPort p x).eventIn = s.eventIn := by cases p <;> rfl
@[simp] theorem withPort_time (s : State) (p : Port) (x : PortState) : (s.withPort p x).time = s.time := by cases p <;> rfl
@[simp] theorem withPort_table (s : State) (p : Port) (x : PortState) : (s.withPort p x).table = s.table := by cases p <;> rfl
@[simp] theorem withPort_activePattern (s : State) (p : Port) (x : PortState) : (s.withPort p x).activePattern = s.activePattern := by cases p <;> rfl
@[simp] theorem withPort_vehicle (s : State) (p : Port) (x : PortState) : (s.withPort p x).vehicle = s.vehicle := by cases p <;> rfl
@[simp] theorem withPort_store (s : State) (p : Port) (x : PortState) : (s.withPort p x).store = s.store := by cases p <;> rfl
@[simp] theorem withPort_cal (s : State) (p : Port) (x : PortState) : (s.withPort p x).cal = s.cal := by cases p <;> rfl
@[simp] theorem withPort_side (s : State) (p : Port) (x : PortState) (sd : Side) :
    (s.withPort p x).side sd = s.side sd := by cases p <;> cases sd <;> rfl
theorem withPort_port_ne (s : State) (p p' : Port) (x : PortState) (h : p' ≠ p) :
    (s.withPort p x).port p' = s.port p' := by cases p <;> cases p' <;> first | rfl | exact absurd rfl h
@[simp] theorem modPort_pending (s : State) (p : Port) (f : PortState → PortState) : (s.modPort p f).pending = s.pending := by cases p <;> rfl
@[simp] theorem modPort_freeIndex (s : State) (p : Port) (f : PortState → PortState) : (s.modPort p f).freeIndex = s.freeIndex := by cases p <;> rfl
@[simp] theorem modPort_phase (s : State) (p : Port) (f : PortState → PortState) : (s.modPort p f).phase = s.phase := by cases p <;> rfl
@[simp] theorem modPort_pauses (s : State) (p : Port) (f : PortState → PortState) : (s.modPort p f).pauses = s.pauses := by cases p <;> rfl
@[simp] theorem modPort_supplyOk (s : State) (p : Port) (f : PortState → PortState) : (s.modPort p f).supplyOk = s.supplyOk := by cases p <;> rfl
@[simp] theorem modPort_eventIn (s : State) (p : Port) (f : PortState → PortState) : (s.modPort p f).eventIn = s.eventIn := by cases p <;> rfl
@[simp] theorem modPort_time (s : State) (p : Port) (f : PortState → PortState) : (s.modPort p f).time = s.time := by cases p <;> rfl
@[simp] theorem modPort_table (s : State) (p : Port) (f : PortState → PortState) : (s.modPort p f).table = s.table := by cases p <;> rfl
@[simp] theorem modPort_activePattern (s : State) (p : Port) (f : PortState → PortState) : (s.modPort p f).activePattern = s.activePattern := by cases p <;> rfl
@[simp] theorem modPort_vehicle (s : State) (p : Port) (f : PortState → PortState) : (s.modPort p f).vehicle = s.vehicle := by cases p <;> rfl
@[simp] theorem modPort_store (s : State) (p : Port) (f : PortState → PortState) : (s.modPort p f).store = s.store := by cases p <;> rfl
@[simp] theorem modPort_cal (s : State) (p : Port) (f : PortState → PortState) : (s.modPort p f).cal = s.cal := by cases p <;> rfl
@[simp] theorem modPort_side (s : State) (p : Port) (f : PortState → PortState) (sd : Side) :
    (s.modPort p f).side sd = s.side sd := by cases p <;> cases sd <;> rfl
theorem modPort_port_ne (s : State) (p p' : Port) (f : PortState → PortState) (h : p' ≠ p) :
    (s.modPort p f).port p' = s.port p' := by cases p <;> cases p' <;> first | rfl | exact absurd rfl h
@[simp] theorem withPort_port (s : State) (p : Port) (x : PortState) : (s.withPort p x).port p = x := by cases p <;> rfl
@[simp] theorem modPort_port (s : State) (p : Port) (f : PortState → PortState) :
    (s.modPort p f).port p = f (s.port p) := by cases p <;> rfl

/-! ### The store -/

@[simp] theorem modStore_pending (s : State) (f : Store → Store) : (s.modStore f).pending = s.pending := rfl
@[simp] theorem modStore_freeIndex (s : State) (f : Store → Store) : (s.modStore f).freeIndex = s.freeIndex := rfl
@[simp] theorem modStore_phase (s : State) (f : Store → Store) : (s.modStore f).phase = s.phase := rfl
@[simp] theorem modStore_pauses (s : State) (f : Store → Store) : (s.modStore f).pauses = s.pauses := rfl
@[simp] theorem modStore_supplyOk (s : State) (f : Store → Store) : (s.modStore f).supplyOk = s.supplyOk := rfl
@[simp] theorem modStore_eventIn (s : State) (f : Store → Store) : (s.modStore f).eventIn = s.eventIn := rfl
@[simp] theorem modStore_time (s : State) (f : Store → Store) : (s.modStore f).time = s.time := rfl
@[simp] theorem modStore_table (s : State) (f : Store → Store) : (s.modStore f).table = s.table := rfl
@[simp] theorem modStore_activePattern (s : State) (f : Store → Store) : (s.modStore f).activePattern = s.activePattern := rfl
@[simp] theorem modStore_vehicle (s : State) (f : Store → Store) : (s.modStore f).vehicle = s.vehicle := rfl
@[simp] theorem modStore_left (s : State) (f : Store → Store) : (s.modStore f).left = s.left := rfl
@[simp] theorem modStore_right (s : State) (f : Store → Store) : (s.modStore f).right = s.right := rfl
@[simp] theorem modStore_portV (s : State) (f : Store → Store) : (s.modStore f).portV = s.portV := rfl
@[simp] theorem modStore_portC (s : State) (f : Store → Store) : (s.modStore f).portC = s.portC := rfl
@[simp] theorem modStore_store (s : State) (f : Store → Store) : (s.modStore f).store = f s.store := rfl
@[simp] theorem modStore_side (s : State) (f : Store → Store) (sd : Side) : (s.modStore f).side sd = s.side sd := by
  cases sd <;> rfl
@[simp] theorem modStore_port (s : State) (f : Store → Store) (p : Port) : (s.modStore f).port p = s.port p := by
  cases p <;> rfl

/-! ### Records replaced whole -/

@[simp] theorem side_of_table (s : State) (x : FaultTable) (sd : Side) : State.side { s with table := x } sd = s.side sd := by
  cases sd <;> rfl
@[simp] theorem port_of_table (s : State) (x : FaultTable) (p : Port) : State.port { s with table := x } p = s.port p := by
  cases p <;> rfl
@[simp] theorem cal_of_table (s : State) (x : FaultTable) : State.cal { s with table := x } = s.cal := rfl
@[simp] theorem side_of_time (s : State) (x : Stamp) (sd : Side) : State.side { s with time := x } sd = s.side sd := by
  cases sd <;> rfl
@[simp] theorem port_of_time (s : State) (x : Stamp) (p : Port) : State.port { s with time := x } p = s.port p := by
  cases p <;> rfl
@[simp] theorem cal_of_time (s : State) (x : Stamp) : State.cal { s with time := x } = s.cal := rfl
@[simp] theorem side_of_vehicle (s : State) (x : Vehicle) (sd : Side) : State.side { s with vehicle := x } sd = s.side sd := by
  cases sd <;> rfl
@[simp] theorem port_of_vehicle (s : State) (x : Vehicle) (p : Port) : State.port { s with vehicle := x } p = s.port p := by
  cases p <;> rfl
@[simp] theorem cal_of_vehicle (s : State) (x : Vehicle) : State.cal { s with vehicle := x } = s.cal := rfl
@[simp] theorem side_of_pending (s : State) (x : List Instr) (sd : Side) : State.side { s with pending := x } sd = s.side sd := by
  cases sd <;> rfl
@[simp] theorem port_of_pending (s : State) (x : List Instr) (p : Port) : State.port { s with pending := x } p = s.port p := by
  cases p <;> rfl
@[simp] theorem cal_of_pending (s : State) (x : List Instr) : State.cal { s with pending := x } = s.cal := rfl
@[simp] theorem side_of_freeIndex (s : State) (x : Nat) (sd : Side) : State.side { s with freeIndex := x } sd = s.side sd := by
  cases sd <;> rfl
@[simp] theorem port_of_freeIndex (s : State) (x : Nat) (p : Port) : State.port { s with freeIndex := x } p = s.port p := by
  cases p <;> rfl
@[simp] theorem cal_of_freeIndex (s : State) (x : Nat) : State.cal { s with freeIndex := x } = s.cal := rfl
@[simp] theorem side_of_phase (s : State) (x : Phase) (sd : Side) : State.side { s with phase := x } sd = s.side sd := by
  cases sd <;> rfl
@[simp] theorem side_of_pauses (s : State) (x : List Nat) (sd : Side) : State.side { s with pauses := x } sd = s.side sd := by
  cases sd <;> rfl
@[simp] theorem port_of_phase (s : State) (x : Phase) (p : Port) : State.port { s with phase := x } p = s.port p := by
  cases p <;> rfl
@[simp] theorem port_of_pauses (s : State) (x : List Nat) (p : Port) : State.port { s with pauses := x } p = s.port p := by
  cases p <;> rfl
@[simp] theorem cal_of_phase (s : State) (x : Phase) : State.cal { s with phase := x } = s.cal := rfl
@[simp] theorem cal_of_pauses (s : State) (x : List Nat) : State.cal { s with pauses := x } = s.cal := rfl
@[simp] theorem side_of_supplyOk (s : State) (x : Bool) (sd : Side) : State.side { s with supplyOk := x } sd = s.side sd := by
  cases sd <;> rfl
@[simp] theorem port_of_supplyOk (s : State) (x : Bool) (p : Port) : State.port { s with supplyOk := x } p = s.port p := by
  cases p <;> rfl
@[simp] theorem cal_of_supplyOk (s : State) (x : Bool) : State.cal { s with supplyOk := x } = s.cal := rfl
@[simp] theorem side_of_eventIn (s : State) (x : Bool) (sd : Side) : State.side { s with eventIn := x } sd = s.side sd := by
  cases sd <;> rfl
@[simp] theorem port_of_eventIn (s : State) (x : Bool) (p : Port) : State.port { s with eventIn := x } p = s.port p := by
  cases p <;> rfl
@[simp] theorem cal_of_eventIn (s : State) (x : Bool) : State.cal { s with eventIn := x } = s.cal := rfl
@[simp] theorem side_of_activePattern (s : State) (x : Fin 4) (sd : Side) : State.side { s with activePattern := x } sd = s.side sd := by
  cases sd <;> rfl
@[simp] theorem port_of_activePattern (s : State) (x : Fin 4) (p : Port) : State.port { s with activePattern := x } p = s.port p := by
  cases p <;> rfl
@[simp] theorem cal_of_activePattern (s : State) (x : Fin 4) : State.cal { s with activePattern := x } = s.cal := rfl
@[simp] theorem side_of_store (s : State) (x : Store) (sd : Side) : State.side { s with store := x } sd = s.side sd := by
  cases sd <;> rfl
@[simp] theorem port_of_store (s : State) (x : Store) (p : Port) : State.port { s with store := x } p = s.port p := by
  cases p <;> rfl

end Sys2Proof.Machine
end

