-- ==== Sys2Proof/Laws/Frames.lean ====
section
/-! SUPPORT. Frames of the shared operations: what each leaves as it was. -/

namespace Sys2Proof.Machine

/-- A reading that no round of a fold changes is unchanged by the fold. -/
theorem foldl_reading {α β : Type} (g : State → β) (f : State → α → State) (h : ∀ s a, g (f s a) = g s)
    (l : List α) (s : State) : g (l.foldl f s) = g s := by
  induction l generalizing s with
  | nil => rfl
  | cons a l ih => rw [List.foldl_cons, ih, h]


/-! ### notify -/

@[simp] theorem notify_pending (s : State) (p : Port) (k : NoticeKind) :
    (notify p k s).pending = s.pending := by simp [notify]
@[simp] theorem notify_freeIndex (s : State) (p : Port) (k : NoticeKind) :
    (notify p k s).freeIndex = s.freeIndex := by simp [notify]
@[simp] theorem notify_phase (s : State) (p : Port) (k : NoticeKind) :
    (notify p k s).phase = s.phase := by simp [notify]
@[simp] theorem notify_pauses (s : State) (p : Port) (k : NoticeKind) :
    (notify p k s).pauses = s.pauses := by simp [notify]
@[simp] theorem notify_supplyOk (s : State) (p : Port) (k : NoticeKind) :
    (notify p k s).supplyOk = s.supplyOk := by simp [notify]
@[simp] theorem notify_eventIn (s : State) (p : Port) (k : NoticeKind) :
    (notify p k s).eventIn = s.eventIn := by simp [notify]
@[simp] theorem notify_time (s : State) (p : Port) (k : NoticeKind) :
    (notify p k s).time = s.time := by simp [notify]
@[simp] theorem notify_table (s : State) (p : Port) (k : NoticeKind) :
    (notify p k s).table = s.table := by simp [notify]
@[simp] theorem notify_activePattern (s : State) (p : Port) (k : NoticeKind) :
    (notify p k s).activePattern = s.activePattern := by simp [notify]
@[simp] theorem notify_vehicle (s : State) (p : Port) (k : NoticeKind) :
    (notify p k s).vehicle = s.vehicle := by simp [notify]
@[simp] theorem notify_store (s : State) (p : Port) (k : NoticeKind) :
    (notify p k s).store = s.store := by simp [notify]
@[simp] theorem notify_cal (s : State) (p : Port) (k : NoticeKind) :
    (notify p k s).cal = s.cal := by simp [notify]
@[simp] theorem notify_clr (s : State) (p : Port) (k : NoticeKind) (x : Side) :
    ((notify p k s).side x).clr = (s.side x).clr := by simp [notify]
@[simp] theorem notify_testFlag (s : State) (p : Port) (k : NoticeKind) (x : Side) :
    ((notify p k s).side x).testFlag = (s.side x).testFlag := by simp [notify]
@[simp] theorem notify_testNumber (s : State) (p : Port) (k : NoticeKind) (x : Side) :
    ((notify p k s).side x).testNumber = (s.side x).testNumber := by simp [notify]
@[simp] theorem notify_inputs (s : State) (p : Port) (k : NoticeKind) (x : Side) :
    ((notify p k s).side x).inputs = (s.side x).inputs := by simp [notify]
@[simp] theorem notify_running (s : State) (p : Port) (k : NoticeKind) (x : Side) :
    ((notify p k s).side x).running = (s.side x).running := by simp [notify]
@[simp] theorem notify_stats (s : State) (p : Port) (k : NoticeKind) (x : Side) :
    ((notify p k s).side x).stats = (s.side x).stats := by simp [notify]
@[simp] theorem notify_expo (s : State) (p : Port) (k : NoticeKind) (x : Side) :
    ((notify p k s).side x).expo = (s.side x).expo := by simp [notify]
@[simp] theorem notify_glare (s : State) (p : Port) (k : NoticeKind) (x : Side) :
    ((notify p k s).side x).glare = (s.side x).glare := by simp [notify]
@[simp] theorem notify_view (s : State) (p : Port) (k : NoticeKind) (x : Side) :
    ((notify p k s).side x).view = (s.side x).view := by simp [notify]
@[simp] theorem notify_dlt (s : State) (p : Port) (k : NoticeKind) (x : Side) :
    ((notify p k s).side x).dlt = (s.side x).dlt := by simp [notify]
@[simp] theorem notify_recorder (s : State) (p : Port) (k : NoticeKind) (x : Side) :
    ((notify p k s).side x).recorder = (s.side x).recorder := by simp [notify]

/-! ### notifyBoth -/

@[simp] theorem notifyBoth_pending (s : State) (k : NoticeKind) :
    (notifyBoth k s).pending = s.pending := by simp [notifyBoth]
@[simp] theorem notifyBoth_freeIndex (s : State) (k : NoticeKind) :
    (notifyBoth k s).freeIndex = s.freeIndex := by simp [notifyBoth]
@[simp] theorem notifyBoth_phase (s : State) (k : NoticeKind) :
    (notifyBoth k s).phase = s.phase := by simp [notifyBoth]
@[simp] theorem notifyBoth_pauses (s : State) (k : NoticeKind) :
    (notifyBoth k s).pauses = s.pauses := by simp [notifyBoth]
@[simp] theorem notifyBoth_supplyOk (s : State) (k : NoticeKind) :
    (notifyBoth k s).supplyOk = s.supplyOk := by simp [notifyBoth]
@[simp] theorem notifyBoth_eventIn (s : State) (k : NoticeKind) :
    (notifyBoth k s).eventIn = s.eventIn := by simp [notifyBoth]
@[simp] theorem notifyBoth_time (s : State) (k : NoticeKind) :
    (notifyBoth k s).time = s.time := by simp [notifyBoth]
@[simp] theorem notifyBoth_table (s : State) (k : NoticeKind) :
    (notifyBoth k s).table = s.table := by simp [notifyBoth]
@[simp] theorem notifyBoth_activePattern (s : State) (k : NoticeKind) :
    (notifyBoth k s).activePattern = s.activePattern := by simp [notifyBoth]
@[simp] theorem notifyBoth_vehicle (s : State) (k : NoticeKind) :
    (notifyBoth k s).vehicle = s.vehicle := by simp [notifyBoth]
@[simp] theorem notifyBoth_store (s : State) (k : NoticeKind) :
    (notifyBoth k s).store = s.store := by simp [notifyBoth]
@[simp] theorem notifyBoth_cal (s : State) (k : NoticeKind) :
    (notifyBoth k s).cal = s.cal := by simp [notifyBoth]
@[simp] theorem notifyBoth_clr (s : State) (k : NoticeKind) (x : Side) :
    ((notifyBoth k s).side x).clr = (s.side x).clr := by simp [notifyBoth]
@[simp] theorem notifyBoth_testFlag (s : State) (k : NoticeKind) (x : Side) :
    ((notifyBoth k s).side x).testFlag = (s.side x).testFlag := by simp [notifyBoth]
@[simp] theorem notifyBoth_testNumber (s : State) (k : NoticeKind) (x : Side) :
    ((notifyBoth k s).side x).testNumber = (s.side x).testNumber := by simp [notifyBoth]
@[simp] theorem notifyBoth_inputs (s : State) (k : NoticeKind) (x : Side) :
    ((notifyBoth k s).side x).inputs = (s.side x).inputs := by simp [notifyBoth]
@[simp] theorem notifyBoth_running (s : State) (k : NoticeKind) (x : Side) :
    ((notifyBoth k s).side x).running = (s.side x).running := by simp [notifyBoth]
@[simp] theorem notifyBoth_stats (s : State) (k : NoticeKind) (x : Side) :
    ((notifyBoth k s).side x).stats = (s.side x).stats := by simp [notifyBoth]
@[simp] theorem notifyBoth_expo (s : State) (k : NoticeKind) (x : Side) :
    ((notifyBoth k s).side x).expo = (s.side x).expo := by simp [notifyBoth]
@[simp] theorem notifyBoth_glare (s : State) (k : NoticeKind) (x : Side) :
    ((notifyBoth k s).side x).glare = (s.side x).glare := by simp [notifyBoth]
@[simp] theorem notifyBoth_view (s : State) (k : NoticeKind) (x : Side) :
    ((notifyBoth k s).side x).view = (s.side x).view := by simp [notifyBoth]
@[simp] theorem notifyBoth_dlt (s : State) (k : NoticeKind) (x : Side) :
    ((notifyBoth k s).side x).dlt = (s.side x).dlt := by simp [notifyBoth]
@[simp] theorem notifyBoth_recorder (s : State) (k : NoticeKind) (x : Side) :
    ((notifyBoth k s).side x).recorder = (s.side x).recorder := by simp [notifyBoth]

/-! ### endTransaction -/

@[simp] theorem endTransaction_pending (s : State) (p : Port) :
    (endTransaction p s).pending = s.pending := by simp [endTransaction]
@[simp] theorem endTransaction_freeIndex (s : State) (p : Port) :
    (endTransaction p s).freeIndex = s.freeIndex := by simp [endTransaction]
@[simp] theorem endTransaction_phase (s : State) (p : Port) :
    (endTransaction p s).phase = s.phase := by simp [endTransaction]
@[simp] theorem endTransaction_pauses (s : State) (p : Port) :
    (endTransaction p s).pauses = s.pauses := by simp [endTransaction]
@[simp] theorem endTransaction_supplyOk (s : State) (p : Port) :
    (endTransaction p s).supplyOk = s.supplyOk := by simp [endTransaction]
@[simp] theorem endTransaction_eventIn (s : State) (p : Port) :
    (endTransaction p s).eventIn = s.eventIn := by simp [endTransaction]
@[simp] theorem endTransaction_time (s : State) (p : Port) :
    (endTransaction p s).time = s.time := by simp [endTransaction]
@[simp] theorem endTransaction_table (s : State) (p : Port) :
    (endTransaction p s).table = s.table := by simp [endTransaction]
@[simp] theorem endTransaction_activePattern (s : State) (p : Port) :
    (endTransaction p s).activePattern = s.activePattern := by simp [endTransaction]
@[simp] theorem endTransaction_vehicle (s : State) (p : Port) :
    (endTransaction p s).vehicle = s.vehicle := by simp [endTransaction]
@[simp] theorem endTransaction_store (s : State) (p : Port) :
    (endTransaction p s).store = s.store := by simp [endTransaction]
@[simp] theorem endTransaction_cal (s : State) (p : Port) :
    (endTransaction p s).cal = s.cal := by simp [endTransaction]
@[simp] theorem endTransaction_clr (s : State) (p : Port) (x : Side) :
    ((endTransaction p s).side x).clr = (s.side x).clr := by simp [endTransaction]
@[simp] theorem endTransaction_testFlag (s : State) (p : Port) (x : Side) :
    ((endTransaction p s).side x).testFlag = (s.side x).testFlag := by simp [endTransaction]
@[simp] theorem endTransaction_testNumber (s : State) (p : Port) (x : Side) :
    ((endTransaction p s).side x).testNumber = (s.side x).testNumber := by simp [endTransaction]
@[simp] theorem endTransaction_inputs (s : State) (p : Port) (x : Side) :
    ((endTransaction p s).side x).inputs = (s.side x).inputs := by simp [endTransaction]
@[simp] theorem endTransaction_running (s : State) (p : Port) (x : Side) :
    ((endTransaction p s).side x).running = (s.side x).running := by simp [endTransaction]
@[simp] theorem endTransaction_stats (s : State) (p : Port) (x : Side) :
    ((endTransaction p s).side x).stats = (s.side x).stats := by simp [endTransaction]
@[simp] theorem endTransaction_expo (s : State) (p : Port) (x : Side) :
    ((endTransaction p s).side x).expo = (s.side x).expo := by simp [endTransaction]
@[simp] theorem endTransaction_glare (s : State) (p : Port) (x : Side) :
    ((endTransaction p s).side x).glare = (s.side x).glare := by simp [endTransaction]
@[simp] theorem endTransaction_view (s : State) (p : Port) (x : Side) :
    ((endTransaction p s).side x).view = (s.side x).view := by simp [endTransaction]
@[simp] theorem endTransaction_dlt (s : State) (p : Port) (x : Side) :
    ((endTransaction p s).side x).dlt = (s.side x).dlt := by simp [endTransaction]
@[simp] theorem endTransaction_recorder (s : State) (p : Port) (x : Side) :
    ((endTransaction p s).side x).recorder = (s.side x).recorder := by simp [endTransaction]

/-! ### prepareReply -/

@[simp] theorem prepareReply_pending (s : State) (p : Port) (r : Reply) :
    (prepareReply p r s).pending = s.pending := by simp [prepareReply]
@[simp] theorem prepareReply_freeIndex (s : State) (p : Port) (r : Reply) :
    (prepareReply p r s).freeIndex = s.freeIndex := by simp [prepareReply]
@[simp] theorem prepareReply_phase (s : State) (p : Port) (r : Reply) :
    (prepareReply p r s).phase = s.phase := by simp [prepareReply]
@[simp] theorem prepareReply_pauses (s : State) (p : Port) (r : Reply) :
    (prepareReply p r s).pauses = s.pauses := by simp [prepareReply]
@[simp] theorem prepareReply_supplyOk (s : State) (p : Port) (r : Reply) :
    (prepareReply p r s).supplyOk = s.supplyOk := by simp [prepareReply]
@[simp] theorem prepareReply_eventIn (s : State) (p : Port) (r : Reply) :
    (prepareReply p r s).eventIn = s.eventIn := by simp [prepareReply]
@[simp] theorem prepareReply_time (s : State) (p : Port) (r : Reply) :
    (prepareReply p r s).time = s.time := by simp [prepareReply]
@[simp] theorem prepareReply_table (s : State) (p : Port) (r : Reply) :
    (prepareReply p r s).table = s.table := by simp [prepareReply]
@[simp] theorem prepareReply_activePattern (s : State) (p : Port) (r : Reply) :
    (prepareReply p r s).activePattern = s.activePattern := by simp [prepareReply]
@[simp] theorem prepareReply_vehicle (s : State) (p : Port) (r : Reply) :
    (prepareReply p r s).vehicle = s.vehicle := by simp [prepareReply]
@[simp] theorem prepareReply_store (s : State) (p : Port) (r : Reply) :
    (prepareReply p r s).store = s.store := by simp [prepareReply]
@[simp] theorem prepareReply_cal (s : State) (p : Port) (r : Reply) :
    (prepareReply p r s).cal = s.cal := by simp [prepareReply]
@[simp] theorem prepareReply_clr (s : State) (p : Port) (r : Reply) (x : Side) :
    ((prepareReply p r s).side x).clr = (s.side x).clr := by simp [prepareReply]
@[simp] theorem prepareReply_testFlag (s : State) (p : Port) (r : Reply) (x : Side) :
    ((prepareReply p r s).side x).testFlag = (s.side x).testFlag := by simp [prepareReply]
@[simp] theorem prepareReply_testNumber (s : State) (p : Port) (r : Reply) (x : Side) :
    ((prepareReply p r s).side x).testNumber = (s.side x).testNumber := by simp [prepareReply]
@[simp] theorem prepareReply_inputs (s : State) (p : Port) (r : Reply) (x : Side) :
    ((prepareReply p r s).side x).inputs = (s.side x).inputs := by simp [prepareReply]
@[simp] theorem prepareReply_running (s : State) (p : Port) (r : Reply) (x : Side) :
    ((prepareReply p r s).side x).running = (s.side x).running := by simp [prepareReply]
@[simp] theorem prepareReply_stats (s : State) (p : Port) (r : Reply) (x : Side) :
    ((prepareReply p r s).side x).stats = (s.side x).stats := by simp [prepareReply]
@[simp] theorem prepareReply_expo (s : State) (p : Port) (r : Reply) (x : Side) :
    ((prepareReply p r s).side x).expo = (s.side x).expo := by simp [prepareReply]
@[simp] theorem prepareReply_glare (s : State) (p : Port) (r : Reply) (x : Side) :
    ((prepareReply p r s).side x).glare = (s.side x).glare := by simp [prepareReply]
@[simp] theorem prepareReply_view (s : State) (p : Port) (r : Reply) (x : Side) :
    ((prepareReply p r s).side x).view = (s.side x).view := by simp [prepareReply]
@[simp] theorem prepareReply_dlt (s : State) (p : Port) (r : Reply) (x : Side) :
    ((prepareReply p r s).side x).dlt = (s.side x).dlt := by simp [prepareReply]
@[simp] theorem prepareReply_recorder (s : State) (p : Port) (r : Reply) (x : Side) :
    ((prepareReply p r s).side x).recorder = (s.side x).recorder := by simp [prepareReply]

theorem endTransaction_port_ne (s : State) (p q : Port) (h : q ≠ p) : (endTransaction p s).port q = s.port q :=
  modPort_port_ne _ _ _ _ h
theorem prepareReply_port_ne (s : State) (p q : Port) (r : Reply) (h : q ≠ p) :
    (prepareReply p r s).port q = s.port q := modPort_port_ne _ _ _ _ h
@[simp] theorem notify_slot (s : State) (p q : Port) (k : NoticeKind) :
    ((notify p k s).port q).slot = (s.port q).slot := by cases p <;> cases q <;> rfl
@[simp] theorem notify_txn (s : State) (p q : Port) (k : NoticeKind) :
    ((notify p k s).port q).txn = (s.port q).txn := by cases p <;> cases q <;> rfl
@[simp] theorem notifyBoth_slot (s : State) (q : Port) (k : NoticeKind) :
    ((notifyBoth k s).port q).slot = (s.port q).slot := by simp [notifyBoth]
@[simp] theorem notifyBoth_txn (s : State) (q : Port) (k : NoticeKind) :
    ((notifyBoth k s).port q).txn = (s.port q).txn := by simp [notifyBoth]

/-! ### changeView -/

@[simp] theorem changeView_pending (s : State) (sd : Side) (v : ViewState) :
    (changeView sd v s).pending = s.pending := by unfold changeView; split <;> simp
@[simp] theorem changeView_freeIndex (s : State) (sd : Side) (v : ViewState) :
    (changeView sd v s).freeIndex = s.freeIndex := by unfold changeView; split <;> simp
@[simp] theorem changeView_phase (s : State) (sd : Side) (v : ViewState) :
    (changeView sd v s).phase = s.phase := by unfold changeView; split <;> simp
@[simp] theorem changeView_pauses (s : State) (sd : Side) (v : ViewState) :
    (changeView sd v s).pauses = s.pauses := by unfold changeView; split <;> simp
@[simp] theorem changeView_supplyOk (s : State) (sd : Side) (v : ViewState) :
    (changeView sd v s).supplyOk = s.supplyOk := by unfold changeView; split <;> simp
@[simp] theorem changeView_eventIn (s : State) (sd : Side) (v : ViewState) :
    (changeView sd v s).eventIn = s.eventIn := by unfold changeView; split <;> simp
@[simp] theorem changeView_time (s : State) (sd : Side) (v : ViewState) :
    (changeView sd v s).time = s.time := by unfold changeView; split <;> simp
@[simp] theorem changeView_table (s : State) (sd : Side) (v : ViewState) :
    (changeView sd v s).table = s.table := by unfold changeView; split <;> simp
@[simp] theorem changeView_activePattern (s : State) (sd : Side) (v : ViewState) :
    (changeView sd v s).activePattern = s.activePattern := by unfold changeView; split <;> simp
@[simp] theorem changeView_vehicle (s : State) (sd : Side) (v : ViewState) :
    (changeView sd v s).vehicle = s.vehicle := by unfold changeView; split <;> simp
@[simp] theorem changeView_store (s : State) (sd : Side) (v : ViewState) :
    (changeView sd v s).store = s.store := by unfold changeView; split <;> simp
@[simp] theorem changeView_cal (s : State) (sd : Side) (v : ViewState) :
    (changeView sd v s).cal = s.cal := by unfold changeView; split <;> simp
@[simp] theorem changeView_clr (s : State) (sd : Side) (v : ViewState) (x : Side) :
    ((changeView sd v s).side x).clr = (s.side x).clr := by unfold changeView; split <;> simp
@[simp] theorem changeView_testFlag (s : State) (sd : Side) (v : ViewState) (x : Side) :
    ((changeView sd v s).side x).testFlag = (s.side x).testFlag := by unfold changeView; split <;> simp
@[simp] theorem changeView_testNumber (s : State) (sd : Side) (v : ViewState) (x : Side) :
    ((changeView sd v s).side x).testNumber = (s.side x).testNumber := by unfold changeView; split <;> simp
@[simp] theorem changeView_inputs (s : State) (sd : Side) (v : ViewState) (x : Side) :
    ((changeView sd v s).side x).inputs = (s.side x).inputs := by unfold changeView; split <;> simp
@[simp] theorem changeView_running (s : State) (sd : Side) (v : ViewState) (x : Side) :
    ((changeView sd v s).side x).running = (s.side x).running := by unfold changeView; split <;> simp
@[simp] theorem changeView_stats (s : State) (sd : Side) (v : ViewState) (x : Side) :
    ((changeView sd v s).side x).stats = (s.side x).stats := by unfold changeView; split <;> simp
@[simp] theorem changeView_expo (s : State) (sd : Side) (v : ViewState) (x : Side) :
    ((changeView sd v s).side x).expo = (s.side x).expo := by unfold changeView; split <;> simp
@[simp] theorem changeView_glare (s : State) (sd : Side) (v : ViewState) (x : Side) :
    ((changeView sd v s).side x).glare = (s.side x).glare := by unfold changeView; split <;> simp
@[simp] theorem changeView_dlt (s : State) (sd : Side) (v : ViewState) (x : Side) :
    ((changeView sd v s).side x).dlt = (s.side x).dlt := by unfold changeView; split <;> simp
@[simp] theorem changeView_recorder (s : State) (sd : Side) (v : ViewState) (x : Side) :
    ((changeView sd v s).side x).recorder = (s.side x).recorder := by unfold changeView; split <;> simp

/-! ### enterInvalid -/

@[simp] theorem enterInvalid_pending (s : State) (sd : Side) :
    (enterInvalid sd s).pending = s.pending := by simp [enterInvalid]
@[simp] theorem enterInvalid_freeIndex (s : State) (sd : Side) :
    (enterInvalid sd s).freeIndex = s.freeIndex := by simp [enterInvalid]
@[simp] theorem enterInvalid_phase (s : State) (sd : Side) :
    (enterInvalid sd s).phase = s.phase := by simp [enterInvalid]
@[simp] theorem enterInvalid_pauses (s : State) (sd : Side) :
    (enterInvalid sd s).pauses = s.pauses := by simp [enterInvalid]
@[simp] theorem enterInvalid_supplyOk (s : State) (sd : Side) :
    (enterInvalid sd s).supplyOk = s.supplyOk := by simp [enterInvalid]
@[simp] theorem enterInvalid_eventIn (s : State) (sd : Side) :
    (enterInvalid sd s).eventIn = s.eventIn := by simp [enterInvalid]
@[simp] theorem enterInvalid_time (s : State) (sd : Side) :
    (enterInvalid sd s).time = s.time := by simp [enterInvalid]
@[simp] theorem enterInvalid_table (s : State) (sd : Side) :
    (enterInvalid sd s).table = s.table := by simp [enterInvalid]
@[simp] theorem enterInvalid_activePattern (s : State) (sd : Side) :
    (enterInvalid sd s).activePattern = s.activePattern := by simp [enterInvalid]
@[simp] theorem enterInvalid_vehicle (s : State) (sd : Side) :
    (enterInvalid sd s).vehicle = s.vehicle := by simp [enterInvalid]
@[simp] theorem enterInvalid_store (s : State) (sd : Side) :
    (enterInvalid sd s).store = s.store := by simp [enterInvalid]
@[simp] theorem enterInvalid_cal (s : State) (sd : Side) :
    (enterInvalid sd s).cal = s.cal := by simp [enterInvalid]
@[simp] theorem enterInvalid_clr (s : State) (sd : Side) (x : Side) :
    ((enterInvalid sd s).side x).clr = (s.side x).clr := by simp [enterInvalid]
@[simp] theorem enterInvalid_testFlag (s : State) (sd : Side) (x : Side) :
    ((enterInvalid sd s).side x).testFlag = (s.side x).testFlag := by simp [enterInvalid]
@[simp] theorem enterInvalid_testNumber (s : State) (sd : Side) (x : Side) :
    ((enterInvalid sd s).side x).testNumber = (s.side x).testNumber := by simp [enterInvalid]
@[simp] theorem enterInvalid_inputs (s : State) (sd : Side) (x : Side) :
    ((enterInvalid sd s).side x).inputs = (s.side x).inputs := by simp [enterInvalid]
@[simp] theorem enterInvalid_running (s : State) (sd : Side) (x : Side) :
    ((enterInvalid sd s).side x).running = (s.side x).running := by simp [enterInvalid]
@[simp] theorem enterInvalid_stats (s : State) (sd : Side) (x : Side) :
    ((enterInvalid sd s).side x).stats = (s.side x).stats := by simp [enterInvalid]
@[simp] theorem enterInvalid_expo (s : State) (sd : Side) (x : Side) :
    ((enterInvalid sd s).side x).expo = (s.side x).expo := by simp [enterInvalid]
@[simp] theorem enterInvalid_glare (s : State) (sd : Side) (x : Side) :
    ((enterInvalid sd s).side x).glare = (s.side x).glare := by simp [enterInvalid]
@[simp] theorem enterInvalid_dlt (s : State) (sd : Side) (x : Side) :
    ((enterInvalid sd s).side x).dlt = (s.side x).dlt := by simp [enterInvalid]
@[simp] theorem enterInvalid_recorder (s : State) (sd : Side) (x : Side) :
    ((enterInvalid sd s).side x).recorder = (s.side x).recorder := by simp [enterInvalid]

/-! ### activateView -/

@[simp] theorem activateView_pending (s : State) (sd : Side) :
    (activateView sd s).pending = s.pending := by unfold activateView; split <;> simp
@[simp] theorem activateView_freeIndex (s : State) (sd : Side) :
    (activateView sd s).freeIndex = s.freeIndex := by unfold activateView; split <;> simp
@[simp] theorem activateView_phase (s : State) (sd : Side) :
    (activateView sd s).phase = s.phase := by unfold activateView; split <;> simp
@[simp] theorem activateView_pauses (s : State) (sd : Side) :
    (activateView sd s).pauses = s.pauses := by unfold activateView; split <;> simp
@[simp] theorem activateView_supplyOk (s : State) (sd : Side) :
    (activateView sd s).supplyOk = s.supplyOk := by unfold activateView; split <;> simp
@[simp] theorem activateView_eventIn (s : State) (sd : Side) :
    (activateView sd s).eventIn = s.eventIn := by unfold activateView; split <;> simp
@[simp] theorem activateView_time (s : State) (sd : Side) :
    (activateView sd s).time = s.time := by unfold activateView; split <;> simp
@[simp] theorem activateView_table (s : State) (sd : Side) :
    (activateView sd s).table = s.table := by unfold activateView; split <;> simp
@[simp] theorem activateView_activePattern (s : State) (sd : Side) :
    (activateView sd s).activePattern = s.activePattern := by unfold activateView; split <;> simp
@[simp] theorem activateView_vehicle (s : State) (sd : Side) :
    (activateView sd s).vehicle = s.vehicle := by unfold activateView; split <;> simp
@[simp] theorem activateView_store (s : State) (sd : Side) :
    (activateView sd s).store = s.store := by unfold activateView; split <;> simp
@[simp] theorem activateView_cal (s : State) (sd : Side) :
    (activateView sd s).cal = s.cal := by unfold activateView; split <;> simp
@[simp] theorem activateView_clr (s : State) (sd : Side) (x : Side) :
    ((activateView sd s).side x).clr = (s.side x).clr := by unfold activateView; split <;> simp
@[simp] theorem activateView_testFlag (s : State) (sd : Side) (x : Side) :
    ((activateView sd s).side x).testFlag = (s.side x).testFlag := by unfold activateView; split <;> simp
@[simp] theorem activateView_testNumber (s : State) (sd : Side) (x : Side) :
    ((activateView sd s).side x).testNumber = (s.side x).testNumber := by unfold activateView; split <;> simp
@[simp] theorem activateView_inputs (s : State) (sd : Side) (x : Side) :
    ((activateView sd s).side x).inputs = (s.side x).inputs := by unfold activateView; split <;> simp
@[simp] theorem activateView_running (s : State) (sd : Side) (x : Side) :
    ((activateView sd s).side x).running = (s.side x).running := by unfold activateView; split <;> simp
@[simp] theorem activateView_stats (s : State) (sd : Side) (x : Side) :
    ((activateView sd s).side x).stats = (s.side x).stats := by unfold activateView; split <;> simp
@[simp] theorem activateView_expo (s : State) (sd : Side) (x : Side) :
    ((activateView sd s).side x).expo = (s.side x).expo := by unfold activateView; split <;> simp
@[simp] theorem activateView_glare (s : State) (sd : Side) (x : Side) :
    ((activateView sd s).side x).glare = (s.side x).glare := by unfold activateView; split <;> simp
@[simp] theorem activateView_dlt (s : State) (sd : Side) (x : Side) :
    ((activateView sd s).side x).dlt = (s.side x).dlt := by unfold activateView; split <;> simp
@[simp] theorem activateView_recorder (s : State) (sd : Side) (x : Side) :
    ((activateView sd s).side x).recorder = (s.side x).recorder := by unfold activateView; split <;> simp

/-! ### enterTest -/

@[simp] theorem enterTest_pending (s : State) (sd : Side) :
    (enterTest sd s).pending = s.pending := by simp [enterTest]
@[simp] theorem enterTest_freeIndex (s : State) (sd : Side) :
    (enterTest sd s).freeIndex = s.freeIndex := by simp [enterTest]
@[simp] theorem enterTest_phase (s : State) (sd : Side) :
    (enterTest sd s).phase = s.phase := by simp [enterTest]
@[simp] theorem enterTest_pauses (s : State) (sd : Side) :
    (enterTest sd s).pauses = s.pauses := by simp [enterTest]
@[simp] theorem enterTest_supplyOk (s : State) (sd : Side) :
    (enterTest sd s).supplyOk = s.supplyOk := by simp [enterTest]
@[simp] theorem enterTest_eventIn (s : State) (sd : Side) :
    (enterTest sd s).eventIn = s.eventIn := by simp [enterTest]
@[simp] theorem enterTest_time (s : State) (sd : Side) :
    (enterTest sd s).time = s.time := by simp [enterTest]
@[simp] theorem enterTest_table (s : State) (sd : Side) :
    (enterTest sd s).table = s.table := by simp [enterTest]
@[simp] theorem enterTest_activePattern (s : State) (sd : Side) :
    (enterTest sd s).activePattern = s.activePattern := by simp [enterTest]
@[simp] theorem enterTest_vehicle (s : State) (sd : Side) :
    (enterTest sd s).vehicle = s.vehicle := by simp [enterTest]
@[simp] theorem enterTest_store (s : State) (sd : Side) :
    (enterTest sd s).store = s.store := by simp [enterTest]
@[simp] theorem enterTest_cal (s : State) (sd : Side) :
    (enterTest sd s).cal = s.cal := by simp [enterTest]
@[simp] theorem enterTest_clr (s : State) (sd : Side) (x : Side) :
    ((enterTest sd s).side x).clr = (s.side x).clr := by simp [enterTest]
@[simp] theorem enterTest_testFlag (s : State) (sd : Side) (x : Side) :
    ((enterTest sd s).side x).testFlag = (s.side x).testFlag := by simp [enterTest]
@[simp] theorem enterTest_testNumber (s : State) (sd : Side) (x : Side) :
    ((enterTest sd s).side x).testNumber = (s.side x).testNumber := by simp [enterTest]
@[simp] theorem enterTest_inputs (s : State) (sd : Side) (x : Side) :
    ((enterTest sd s).side x).inputs = (s.side x).inputs := by simp [enterTest]
@[simp] theorem enterTest_running (s : State) (sd : Side) (x : Side) :
    ((enterTest sd s).side x).running = (s.side x).running := by simp [enterTest]
@[simp] theorem enterTest_stats (s : State) (sd : Side) (x : Side) :
    ((enterTest sd s).side x).stats = (s.side x).stats := by simp [enterTest]
@[simp] theorem enterTest_expo (s : State) (sd : Side) (x : Side) :
    ((enterTest sd s).side x).expo = (s.side x).expo := by simp [enterTest]
@[simp] theorem enterTest_glare (s : State) (sd : Side) (x : Side) :
    ((enterTest sd s).side x).glare = (s.side x).glare := by simp [enterTest]
@[simp] theorem enterTest_dlt (s : State) (sd : Side) (x : Side) :
    ((enterTest sd s).side x).dlt = (s.side x).dlt := by simp [enterTest]
@[simp] theorem enterTest_recorder (s : State) (sd : Side) (x : Side) :
    ((enterTest sd s).side x).recorder = (s.side x).recorder := by simp [enterTest]

/-! ### leaveTest -/

@[simp] theorem leaveTest_pending (s : State) (sd : Side) :
    (leaveTest sd s).pending = s.pending := by simp [leaveTest]
@[simp] theorem leaveTest_freeIndex (s : State) (sd : Side) :
    (leaveTest sd s).freeIndex = s.freeIndex := by simp [leaveTest]
@[simp] theorem leaveTest_phase (s : State) (sd : Side) :
    (leaveTest sd s).phase = s.phase := by simp [leaveTest]
@[simp] theorem leaveTest_pauses (s : State) (sd : Side) :
    (leaveTest sd s).pauses = s.pauses := by simp [leaveTest]
@[simp] theorem leaveTest_supplyOk (s : State) (sd : Side) :
    (leaveTest sd s).supplyOk = s.supplyOk := by simp [leaveTest]
@[simp] theorem leaveTest_eventIn (s : State) (sd : Side) :
    (leaveTest sd s).eventIn = s.eventIn := by simp [leaveTest]
@[simp] theorem leaveTest_time (s : State) (sd : Side) :
    (leaveTest sd s).time = s.time := by simp [leaveTest]
@[simp] theorem leaveTest_table (s : State) (sd : Side) :
    (leaveTest sd s).table = s.table := by simp [leaveTest]
@[simp] theorem leaveTest_activePattern (s : State) (sd : Side) :
    (leaveTest sd s).activePattern = s.activePattern := by simp [leaveTest]
@[simp] theorem leaveTest_vehicle (s : State) (sd : Side) :
    (leaveTest sd s).vehicle = s.vehicle := by simp [leaveTest]
@[simp] theorem leaveTest_store (s : State) (sd : Side) :
    (leaveTest sd s).store = s.store := by simp [leaveTest]
@[simp] theorem leaveTest_cal (s : State) (sd : Side) :
    (leaveTest sd s).cal = s.cal := by simp [leaveTest]
@[simp] theorem leaveTest_clr (s : State) (sd : Side) (x : Side) :
    ((leaveTest sd s).side x).clr = (s.side x).clr := by simp [leaveTest]
@[simp] theorem leaveTest_testFlag (s : State) (sd : Side) (x : Side) :
    ((leaveTest sd s).side x).testFlag = (s.side x).testFlag := by simp [leaveTest]
@[simp] theorem leaveTest_testNumber (s : State) (sd : Side) (x : Side) :
    ((leaveTest sd s).side x).testNumber = (s.side x).testNumber := by simp [leaveTest]
@[simp] theorem leaveTest_inputs (s : State) (sd : Side) (x : Side) :
    ((leaveTest sd s).side x).inputs = (s.side x).inputs := by simp [leaveTest]
@[simp] theorem leaveTest_running (s : State) (sd : Side) (x : Side) :
    ((leaveTest sd s).side x).running = (s.side x).running := by simp [leaveTest]
@[simp] theorem leaveTest_stats (s : State) (sd : Side) (x : Side) :
    ((leaveTest sd s).side x).stats = (s.side x).stats := by simp [leaveTest]
@[simp] theorem leaveTest_expo (s : State) (sd : Side) (x : Side) :
    ((leaveTest sd s).side x).expo = (s.side x).expo := by simp [leaveTest]
@[simp] theorem leaveTest_glare (s : State) (sd : Side) (x : Side) :
    ((leaveTest sd s).side x).glare = (s.side x).glare := by simp [leaveTest]
@[simp] theorem leaveTest_dlt (s : State) (sd : Side) (x : Side) :
    ((leaveTest sd s).side x).dlt = (s.side x).dlt := by simp [leaveTest]
@[simp] theorem leaveTest_recorder (s : State) (sd : Side) (x : Side) :
    ((leaveTest sd s).side x).recorder = (s.side x).recorder := by simp [leaveTest]

/-! ### setTest -/

@[simp] theorem setTest_pending (s : State) (sd : Side) :
    (setTest sd s).pending = s.pending := by unfold setTest; split <;> simp
@[simp] theorem setTest_freeIndex (s : State) (sd : Side) :
    (setTest sd s).freeIndex = s.freeIndex := by unfold setTest; split <;> simp
@[simp] theorem setTest_phase (s : State) (sd : Side) :
    (setTest sd s).phase = s.phase := by unfold setTest; split <;> simp
@[simp] theorem setTest_pauses (s : State) (sd : Side) :
    (setTest sd s).pauses = s.pauses := by unfold setTest; split <;> simp
@[simp] theorem setTest_supplyOk (s : State) (sd : Side) :
    (setTest sd s).supplyOk = s.supplyOk := by unfold setTest; split <;> simp
@[simp] theorem setTest_eventIn (s : State) (sd : Side) :
    (setTest sd s).eventIn = s.eventIn := by unfold setTest; split <;> simp
@[simp] theorem setTest_time (s : State) (sd : Side) :
    (setTest sd s).time = s.time := by unfold setTest; split <;> simp
@[simp] theorem setTest_table (s : State) (sd : Side) :
    (setTest sd s).table = s.table := by unfold setTest; split <;> simp
@[simp] theorem setTest_activePattern (s : State) (sd : Side) :
    (setTest sd s).activePattern = s.activePattern := by unfold setTest; split <;> simp
@[simp] theorem setTest_vehicle (s : State) (sd : Side) :
    (setTest sd s).vehicle = s.vehicle := by unfold setTest; split <;> simp
@[simp] theorem setTest_store (s : State) (sd : Side) :
    (setTest sd s).store = s.store := by unfold setTest; split <;> simp
@[simp] theorem setTest_cal (s : State) (sd : Side) :
    (setTest sd s).cal = s.cal := by unfold setTest; split <;> simp
@[simp] theorem setTest_clr (s : State) (sd : Side) (x : Side) :
    ((setTest sd s).side x).clr = (s.side x).clr := by unfold setTest; split <;> rcases side_eq_or_other sd x with rfl | rfl <;> simp
@[simp] theorem setTest_inputs (s : State) (sd : Side) (x : Side) :
    ((setTest sd s).side x).inputs = (s.side x).inputs := by unfold setTest; split <;> rcases side_eq_or_other sd x with rfl | rfl <;> simp
@[simp] theorem setTest_running (s : State) (sd : Side) (x : Side) :
    ((setTest sd s).side x).running = (s.side x).running := by unfold setTest; split <;> rcases side_eq_or_other sd x with rfl | rfl <;> simp
@[simp] theorem setTest_stats (s : State) (sd : Side) (x : Side) :
    ((setTest sd s).side x).stats = (s.side x).stats := by unfold setTest; split <;> rcases side_eq_or_other sd x with rfl | rfl <;> simp
@[simp] theorem setTest_expo (s : State) (sd : Side) (x : Side) :
    ((setTest sd s).side x).expo = (s.side x).expo := by unfold setTest; split <;> rcases side_eq_or_other sd x with rfl | rfl <;> simp
@[simp] theorem setTest_glare (s : State) (sd : Side) (x : Side) :
    ((setTest sd s).side x).glare = (s.side x).glare := by unfold setTest; split <;> rcases side_eq_or_other sd x with rfl | rfl <;> simp
@[simp] theorem setTest_dlt (s : State) (sd : Side) (x : Side) :
    ((setTest sd s).side x).dlt = (s.side x).dlt := by unfold setTest; split <;> rcases side_eq_or_other sd x with rfl | rfl <;> simp
@[simp] theorem setTest_recorder (s : State) (sd : Side) (x : Side) :
    ((setTest sd s).side x).recorder = (s.side x).recorder := by unfold setTest; split <;> rcases side_eq_or_other sd x with rfl | rfl <;> simp

/-! ### clearTest -/

@[simp] theorem clearTest_pending (s : State) (sd : Side) :
    (clearTest sd s).pending = s.pending := by unfold clearTest; split <;> simp
@[simp] theorem clearTest_freeIndex (s : State) (sd : Side) :
    (clearTest sd s).freeIndex = s.freeIndex := by unfold clearTest; split <;> simp
@[simp] theorem clearTest_phase (s : State) (sd : Side) :
    (clearTest sd s).phase = s.phase := by unfold clearTest; split <;> simp
@[simp] theorem clearTest_pauses (s : State) (sd : Side) :
    (clearTest sd s).pauses = s.pauses := by unfold clearTest; split <;> simp
@[simp] theorem clearTest_supplyOk (s : State) (sd : Side) :
    (clearTest sd s).supplyOk = s.supplyOk := by unfold clearTest; split <;> simp
@[simp] theorem clearTest_eventIn (s : State) (sd : Side) :
    (clearTest sd s).eventIn = s.eventIn := by unfold clearTest; split <;> simp
@[simp] theorem clearTest_time (s : State) (sd : Side) :
    (clearTest sd s).time = s.time := by unfold clearTest; split <;> simp
@[simp] theorem clearTest_table (s : State) (sd : Side) :
    (clearTest sd s).table = s.table := by unfold clearTest; split <;> simp
@[simp] theorem clearTest_activePattern (s : State) (sd : Side) :
    (clearTest sd s).activePattern = s.activePattern := by unfold clearTest; split <;> simp
@[simp] theorem clearTest_vehicle (s : State) (sd : Side) :
    (clearTest sd s).vehicle = s.vehicle := by unfold clearTest; split <;> simp
@[simp] theorem clearTest_store (s : State) (sd : Side) :
    (clearTest sd s).store = s.store := by unfold clearTest; split <;> simp
@[simp] theorem clearTest_cal (s : State) (sd : Side) :
    (clearTest sd s).cal = s.cal := by unfold clearTest; split <;> simp
@[simp] theorem clearTest_clr (s : State) (sd : Side) (x : Side) :
    ((clearTest sd s).side x).clr = (s.side x).clr := by unfold clearTest; split <;> rcases side_eq_or_other sd x with rfl | rfl <;> simp
@[simp] theorem clearTest_inputs (s : State) (sd : Side) (x : Side) :
    ((clearTest sd s).side x).inputs = (s.side x).inputs := by unfold clearTest; split <;> rcases side_eq_or_other sd x with rfl | rfl <;> simp
@[simp] theorem clearTest_running (s : State) (sd : Side) (x : Side) :
    ((clearTest sd s).side x).running = (s.side x).running := by unfold clearTest; split <;> rcases side_eq_or_other sd x with rfl | rfl <;> simp
@[simp] theorem clearTest_stats (s : State) (sd : Side) (x : Side) :
    ((clearTest sd s).side x).stats = (s.side x).stats := by unfold clearTest; split <;> rcases side_eq_or_other sd x with rfl | rfl <;> simp
@[simp] theorem clearTest_expo (s : State) (sd : Side) (x : Side) :
    ((clearTest sd s).side x).expo = (s.side x).expo := by unfold clearTest; split <;> rcases side_eq_or_other sd x with rfl | rfl <;> simp
@[simp] theorem clearTest_glare (s : State) (sd : Side) (x : Side) :
    ((clearTest sd s).side x).glare = (s.side x).glare := by unfold clearTest; split <;> rcases side_eq_or_other sd x with rfl | rfl <;> simp
@[simp] theorem clearTest_dlt (s : State) (sd : Side) (x : Side) :
    ((clearTest sd s).side x).dlt = (s.side x).dlt := by unfold clearTest; split <;> rcases side_eq_or_other sd x with rfl | rfl <;> simp
@[simp] theorem clearTest_recorder (s : State) (sd : Side) (x : Side) :
    ((clearTest sd s).side x).recorder = (s.side x).recorder := by unfold clearTest; split <;> rcases side_eq_or_other sd x with rfl | rfl <;> simp

/-! ### endTests -/

@[simp] theorem endTests_pending (s : State) :
    (endTests s).pending = s.pending := by simp [endTests]
@[simp] theorem endTests_freeIndex (s : State) :
    (endTests s).freeIndex = s.freeIndex := by simp [endTests]
@[simp] theorem endTests_phase (s : State) :
    (endTests s).phase = s.phase := by simp [endTests]
@[simp] theorem endTests_pauses (s : State) :
    (endTests s).pauses = s.pauses := by simp [endTests]
@[simp] theorem endTests_supplyOk (s : State) :
    (endTests s).supplyOk = s.supplyOk := by simp [endTests]
@[simp] theorem endTests_eventIn (s : State) :
    (endTests s).eventIn = s.eventIn := by simp [endTests]
@[simp] theorem endTests_time (s : State) :
    (endTests s).time = s.time := by simp [endTests]
@[simp] theorem endTests_table (s : State) :
    (endTests s).table = s.table := by simp [endTests]
@[simp] theorem endTests_activePattern (s : State) :
    (endTests s).activePattern = s.activePattern := by simp [endTests]
@[simp] theorem endTests_vehicle (s : State) :
    (endTests s).vehicle = s.vehicle := by simp [endTests]
@[simp] theorem endTests_store (s : State) :
    (endTests s).store = s.store := by simp [endTests]
@[simp] theorem endTests_cal (s : State) :
    (endTests s).cal = s.cal := by simp [endTests]
@[simp] theorem endTests_clr (s : State) (x : Side) :
    ((endTests s).side x).clr = (s.side x).clr := by simp [endTests]
@[simp] theorem endTests_inputs (s : State) (x : Side) :
    ((endTests s).side x).inputs = (s.side x).inputs := by simp [endTests]
@[simp] theorem endTests_running (s : State) (x : Side) :
    ((endTests s).side x).running = (s.side x).running := by simp [endTests]
@[simp] theorem endTests_stats (s : State) (x : Side) :
    ((endTests s).side x).stats = (s.side x).stats := by simp [endTests]
@[simp] theorem endTests_expo (s : State) (x : Side) :
    ((endTests s).side x).expo = (s.side x).expo := by simp [endTests]
@[simp] theorem endTests_glare (s : State) (x : Side) :
    ((endTests s).side x).glare = (s.side x).glare := by simp [endTests]
@[simp] theorem endTests_dlt (s : State) (x : Side) :
    ((endTests s).side x).dlt = (s.side x).dlt := by simp [endTests]
@[simp] theorem endTests_recorder (s : State) (x : Side) :
    ((endTests s).side x).recorder = (s.side x).recorder := by simp [endTests]

/-! ### loseTrigger -/

@[simp] theorem loseTrigger_pending (s : State) (sd : Side) (src : TriggerSource) :
    (loseTrigger sd src s).pending = s.pending := by simp [loseTrigger]
@[simp] theorem loseTrigger_freeIndex (s : State) (sd : Side) (src : TriggerSource) :
    (loseTrigger sd src s).freeIndex = s.freeIndex := by simp [loseTrigger]
@[simp] theorem loseTrigger_phase (s : State) (sd : Side) (src : TriggerSource) :
    (loseTrigger sd src s).phase = s.phase := by simp [loseTrigger]
@[simp] theorem loseTrigger_pauses (s : State) (sd : Side) (src : TriggerSource) :
    (loseTrigger sd src s).pauses = s.pauses := by simp [loseTrigger]
@[simp] theorem loseTrigger_supplyOk (s : State) (sd : Side) (src : TriggerSource) :
    (loseTrigger sd src s).supplyOk = s.supplyOk := by simp [loseTrigger]
@[simp] theorem loseTrigger_eventIn (s : State) (sd : Side) (src : TriggerSource) :
    (loseTrigger sd src s).eventIn = s.eventIn := by simp [loseTrigger]
@[simp] theorem loseTrigger_time (s : State) (sd : Side) (src : TriggerSource) :
    (loseTrigger sd src s).time = s.time := by simp [loseTrigger]
@[simp] theorem loseTrigger_activePattern (s : State) (sd : Side) (src : TriggerSource) :
    (loseTrigger sd src s).activePattern = s.activePattern := by simp [loseTrigger]
@[simp] theorem loseTrigger_vehicle (s : State) (sd : Side) (src : TriggerSource) :
    (loseTrigger sd src s).vehicle = s.vehicle := by simp [loseTrigger]
@[simp] theorem loseTrigger_store (s : State) (sd : Side) (src : TriggerSource) :
    (loseTrigger sd src s).store = s.store := by simp [loseTrigger]
@[simp] theorem loseTrigger_cal (s : State) (sd : Side) (src : TriggerSource) :
    (loseTrigger sd src s).cal = s.cal := by simp [loseTrigger]
@[simp] theorem loseTrigger_clr (s : State) (sd : Side) (src : TriggerSource) (x : Side) :
    ((loseTrigger sd src s).side x).clr = (s.side x).clr := by simp [loseTrigger]
@[simp] theorem loseTrigger_testFlag (s : State) (sd : Side) (src : TriggerSource) (x : Side) :
    ((loseTrigger sd src s).side x).testFlag = (s.side x).testFlag := by simp [loseTrigger]
@[simp] theorem loseTrigger_testNumber (s : State) (sd : Side) (src : TriggerSource) (x : Side) :
    ((loseTrigger sd src s).side x).testNumber = (s.side x).testNumber := by simp [loseTrigger]
@[simp] theorem loseTrigger_inputs (s : State) (sd : Side) (src : TriggerSource) (x : Side) :
    ((loseTrigger sd src s).side x).inputs = (s.side x).inputs := by simp [loseTrigger]
@[simp] theorem loseTrigger_running (s : State) (sd : Side) (src : TriggerSource) (x : Side) :
    ((loseTrigger sd src s).side x).running = (s.side x).running := by simp [loseTrigger]
@[simp] theorem loseTrigger_stats (s : State) (sd : Side) (src : TriggerSource) (x : Side) :
    ((loseTrigger sd src s).side x).stats = (s.side x).stats := by simp [loseTrigger]
@[simp] theorem loseTrigger_expo (s : State) (sd : Side) (src : TriggerSource) (x : Side) :
    ((loseTrigger sd src s).side x).expo = (s.side x).expo := by simp [loseTrigger]
@[simp] theorem loseTrigger_glare (s : State) (sd : Side) (src : TriggerSource) (x : Side) :
    ((loseTrigger sd src s).side x).glare = (s.side x).glare := by simp [loseTrigger]
@[simp] theorem loseTrigger_view (s : State) (sd : Side) (src : TriggerSource) (x : Side) :
    ((loseTrigger sd src s).side x).view = (s.side x).view := by simp [loseTrigger]
@[simp] theorem loseTrigger_dlt (s : State) (sd : Side) (src : TriggerSource) (x : Side) :
    ((loseTrigger sd src s).side x).dlt = (s.side x).dlt := by simp [loseTrigger]
@[simp] theorem loseTrigger_port (s : State) (sd : Side) (src : TriggerSource) (q : Port) :
    (loseTrigger sd src s).port q = s.port q := by simp [loseTrigger]

/-! ### acceptTriggers -/

@[simp] theorem acceptTriggers_pending (s : State) (sd : Side) (sources : SourceSet) (codes : List FaultCode) (pre : Nat) (c : Bool) :
    (acceptTriggers sd sources codes pre c s).pending = s.pending := by unfold acceptTriggers; dsimp only; split <;> simp
@[simp] theorem acceptTriggers_freeIndex (s : State) (sd : Side) (sources : SourceSet) (codes : List FaultCode) (pre : Nat) (c : Bool) :
    (acceptTriggers sd sources codes pre c s).freeIndex = s.freeIndex := by unfold acceptTriggers; dsimp only; split <;> simp
@[simp] theorem acceptTriggers_phase (s : State) (sd : Side) (sources : SourceSet) (codes : List FaultCode) (pre : Nat) (c : Bool) :
    (acceptTriggers sd sources codes pre c s).phase = s.phase := by unfold acceptTriggers; dsimp only; split <;> simp
@[simp] theorem acceptTriggers_pauses (s : State) (sd : Side) (sources : SourceSet) (codes : List FaultCode) (pre : Nat) (c : Bool) :
    (acceptTriggers sd sources codes pre c s).pauses = s.pauses := by unfold acceptTriggers; dsimp only; split <;> simp
@[simp] theorem acceptTriggers_supplyOk (s : State) (sd : Side) (sources : SourceSet) (codes : List FaultCode) (pre : Nat) (c : Bool) :
    (acceptTriggers sd sources codes pre c s).supplyOk = s.supplyOk := by unfold acceptTriggers; dsimp only; split <;> simp
@[simp] theorem acceptTriggers_eventIn (s : State) (sd : Side) (sources : SourceSet) (codes : List FaultCode) (pre : Nat) (c : Bool) :
    (acceptTriggers sd sources codes pre c s).eventIn = s.eventIn := by unfold acceptTriggers; dsimp only; split <;> simp
@[simp] theorem acceptTriggers_time (s : State) (sd : Side) (sources : SourceSet) (codes : List FaultCode) (pre : Nat) (c : Bool) :
    (acceptTriggers sd sources codes pre c s).time = s.time := by unfold acceptTriggers; dsimp only; split <;> simp
@[simp] theorem acceptTriggers_table (s : State) (sd : Side) (sources : SourceSet) (codes : List FaultCode) (pre : Nat) (c : Bool) :
    (acceptTriggers sd sources codes pre c s).table = s.table := by unfold acceptTriggers; dsimp only; split <;> simp
@[simp] theorem acceptTriggers_activePattern (s : State) (sd : Side) (sources : SourceSet) (codes : List FaultCode) (pre : Nat) (c : Bool) :
    (acceptTriggers sd sources codes pre c s).activePattern = s.activePattern := by unfold acceptTriggers; dsimp only; split <;> simp
@[simp] theorem acceptTriggers_vehicle (s : State) (sd : Side) (sources : SourceSet) (codes : List FaultCode) (pre : Nat) (c : Bool) :
    (acceptTriggers sd sources codes pre c s).vehicle = s.vehicle := by unfold acceptTriggers; dsimp only; split <;> simp
@[simp] theorem acceptTriggers_store (s : State) (sd : Side) (sources : SourceSet) (codes : List FaultCode) (pre : Nat) (c : Bool) :
    (acceptTriggers sd sources codes pre c s).store = s.store := by unfold acceptTriggers; dsimp only; split <;> simp
@[simp] theorem acceptTriggers_cal (s : State) (sd : Side) (sources : SourceSet) (codes : List FaultCode) (pre : Nat) (c : Bool) :
    (acceptTriggers sd sources codes pre c s).cal = s.cal := by unfold acceptTriggers; dsimp only; split <;> simp
@[simp] theorem acceptTriggers_clr (s : State) (sd : Side) (sources : SourceSet) (codes : List FaultCode) (pre : Nat) (c : Bool) (x : Side) :
    ((acceptTriggers sd sources codes pre c s).side x).clr = (s.side x).clr := by unfold acceptTriggers; dsimp only; split <;> simp
@[simp] theorem acceptTriggers_testFlag (s : State) (sd : Side) (sources : SourceSet) (codes : List FaultCode) (pre : Nat) (c : Bool) (x : Side) :
    ((acceptTriggers sd sources codes pre c s).side x).testFlag = (s.side x).testFlag := by unfold acceptTriggers; dsimp only; split <;> simp
@[simp] theorem acceptTriggers_testNumber (s : State) (sd : Side) (sources : SourceSet) (codes : List FaultCode) (pre : Nat) (c : Bool) (x : Side) :
    ((acceptTriggers sd sources codes pre c s).side x).testNumber = (s.side x).testNumber := by unfold acceptTriggers; dsimp only; split <;> simp
@[simp] theorem acceptTriggers_inputs (s : State) (sd : Side) (sources : SourceSet) (codes : List FaultCode) (pre : Nat) (c : Bool) (x : Side) :
    ((acceptTriggers sd sources codes pre c s).side x).inputs = (s.side x).inputs := by unfold acceptTriggers; dsimp only; split <;> simp
@[simp] theorem acceptTriggers_running (s : State) (sd : Side) (sources : SourceSet) (codes : List FaultCode) (pre : Nat) (c : Bool) (x : Side) :
    ((acceptTriggers sd sources codes pre c s).side x).running = (s.side x).running := by unfold acceptTriggers; dsimp only; split <;> simp
@[simp] theorem acceptTriggers_stats (s : State) (sd : Side) (sources : SourceSet) (codes : List FaultCode) (pre : Nat) (c : Bool) (x : Side) :
    ((acceptTriggers sd sources codes pre c s).side x).stats = (s.side x).stats := by unfold acceptTriggers; dsimp only; split <;> simp
@[simp] theorem acceptTriggers_expo (s : State) (sd : Side) (sources : SourceSet) (codes : List FaultCode) (pre : Nat) (c : Bool) (x : Side) :
    ((acceptTriggers sd sources codes pre c s).side x).expo = (s.side x).expo := by unfold acceptTriggers; dsimp only; split <;> simp
@[simp] theorem acceptTriggers_glare (s : State) (sd : Side) (sources : SourceSet) (codes : List FaultCode) (pre : Nat) (c : Bool) (x : Side) :
    ((acceptTriggers sd sources codes pre c s).side x).glare = (s.side x).glare := by unfold acceptTriggers; dsimp only; split <;> simp
@[simp] theorem acceptTriggers_view (s : State) (sd : Side) (sources : SourceSet) (codes : List FaultCode) (pre : Nat) (c : Bool) (x : Side) :
    ((acceptTriggers sd sources codes pre c s).side x).view = (s.side x).view := by unfold acceptTriggers; dsimp only; split <;> simp
@[simp] theorem acceptTriggers_dlt (s : State) (sd : Side) (sources : SourceSet) (codes : List FaultCode) (pre : Nat) (c : Bool) (x : Side) :
    ((acceptTriggers sd sources codes pre c s).side x).dlt = (s.side x).dlt := by unfold acceptTriggers; dsimp only; split <;> simp
@[simp] theorem acceptTriggers_port (s : State) (sd : Side) (sources : SourceSet) (codes : List FaultCode) (pre : Nat) (c : Bool) (q : Port) :
    (acceptTriggers sd sources codes pre c s).port q = s.port q := by unfold acceptTriggers; dsimp only; split <;> simp

/-! ### acceptWaiting -/

@[simp] theorem acceptWaiting_pending (s : State) (sd : Side) (pre : Nat) (c : Bool) :
    (acceptWaiting sd pre c s).pending = s.pending := by simp [acceptWaiting]
@[simp] theorem acceptWaiting_freeIndex (s : State) (sd : Side) (pre : Nat) (c : Bool) :
    (acceptWaiting sd pre c s).freeIndex = s.freeIndex := by simp [acceptWaiting]
@[simp] theorem acceptWaiting_phase (s : State) (sd : Side) (pre : Nat) (c : Bool) :
    (acceptWaiting sd pre c s).phase = s.phase := by simp [acceptWaiting]
@[simp] theorem acceptWaiting_pauses (s : State) (sd : Side) (pre : Nat) (c : Bool) :
    (acceptWaiting sd pre c s).pauses = s.pauses := by simp [acceptWaiting]
@[simp] theorem acceptWaiting_supplyOk (s : State) (sd : Side) (pre : Nat) (c : Bool) :
    (acceptWaiting sd pre c s).supplyOk = s.supplyOk := by simp [acceptWaiting]
@[simp] theorem acceptWaiting_eventIn (s : State) (sd : Side) (pre : Nat) (c : Bool) :
    (acceptWaiting sd pre c s).eventIn = s.eventIn := by simp [acceptWaiting]
@[simp] theorem acceptWaiting_time (s : State) (sd : Side) (pre : Nat) (c : Bool) :
    (acceptWaiting sd pre c s).time = s.time := by simp [acceptWaiting]
@[simp] theorem acceptWaiting_table (s : State) (sd : Side) (pre : Nat) (c : Bool) :
    (acceptWaiting sd pre c s).table = s.table := by simp [acceptWaiting]
@[simp] theorem acceptWaiting_activePattern (s : State) (sd : Side) (pre : Nat) (c : Bool) :
    (acceptWaiting sd pre c s).activePattern = s.activePattern := by simp [acceptWaiting]
@[simp] theorem acceptWaiting_vehicle (s : State) (sd : Side) (pre : Nat) (c : Bool) :
    (acceptWaiting sd pre c s).vehicle = s.vehicle := by simp [acceptWaiting]
@[simp] theorem acceptWaiting_store (s : State) (sd : Side) (pre : Nat) (c : Bool) :
    (acceptWaiting sd pre c s).store = s.store := by simp [acceptWaiting]
@[simp] theorem acceptWaiting_cal (s : State) (sd : Side) (pre : Nat) (c : Bool) :
    (acceptWaiting sd pre c s).cal = s.cal := by simp [acceptWaiting]
@[simp] theorem acceptWaiting_clr (s : State) (sd : Side) (pre : Nat) (c : Bool) (x : Side) :
    ((acceptWaiting sd pre c s).side x).clr = (s.side x).clr := by simp [acceptWaiting]
@[simp] theorem acceptWaiting_testFlag (s : State) (sd : Side) (pre : Nat) (c : Bool) (x : Side) :
    ((acceptWaiting sd pre c s).side x).testFlag = (s.side x).testFlag := by simp [acceptWaiting]
@[simp] theorem acceptWaiting_testNumber (s : State) (sd : Side) (pre : Nat) (c : Bool) (x : Side) :
    ((acceptWaiting sd pre c s).side x).testNumber = (s.side x).testNumber := by simp [acceptWaiting]
@[simp] theorem acceptWaiting_inputs (s : State) (sd : Side) (pre : Nat) (c : Bool) (x : Side) :
    ((acceptWaiting sd pre c s).side x).inputs = (s.side x).inputs := by simp [acceptWaiting]
@[simp] theorem acceptWaiting_running (s : State) (sd : Side) (pre : Nat) (c : Bool) (x : Side) :
    ((acceptWaiting sd pre c s).side x).running = (s.side x).running := by simp [acceptWaiting]
@[simp] theorem acceptWaiting_stats (s : State) (sd : Side) (pre : Nat) (c : Bool) (x : Side) :
    ((acceptWaiting sd pre c s).side x).stats = (s.side x).stats := by simp [acceptWaiting]
@[simp] theorem acceptWaiting_expo (s : State) (sd : Side) (pre : Nat) (c : Bool) (x : Side) :
    ((acceptWaiting sd pre c s).side x).expo = (s.side x).expo := by simp [acceptWaiting]
@[simp] theorem acceptWaiting_glare (s : State) (sd : Side) (pre : Nat) (c : Bool) (x : Side) :
    ((acceptWaiting sd pre c s).side x).glare = (s.side x).glare := by simp [acceptWaiting]
@[simp] theorem acceptWaiting_view (s : State) (sd : Side) (pre : Nat) (c : Bool) (x : Side) :
    ((acceptWaiting sd pre c s).side x).view = (s.side x).view := by simp [acceptWaiting]
@[simp] theorem acceptWaiting_dlt (s : State) (sd : Side) (pre : Nat) (c : Bool) (x : Side) :
    ((acceptWaiting sd pre c s).side x).dlt = (s.side x).dlt := by simp [acceptWaiting]
@[simp] theorem acceptWaiting_port (s : State) (sd : Side) (pre : Nat) (c : Bool) (q : Port) :
    (acceptWaiting sd pre c s).port q = s.port q := by simp [acceptWaiting]

/-! ### takeTrigger -/

@[simp] theorem takeTrigger_pending (s : State) (sd : Side) (trg : Trigger) :
    (takeTrigger sd trg s).pending = s.pending := by unfold takeTrigger; dsimp only; (repeat' split) <;> simp
@[simp] theorem takeTrigger_freeIndex (s : State) (sd : Side) (trg : Trigger) :
    (takeTrigger sd trg s).freeIndex = s.freeIndex := by unfold takeTrigger; dsimp only; (repeat' split) <;> simp
@[simp] theorem takeTrigger_phase (s : State) (sd : Side) (trg : Trigger) :
    (takeTrigger sd trg s).phase = s.phase := by unfold takeTrigger; dsimp only; (repeat' split) <;> simp
@[simp] theorem takeTrigger_pauses (s : State) (sd : Side) (trg : Trigger) :
    (takeTrigger sd trg s).pauses = s.pauses := by unfold takeTrigger; dsimp only; (repeat' split) <;> simp
@[simp] theorem takeTrigger_supplyOk (s : State) (sd : Side) (trg : Trigger) :
    (takeTrigger sd trg s).supplyOk = s.supplyOk := by unfold takeTrigger; dsimp only; (repeat' split) <;> simp
@[simp] theorem takeTrigger_eventIn (s : State) (sd : Side) (trg : Trigger) :
    (takeTrigger sd trg s).eventIn = s.eventIn := by unfold takeTrigger; dsimp only; (repeat' split) <;> simp
@[simp] theorem takeTrigger_time (s : State) (sd : Side) (trg : Trigger) :
    (takeTrigger sd trg s).time = s.time := by unfold takeTrigger; dsimp only; (repeat' split) <;> simp
@[simp] theorem takeTrigger_activePattern (s : State) (sd : Side) (trg : Trigger) :
    (takeTrigger sd trg s).activePattern = s.activePattern := by unfold takeTrigger; dsimp only; (repeat' split) <;> simp
@[simp] theorem takeTrigger_vehicle (s : State) (sd : Side) (trg : Trigger) :
    (takeTrigger sd trg s).vehicle = s.vehicle := by unfold takeTrigger; dsimp only; (repeat' split) <;> simp
@[simp] theorem takeTrigger_store (s : State) (sd : Side) (trg : Trigger) :
    (takeTrigger sd trg s).store = s.store := by unfold takeTrigger; dsimp only; (repeat' split) <;> simp
@[simp] theorem takeTrigger_cal (s : State) (sd : Side) (trg : Trigger) :
    (takeTrigger sd trg s).cal = s.cal := by unfold takeTrigger; dsimp only; (repeat' split) <;> simp
@[simp] theorem takeTrigger_clr (s : State) (sd : Side) (trg : Trigger) (x : Side) :
    ((takeTrigger sd trg s).side x).clr = (s.side x).clr := by unfold takeTrigger; dsimp only; (repeat' split) <;> simp
@[simp] theorem takeTrigger_testFlag (s : State) (sd : Side) (trg : Trigger) (x : Side) :
    ((takeTrigger sd trg s).side x).testFlag = (s.side x).testFlag := by unfold takeTrigger; dsimp only; (repeat' split) <;> simp
@[simp] theorem takeTrigger_testNumber (s : State) (sd : Side) (trg : Trigger) (x : Side) :
    ((takeTrigger sd trg s).side x).testNumber = (s.side x).testNumber := by unfold takeTrigger; dsimp only; (repeat' split) <;> simp
@[simp] theorem takeTrigger_inputs (s : State) (sd : Side) (trg : Trigger) (x : Side) :
    ((takeTrigger sd trg s).side x).inputs = (s.side x).inputs := by unfold takeTrigger; dsimp only; (repeat' split) <;> simp
@[simp] theorem takeTrigger_running (s : State) (sd : Side) (trg : Trigger) (x : Side) :
    ((takeTrigger sd trg s).side x).running = (s.side x).running := by unfold takeTrigger; dsimp only; (repeat' split) <;> simp
@[simp] theorem takeTrigger_stats (s : State) (sd : Side) (trg : Trigger) (x : Side) :
    ((takeTrigger sd trg s).side x).stats = (s.side x).stats := by unfold takeTrigger; dsimp only; (repeat' split) <;> simp
@[simp] theorem takeTrigger_expo (s : State) (sd : Side) (trg : Trigger) (x : Side) :
    ((takeTrigger sd trg s).side x).expo = (s.side x).expo := by unfold takeTrigger; dsimp only; (repeat' split) <;> simp
@[simp] theorem takeTrigger_glare (s : State) (sd : Side) (trg : Trigger) (x : Side) :
    ((takeTrigger sd trg s).side x).glare = (s.side x).glare := by unfold takeTrigger; dsimp only; (repeat' split) <;> simp
@[simp] theorem takeTrigger_view (s : State) (sd : Side) (trg : Trigger) (x : Side) :
    ((takeTrigger sd trg s).side x).view = (s.side x).view := by unfold takeTrigger; dsimp only; (repeat' split) <;> simp
@[simp] theorem takeTrigger_dlt (s : State) (sd : Side) (trg : Trigger) (x : Side) :
    ((takeTrigger sd trg s).side x).dlt = (s.side x).dlt := by unfold takeTrigger; dsimp only; (repeat' split) <;> simp
@[simp] theorem takeTrigger_port (s : State) (sd : Side) (trg : Trigger) (q : Port) :
    (takeTrigger sd trg s).port q = s.port q := by unfold takeTrigger; dsimp only; (repeat' split) <;> simp

/-! ### drawOrder -/

/-- Drawing an order changes the draw count alone. -/
theorem drawOrder_state {α : Type} (s : State) (l : List α) :
    (drawOrder s l).2 = s ∨ (drawOrder s l).2 = { s with freeIndex := s.freeIndex + 1 } := by
  unfold drawOrder; split <;> simp
@[simp] theorem drawOrder_pending {α : Type} (s : State) (l : List α) : (drawOrder s l).2.pending = s.pending := by
  unfold drawOrder; split <;> rfl
@[simp] theorem drawOrder_phase {α : Type} (s : State) (l : List α) : (drawOrder s l).2.phase = s.phase := by
  unfold drawOrder; split <;> rfl
@[simp] theorem drawOrder_pauses {α : Type} (s : State) (l : List α) : (drawOrder s l).2.pauses = s.pauses := by
  unfold drawOrder; split <;> rfl
@[simp] theorem drawOrder_supplyOk {α : Type} (s : State) (l : List α) : (drawOrder s l).2.supplyOk = s.supplyOk := by
  unfold drawOrder; split <;> rfl
@[simp] theorem drawOrder_eventIn {α : Type} (s : State) (l : List α) : (drawOrder s l).2.eventIn = s.eventIn := by
  unfold drawOrder; split <;> rfl
@[simp] theorem drawOrder_time {α : Type} (s : State) (l : List α) : (drawOrder s l).2.time = s.time := by
  unfold drawOrder; split <;> rfl
@[simp] theorem drawOrder_table {α : Type} (s : State) (l : List α) : (drawOrder s l).2.table = s.table := by
  unfold drawOrder; split <;> rfl
@[simp] theorem drawOrder_activePattern {α : Type} (s : State) (l : List α) : (drawOrder s l).2.activePattern = s.activePattern := by
  unfold drawOrder; split <;> rfl
@[simp] theorem drawOrder_vehicle {α : Type} (s : State) (l : List α) : (drawOrder s l).2.vehicle = s.vehicle := by
  unfold drawOrder; split <;> rfl
@[simp] theorem drawOrder_store {α : Type} (s : State) (l : List α) : (drawOrder s l).2.store = s.store := by
  unfold drawOrder; split <;> rfl
@[simp] theorem drawOrder_cal {α : Type} (s : State) (l : List α) : (drawOrder s l).2.cal = s.cal := by
  unfold drawOrder; split <;> rfl
@[simp] theorem drawOrder_side {α : Type} (s : State) (l : List α) (x : Side) :
    (drawOrder s l).2.side x = s.side x := by unfold drawOrder; split <;> cases x <;> rfl
@[simp] theorem drawOrder_port {α : Type} (s : State) (l : List α) (q : Port) :
    (drawOrder s l).2.port q = s.port q := by unfold drawOrder; split <;> cases q <;> rfl

/-! ### handTriggers -/

@[simp] theorem handTriggers_pending (s : State) (trg : Trigger) (sides : List Side) :
    (handTriggers trg sides s).pending = s.pending := by
  unfold handTriggers; exact (foldl_reading (·.pending) _ (by intros; simp) (drawOrder s sides).1
    (drawOrder s sides).2).trans (by simp)
@[simp] theorem handTriggers_phase (s : State) (trg : Trigger) (sides : List Side) :
    (handTriggers trg sides s).phase = s.phase := by
  unfold handTriggers; exact (foldl_reading (·.phase) _ (by intros; simp) (drawOrder s sides).1
    (drawOrder s sides).2).trans (by simp)
@[simp] theorem handTriggers_pauses (s : State) (trg : Trigger) (sides : List Side) :
    (handTriggers trg sides s).pauses = s.pauses := by
  unfold handTriggers; exact (foldl_reading (·.pauses) _ (by intros; simp) (drawOrder s sides).1
    (drawOrder s sides).2).trans (by simp)
@[simp] theorem handTriggers_supplyOk (s : State) (trg : Trigger) (sides : List Side) :
    (handTriggers trg sides s).supplyOk = s.supplyOk := by
  unfold handTriggers; exact (foldl_reading (·.supplyOk) _ (by intros; simp) (drawOrder s sides).1
    (drawOrder s sides).2).trans (by simp)
@[simp] theorem handTriggers_eventIn (s : State) (trg : Trigger) (sides : List Side) :
    (handTriggers trg sides s).eventIn = s.eventIn := by
  unfold handTriggers; exact (foldl_reading (·.eventIn) _ (by intros; simp) (drawOrder s sides).1
    (drawOrder s sides).2).trans (by simp)
@[simp] theorem handTriggers_time (s : State) (trg : Trigger) (sides : List Side) :
    (handTriggers trg sides s).time = s.time := by
  unfold handTriggers; exact (foldl_reading (·.time) _ (by intros; simp) (drawOrder s sides).1
    (drawOrder s sides).2).trans (by simp)
@[simp] theorem handTriggers_activePattern (s : State) (trg : Trigger) (sides : List Side) :
    (handTriggers trg sides s).activePattern = s.activePattern := by
  unfold handTriggers; exact (foldl_reading (·.activePattern) _ (by intros; simp) (drawOrder s sides).1
    (drawOrder s sides).2).trans (by simp)
@[simp] theorem handTriggers_vehicle (s : State) (trg : Trigger) (sides : List Side) :
    (handTriggers trg sides s).vehicle = s.vehicle := by
  unfold handTriggers; exact (foldl_reading (·.vehicle) _ (by intros; simp) (drawOrder s sides).1
    (drawOrder s sides).2).trans (by simp)
@[simp] theorem handTriggers_store (s : State) (trg : Trigger) (sides : List Side) :
    (handTriggers trg sides s).store = s.store := by
  unfold handTriggers; exact (foldl_reading (·.store) _ (by intros; simp) (drawOrder s sides).1
    (drawOrder s sides).2).trans (by simp)
@[simp] theorem handTriggers_cal (s : State) (trg : Trigger) (sides : List Side) :
    (handTriggers trg sides s).cal = s.cal := by
  unfold handTriggers; exact (foldl_reading (·.cal) _ (by intros; simp) (drawOrder s sides).1
    (drawOrder s sides).2).trans (by simp)
@[simp] theorem handTriggers_clr (s : State) (trg : Trigger) (sides : List Side) (x : Side) :
    ((handTriggers trg sides s).side x).clr = (s.side x).clr := by
  unfold handTriggers; exact (foldl_reading (fun s => (s.side x).clr) _ (by intros; simp) (drawOrder s sides).1
    (drawOrder s sides).2).trans (by simp)
@[simp] theorem handTriggers_testFlag (s : State) (trg : Trigger) (sides : List Side) (x : Side) :
    ((handTriggers trg sides s).side x).testFlag = (s.side x).testFlag := by
  unfold handTriggers; exact (foldl_reading (fun s => (s.side x).testFlag) _ (by intros; simp) (drawOrder s sides).1
    (drawOrder s sides).2).trans (by simp)
@[simp] theorem handTriggers_testNumber (s : State) (trg : Trigger) (sides : List Side) (x : Side) :
    ((handTriggers trg sides s).side x).testNumber = (s.side x).testNumber := by
  unfold handTriggers; exact (foldl_reading (fun s => (s.side x).testNumber) _ (by intros; simp) (drawOrder s sides).1
    (drawOrder s sides).2).trans (by simp)
@[simp] theorem handTriggers_inputs (s : State) (trg : Trigger) (sides : List Side) (x : Side) :
    ((handTriggers trg sides s).side x).inputs = (s.side x).inputs := by
  unfold handTriggers; exact (foldl_reading (fun s => (s.side x).inputs) _ (by intros; simp) (drawOrder s sides).1
    (drawOrder s sides).2).trans (by simp)
@[simp] theorem handTriggers_running (s : State) (trg : Trigger) (sides : List Side) (x : Side) :
    ((handTriggers trg sides s).side x).running = (s.side x).running := by
  unfold handTriggers; exact (foldl_reading (fun s => (s.side x).running) _ (by intros; simp) (drawOrder s sides).1
    (drawOrder s sides).2).trans (by simp)
@[simp] theorem handTriggers_stats (s : State) (trg : Trigger) (sides : List Side) (x : Side) :
    ((handTriggers trg sides s).side x).stats = (s.side x).stats := by
  unfold handTriggers; exact (foldl_reading (fun s => (s.side x).stats) _ (by intros; simp) (drawOrder s sides).1
    (drawOrder s sides).2).trans (by simp)
@[simp] theorem handTriggers_expo (s : State) (trg : Trigger) (sides : List Side) (x : Side) :
    ((handTriggers trg sides s).side x).expo = (s.side x).expo := by
  unfold handTriggers; exact (foldl_reading (fun s => (s.side x).expo) _ (by intros; simp) (drawOrder s sides).1
    (drawOrder s sides).2).trans (by simp)
@[simp] theorem handTriggers_glare (s : State) (trg : Trigger) (sides : List Side) (x : Side) :
    ((handTriggers trg sides s).side x).glare = (s.side x).glare := by
  unfold handTriggers; exact (foldl_reading (fun s => (s.side x).glare) _ (by intros; simp) (drawOrder s sides).1
    (drawOrder s sides).2).trans (by simp)
@[simp] theorem handTriggers_view (s : State) (trg : Trigger) (sides : List Side) (x : Side) :
    ((handTriggers trg sides s).side x).view = (s.side x).view := by
  unfold handTriggers; exact (foldl_reading (fun s => (s.side x).view) _ (by intros; simp) (drawOrder s sides).1
    (drawOrder s sides).2).trans (by simp)
@[simp] theorem handTriggers_dlt (s : State) (trg : Trigger) (sides : List Side) (x : Side) :
    ((handTriggers trg sides s).side x).dlt = (s.side x).dlt := by
  unfold handTriggers; exact (foldl_reading (fun s => (s.side x).dlt) _ (by intros; simp) (drawOrder s sides).1
    (drawOrder s sides).2).trans (by simp)
@[simp] theorem handTriggers_port (s : State) (trg : Trigger) (sides : List Side) (q : Port) :
    (handTriggers trg sides s).port q = s.port q := by
  unfold handTriggers; exact (foldl_reading (·.port q) _ (by intros; simp) (drawOrder s sides).1
    (drawOrder s sides).2).trans (by simp)

/-! ### faultTriggers -/

@[simp] theorem faultTriggers_pending (s : State) (c : FaultCode) (sd : FaultSide) :
    (faultTriggers c sd s).pending = s.pending := by unfold faultTriggers; split <;> simp
@[simp] theorem faultTriggers_phase (s : State) (c : FaultCode) (sd : FaultSide) :
    (faultTriggers c sd s).phase = s.phase := by unfold faultTriggers; split <;> simp
@[simp] theorem faultTriggers_pauses (s : State) (c : FaultCode) (sd : FaultSide) :
    (faultTriggers c sd s).pauses = s.pauses := by unfold faultTriggers; split <;> simp
@[simp] theorem faultTriggers_supplyOk (s : State) (c : FaultCode) (sd : FaultSide) :
    (faultTriggers c sd s).supplyOk = s.supplyOk := by unfold faultTriggers; split <;> simp
@[simp] theorem faultTriggers_eventIn (s : State) (c : FaultCode) (sd : FaultSide) :
    (faultTriggers c sd s).eventIn = s.eventIn := by unfold faultTriggers; split <;> simp
@[simp] theorem faultTriggers_time (s : State) (c : FaultCode) (sd : FaultSide) :
    (faultTriggers c sd s).time = s.time := by unfold faultTriggers; split <;> simp
@[simp] theorem faultTriggers_activePattern (s : State) (c : FaultCode) (sd : FaultSide) :
    (faultTriggers c sd s).activePattern = s.activePattern := by unfold faultTriggers; split <;> simp
@[simp] theorem faultTriggers_vehicle (s : State) (c : FaultCode) (sd : FaultSide) :
    (faultTriggers c sd s).vehicle = s.vehicle := by unfold faultTriggers; split <;> simp
@[simp] theorem faultTriggers_store (s : State) (c : FaultCode) (sd : FaultSide) :
    (faultTriggers c sd s).store = s.store := by unfold faultTriggers; split <;> simp
@[simp] theorem faultTriggers_cal (s : State) (c : FaultCode) (sd : FaultSide) :
    (faultTriggers c sd s).cal = s.cal := by unfold faultTriggers; split <;> simp
@[simp] theorem faultTriggers_clr (s : State) (c : FaultCode) (sd : FaultSide) (x : Side) :
    ((faultTriggers c sd s).side x).clr = (s.side x).clr := by unfold faultTriggers; split <;> simp
@[simp] theorem faultTriggers_testFlag (s : State) (c : FaultCode) (sd : FaultSide) (x : Side) :
    ((faultTriggers c sd s).side x).testFlag = (s.side x).testFlag := by unfold faultTriggers; split <;> simp
@[simp] theorem faultTriggers_testNumber (s : State) (c : FaultCode) (sd : FaultSide) (x : Side) :
    ((faultTriggers c sd s).side x).testNumber = (s.side x).testNumber := by unfold faultTriggers; split <;> simp
@[simp] theorem faultTriggers_inputs (s : State) (c : FaultCode) (sd : FaultSide) (x : Side) :
    ((faultTriggers c sd s).side x).inputs = (s.side x).inputs := by unfold faultTriggers; split <;> simp
@[simp] theorem faultTriggers_running (s : State) (c : FaultCode) (sd : FaultSide) (x : Side) :
    ((faultTriggers c sd s).side x).running = (s.side x).running := by unfold faultTriggers; split <;> simp
@[simp] theorem faultTriggers_stats (s : State) (c : FaultCode) (sd : FaultSide) (x : Side) :
    ((faultTriggers c sd s).side x).stats = (s.side x).stats := by unfold faultTriggers; split <;> simp
@[simp] theorem faultTriggers_expo (s : State) (c : FaultCode) (sd : FaultSide) (x : Side) :
    ((faultTriggers c sd s).side x).expo = (s.side x).expo := by unfold faultTriggers; split <;> simp
@[simp] theorem faultTriggers_glare (s : State) (c : FaultCode) (sd : FaultSide) (x : Side) :
    ((faultTriggers c sd s).side x).glare = (s.side x).glare := by unfold faultTriggers; split <;> simp
@[simp] theorem faultTriggers_view (s : State) (c : FaultCode) (sd : FaultSide) (x : Side) :
    ((faultTriggers c sd s).side x).view = (s.side x).view := by unfold faultTriggers; split <;> simp
@[simp] theorem faultTriggers_dlt (s : State) (c : FaultCode) (sd : FaultSide) (x : Side) :
    ((faultTriggers c sd s).side x).dlt = (s.side x).dlt := by unfold faultTriggers; split <;> simp
@[simp] theorem faultTriggers_port (s : State) (c : FaultCode) (sd : FaultSide) (q : Port) :
    (faultTriggers c sd s).port q = s.port q := by unfold faultTriggers; split <;> simp

/-- The fold of R77 over the sides of a fault record. -/
theorem activateAll_reading {β : Type} (g : State → β) (h : ∀ s x, g (activateView x s) = g s) (l : List Side)
    (s : State) : g (l.foldl (fun s x => activateView x s) s) = g s := foldl_reading g _ h l s

/-! ### afterOnset -/

@[simp] theorem afterOnset_pending (s : State) (c : FaultCode) (sd : FaultSide) :
    (afterOnset c sd s).pending = s.pending := by
  unfold afterOnset; split <;> simp [activateAll_reading (·.pending)]
@[simp] theorem afterOnset_phase (s : State) (c : FaultCode) (sd : FaultSide) :
    (afterOnset c sd s).phase = s.phase := by
  unfold afterOnset; split <;> simp [activateAll_reading (·.phase)]
@[simp] theorem afterOnset_pauses (s : State) (c : FaultCode) (sd : FaultSide) :
    (afterOnset c sd s).pauses = s.pauses := by
  unfold afterOnset; split <;> simp [activateAll_reading (·.pauses)]
@[simp] theorem afterOnset_supplyOk (s : State) (c : FaultCode) (sd : FaultSide) :
    (afterOnset c sd s).supplyOk = s.supplyOk := by
  unfold afterOnset; split <;> simp [activateAll_reading (·.supplyOk)]
@[simp] theorem afterOnset_eventIn (s : State) (c : FaultCode) (sd : FaultSide) :
    (afterOnset c sd s).eventIn = s.eventIn := by
  unfold afterOnset; split <;> simp [activateAll_reading (·.eventIn)]
@[simp] theorem afterOnset_time (s : State) (c : FaultCode) (sd : FaultSide) :
    (afterOnset c sd s).time = s.time := by
  unfold afterOnset; split <;> simp [activateAll_reading (·.time)]
@[simp] theorem afterOnset_activePattern (s : State) (c : FaultCode) (sd : FaultSide) :
    (afterOnset c sd s).activePattern = s.activePattern := by
  unfold afterOnset; split <;> simp [activateAll_reading (·.activePattern)]
@[simp] theorem afterOnset_vehicle (s : State) (c : FaultCode) (sd : FaultSide) :
    (afterOnset c sd s).vehicle = s.vehicle := by
  unfold afterOnset; split <;> simp [activateAll_reading (·.vehicle)]
@[simp] theorem afterOnset_store (s : State) (c : FaultCode) (sd : FaultSide) :
    (afterOnset c sd s).store = s.store := by
  unfold afterOnset; split <;> simp [activateAll_reading (·.store)]
@[simp] theorem afterOnset_cal (s : State) (c : FaultCode) (sd : FaultSide) :
    (afterOnset c sd s).cal = s.cal := by
  unfold afterOnset; split <;> simp [activateAll_reading (·.cal)]
@[simp] theorem afterOnset_clr (s : State) (c : FaultCode) (sd : FaultSide) (x : Side) :
    ((afterOnset c sd s).side x).clr = (s.side x).clr := by
  unfold afterOnset; split <;> simp [activateAll_reading (fun s => (s.side x).clr)]
@[simp] theorem afterOnset_testFlag (s : State) (c : FaultCode) (sd : FaultSide) (x : Side) :
    ((afterOnset c sd s).side x).testFlag = (s.side x).testFlag := by
  unfold afterOnset; split <;> simp [activateAll_reading (fun s => (s.side x).testFlag)]
@[simp] theorem afterOnset_testNumber (s : State) (c : FaultCode) (sd : FaultSide) (x : Side) :
    ((afterOnset c sd s).side x).testNumber = (s.side x).testNumber := by
  unfold afterOnset; split <;> simp [activateAll_reading (fun s => (s.side x).testNumber)]
@[simp] theorem afterOnset_inputs (s : State) (c : FaultCode) (sd : FaultSide) (x : Side) :
    ((afterOnset c sd s).side x).inputs = (s.side x).inputs := by
  unfold afterOnset; split <;> simp [activateAll_reading (fun s => (s.side x).inputs)]
@[simp] theorem afterOnset_running (s : State) (c : FaultCode) (sd : FaultSide) (x : Side) :
    ((afterOnset c sd s).side x).running = (s.side x).running := by
  unfold afterOnset; split <;> simp [activateAll_reading (fun s => (s.side x).running)]
@[simp] theorem afterOnset_stats (s : State) (c : FaultCode) (sd : FaultSide) (x : Side) :
    ((afterOnset c sd s).side x).stats = (s.side x).stats := by
  unfold afterOnset; split <;> simp [activateAll_reading (fun s => (s.side x).stats)]
@[simp] theorem afterOnset_expo (s : State) (c : FaultCode) (sd : FaultSide) (x : Side) :
    ((afterOnset c sd s).side x).expo = (s.side x).expo := by
  unfold afterOnset; split <;> simp [activateAll_reading (fun s => (s.side x).expo)]
@[simp] theorem afterOnset_glare (s : State) (c : FaultCode) (sd : FaultSide) (x : Side) :
    ((afterOnset c sd s).side x).glare = (s.side x).glare := by
  unfold afterOnset; split <;> simp [activateAll_reading (fun s => (s.side x).glare)]
@[simp] theorem afterOnset_dlt (s : State) (c : FaultCode) (sd : FaultSide) (x : Side) :
    ((afterOnset c sd s).side x).dlt = (s.side x).dlt := by
  unfold afterOnset; split <;> simp [activateAll_reading (fun s => (s.side x).dlt)]

/-! ### sendRaise -/

@[simp] theorem sendRaise_pending (s : State) (c : FaultCode) (sd : FaultSide) (d : BitVec 16) :
    (sendRaise c sd d s).pending = s.pending := by unfold sendRaise; split <;> simp
@[simp] theorem sendRaise_phase (s : State) (c : FaultCode) (sd : FaultSide) (d : BitVec 16) :
    (sendRaise c sd d s).phase = s.phase := by unfold sendRaise; split <;> simp
@[simp] theorem sendRaise_pauses (s : State) (c : FaultCode) (sd : FaultSide) (d : BitVec 16) :
    (sendRaise c sd d s).pauses = s.pauses := by unfold sendRaise; split <;> simp
@[simp] theorem sendRaise_supplyOk (s : State) (c : FaultCode) (sd : FaultSide) (d : BitVec 16) :
    (sendRaise c sd d s).supplyOk = s.supplyOk := by unfold sendRaise; split <;> simp
@[simp] theorem sendRaise_eventIn (s : State) (c : FaultCode) (sd : FaultSide) (d : BitVec 16) :
    (sendRaise c sd d s).eventIn = s.eventIn := by unfold sendRaise; split <;> simp
@[simp] theorem sendRaise_time (s : State) (c : FaultCode) (sd : FaultSide) (d : BitVec 16) :
    (sendRaise c sd d s).time = s.time := by unfold sendRaise; split <;> simp
@[simp] theorem sendRaise_activePattern (s : State) (c : FaultCode) (sd : FaultSide) (d : BitVec 16) :
    (sendRaise c sd d s).activePattern = s.activePattern := by unfold sendRaise; split <;> simp
@[simp] theorem sendRaise_vehicle (s : State) (c : FaultCode) (sd : FaultSide) (d : BitVec 16) :
    (sendRaise c sd d s).vehicle = s.vehicle := by unfold sendRaise; split <;> simp
@[simp] theorem sendRaise_store (s : State) (c : FaultCode) (sd : FaultSide) (d : BitVec 16) :
    (sendRaise c sd d s).store = s.store := by unfold sendRaise; split <;> simp
@[simp] theorem sendRaise_cal (s : State) (c : FaultCode) (sd : FaultSide) (d : BitVec 16) :
    (sendRaise c sd d s).cal = s.cal := by unfold sendRaise; split <;> simp
@[simp] theorem sendRaise_clr (s : State) (c : FaultCode) (sd : FaultSide) (d : BitVec 16) (x : Side) :
    ((sendRaise c sd d s).side x).clr = (s.side x).clr := by unfold sendRaise; split <;> simp
@[simp] theorem sendRaise_testFlag (s : State) (c : FaultCode) (sd : FaultSide) (d : BitVec 16) (x : Side) :
    ((sendRaise c sd d s).side x).testFlag = (s.side x).testFlag := by unfold sendRaise; split <;> simp
@[simp] theorem sendRaise_testNumber (s : State) (c : FaultCode) (sd : FaultSide) (d : BitVec 16) (x : Side) :
    ((sendRaise c sd d s).side x).testNumber = (s.side x).testNumber := by unfold sendRaise; split <;> simp
@[simp] theorem sendRaise_inputs (s : State) (c : FaultCode) (sd : FaultSide) (d : BitVec 16) (x : Side) :
    ((sendRaise c sd d s).side x).inputs = (s.side x).inputs := by unfold sendRaise; split <;> simp
@[simp] theorem sendRaise_running (s : State) (c : FaultCode) (sd : FaultSide) (d : BitVec 16) (x : Side) :
    ((sendRaise c sd d s).side x).running = (s.side x).running := by unfold sendRaise; split <;> simp
@[simp] theorem sendRaise_stats (s : State) (c : FaultCode) (sd : FaultSide) (d : BitVec 16) (x : Side) :
    ((sendRaise c sd d s).side x).stats = (s.side x).stats := by unfold sendRaise; split <;> simp
@[simp] theorem sendRaise_expo (s : State) (c : FaultCode) (sd : FaultSide) (d : BitVec 16) (x : Side) :
    ((sendRaise c sd d s).side x).expo = (s.side x).expo := by unfold sendRaise; split <;> simp
@[simp] theorem sendRaise_glare (s : State) (c : FaultCode) (sd : FaultSide) (d : BitVec 16) (x : Side) :
    ((sendRaise c sd d s).side x).glare = (s.side x).glare := by unfold sendRaise; split <;> simp
@[simp] theorem sendRaise_dlt (s : State) (c : FaultCode) (sd : FaultSide) (d : BitVec 16) (x : Side) :
    ((sendRaise c sd d s).side x).dlt = (s.side x).dlt := by unfold sendRaise; split <;> simp

/-! ### sendClear -/

@[simp] theorem sendClear_pending (s : State) (c : FaultCode) (sd : FaultSide) :
    (sendClear c sd s).pending = s.pending := by simp [sendClear]
@[simp] theorem sendClear_freeIndex (s : State) (c : FaultCode) (sd : FaultSide) :
    (sendClear c sd s).freeIndex = s.freeIndex := by simp [sendClear]
@[simp] theorem sendClear_phase (s : State) (c : FaultCode) (sd : FaultSide) :
    (sendClear c sd s).phase = s.phase := by simp [sendClear]
@[simp] theorem sendClear_pauses (s : State) (c : FaultCode) (sd : FaultSide) :
    (sendClear c sd s).pauses = s.pauses := by simp [sendClear]
@[simp] theorem sendClear_supplyOk (s : State) (c : FaultCode) (sd : FaultSide) :
    (sendClear c sd s).supplyOk = s.supplyOk := by simp [sendClear]
@[simp] theorem sendClear_eventIn (s : State) (c : FaultCode) (sd : FaultSide) :
    (sendClear c sd s).eventIn = s.eventIn := by simp [sendClear]
@[simp] theorem sendClear_time (s : State) (c : FaultCode) (sd : FaultSide) :
    (sendClear c sd s).time = s.time := by simp [sendClear]
@[simp] theorem sendClear_activePattern (s : State) (c : FaultCode) (sd : FaultSide) :
    (sendClear c sd s).activePattern = s.activePattern := by simp [sendClear]
@[simp] theorem sendClear_vehicle (s : State) (c : FaultCode) (sd : FaultSide) :
    (sendClear c sd s).vehicle = s.vehicle := by simp [sendClear]
@[simp] theorem sendClear_store (s : State) (c : FaultCode) (sd : FaultSide) :
    (sendClear c sd s).store = s.store := by simp [sendClear]
@[simp] theorem sendClear_cal (s : State) (c : FaultCode) (sd : FaultSide) :
    (sendClear c sd s).cal = s.cal := by simp [sendClear]
@[simp] theorem sendClear_clr (s : State) (c : FaultCode) (sd : FaultSide) (x : Side) :
    ((sendClear c sd s).side x).clr = (s.side x).clr := by simp [sendClear]
@[simp] theorem sendClear_testFlag (s : State) (c : FaultCode) (sd : FaultSide) (x : Side) :
    ((sendClear c sd s).side x).testFlag = (s.side x).testFlag := by simp [sendClear]
@[simp] theorem sendClear_testNumber (s : State) (c : FaultCode) (sd : FaultSide) (x : Side) :
    ((sendClear c sd s).side x).testNumber = (s.side x).testNumber := by simp [sendClear]
@[simp] theorem sendClear_inputs (s : State) (c : FaultCode) (sd : FaultSide) (x : Side) :
    ((sendClear c sd s).side x).inputs = (s.side x).inputs := by simp [sendClear]
@[simp] theorem sendClear_running (s : State) (c : FaultCode) (sd : FaultSide) (x : Side) :
    ((sendClear c sd s).side x).running = (s.side x).running := by simp [sendClear]
@[simp] theorem sendClear_stats (s : State) (c : FaultCode) (sd : FaultSide) (x : Side) :
    ((sendClear c sd s).side x).stats = (s.side x).stats := by simp [sendClear]
@[simp] theorem sendClear_expo (s : State) (c : FaultCode) (sd : FaultSide) (x : Side) :
    ((sendClear c sd s).side x).expo = (s.side x).expo := by simp [sendClear]
@[simp] theorem sendClear_glare (s : State) (c : FaultCode) (sd : FaultSide) (x : Side) :
    ((sendClear c sd s).side x).glare = (s.side x).glare := by simp [sendClear]
@[simp] theorem sendClear_view (s : State) (c : FaultCode) (sd : FaultSide) (x : Side) :
    ((sendClear c sd s).side x).view = (s.side x).view := by simp [sendClear]
@[simp] theorem sendClear_dlt (s : State) (c : FaultCode) (sd : FaultSide) (x : Side) :
    ((sendClear c sd s).side x).dlt = (s.side x).dlt := by simp [sendClear]
@[simp] theorem sendClear_recorder (s : State) (c : FaultCode) (sd : FaultSide) (x : Side) :
    ((sendClear c sd s).side x).recorder = (s.side x).recorder := by simp [sendClear]
@[simp] theorem sendClear_port (s : State) (c : FaultCode) (sd : FaultSide) (q : Port) :
    (sendClear c sd s).port q = s.port q := by simp [sendClear]

/-! ### sendEvent -/

@[simp] theorem sendEvent_pending (s : State) (c : FaultCode) (sd : FaultSide) (d : BitVec 16) :
    (sendEvent c sd d s).pending = s.pending := by simp [sendEvent]
@[simp] theorem sendEvent_phase (s : State) (c : FaultCode) (sd : FaultSide) (d : BitVec 16) :
    (sendEvent c sd d s).phase = s.phase := by simp [sendEvent]
@[simp] theorem sendEvent_pauses (s : State) (c : FaultCode) (sd : FaultSide) (d : BitVec 16) :
    (sendEvent c sd d s).pauses = s.pauses := by simp [sendEvent]
@[simp] theorem sendEvent_supplyOk (s : State) (c : FaultCode) (sd : FaultSide) (d : BitVec 16) :
    (sendEvent c sd d s).supplyOk = s.supplyOk := by simp [sendEvent]
@[simp] theorem sendEvent_eventIn (s : State) (c : FaultCode) (sd : FaultSide) (d : BitVec 16) :
    (sendEvent c sd d s).eventIn = s.eventIn := by simp [sendEvent]
@[simp] theorem sendEvent_time (s : State) (c : FaultCode) (sd : FaultSide) (d : BitVec 16) :
    (sendEvent c sd d s).time = s.time := by simp [sendEvent]
@[simp] theorem sendEvent_activePattern (s : State) (c : FaultCode) (sd : FaultSide) (d : BitVec 16) :
    (sendEvent c sd d s).activePattern = s.activePattern := by simp [sendEvent]
@[simp] theorem sendEvent_vehicle (s : State) (c : FaultCode) (sd : FaultSide) (d : BitVec 16) :
    (sendEvent c sd d s).vehicle = s.vehicle := by simp [sendEvent]
@[simp] theorem sendEvent_store (s : State) (c : FaultCode) (sd : FaultSide) (d : BitVec 16) :
    (sendEvent c sd d s).store = s.store := by simp [sendEvent]
@[simp] theorem sendEvent_cal (s : State) (c : FaultCode) (sd : FaultSide) (d : BitVec 16) :
    (sendEvent c sd d s).cal = s.cal := by simp [sendEvent]
@[simp] theorem sendEvent_clr (s : State) (c : FaultCode) (sd : FaultSide) (d : BitVec 16) (x : Side) :
    ((sendEvent c sd d s).side x).clr = (s.side x).clr := by simp [sendEvent]
@[simp] theorem sendEvent_testFlag (s : State) (c : FaultCode) (sd : FaultSide) (d : BitVec 16) (x : Side) :
    ((sendEvent c sd d s).side x).testFlag = (s.side x).testFlag := by simp [sendEvent]
@[simp] theorem sendEvent_testNumber (s : State) (c : FaultCode) (sd : FaultSide) (d : BitVec 16) (x : Side) :
    ((sendEvent c sd d s).side x).testNumber = (s.side x).testNumber := by simp [sendEvent]
@[simp] theorem sendEvent_inputs (s : State) (c : FaultCode) (sd : FaultSide) (d : BitVec 16) (x : Side) :
    ((sendEvent c sd d s).side x).inputs = (s.side x).inputs := by simp [sendEvent]
@[simp] theorem sendEvent_running (s : State) (c : FaultCode) (sd : FaultSide) (d : BitVec 16) (x : Side) :
    ((sendEvent c sd d s).side x).running = (s.side x).running := by simp [sendEvent]
@[simp] theorem sendEvent_stats (s : State) (c : FaultCode) (sd : FaultSide) (d : BitVec 16) (x : Side) :
    ((sendEvent c sd d s).side x).stats = (s.side x).stats := by simp [sendEvent]
@[simp] theorem sendEvent_expo (s : State) (c : FaultCode) (sd : FaultSide) (d : BitVec 16) (x : Side) :
    ((sendEvent c sd d s).side x).expo = (s.side x).expo := by simp [sendEvent]
@[simp] theorem sendEvent_glare (s : State) (c : FaultCode) (sd : FaultSide) (d : BitVec 16) (x : Side) :
    ((sendEvent c sd d s).side x).glare = (s.side x).glare := by simp [sendEvent]
@[simp] theorem sendEvent_view (s : State) (c : FaultCode) (sd : FaultSide) (d : BitVec 16) (x : Side) :
    ((sendEvent c sd d s).side x).view = (s.side x).view := by simp [sendEvent]
@[simp] theorem sendEvent_dlt (s : State) (c : FaultCode) (sd : FaultSide) (d : BitVec 16) (x : Side) :
    ((sendEvent c sd d s).side x).dlt = (s.side x).dlt := by simp [sendEvent]
@[simp] theorem sendEvent_port (s : State) (c : FaultCode) (sd : FaultSide) (d : BitVec 16) (q : Port) :
    (sendEvent c sd d s).port q = s.port q := by simp [sendEvent]

end Sys2Proof.Machine
end

