-- ==== Sys2Proof/Laws/Acts.lean ====
section
/-! SUPPORT. What a command can do, said once: every command but the resets and the load is a chain of a few kinds of
act. A proof about all commands goes by induction over the chain. -/

namespace Sys2Proof.Machine

/-- Which blocks a chain of acts may change by their own rules. What a report to the fault table or a trigger changes
(table, views, recorders, notices) needs no permission. -/
structure Touch where
  clr : Bool := false
  inputs : Bool := false
  stats : Bool := false
  expo : Bool := false
  glare : Bool := false
  view : Bool := false
  dlt : Bool := false
  recorder : Bool := false
  ports : Bool := false
  store : Bool := false
  vehicle : Bool := false
  time : Bool := false
  pins : Bool := false
  pattern : Bool := false
  marks : Bool := false

/-- A chain of acts from one state to another. -/
inductive Acts (b : Touch) (s0 : State) : State → Prop where
  | refl : Acts b s0 s0
  | clr {s : State} (h : b.clr = true) (sd : Side) (f : Clr → Clr) : Acts b s0 s → Acts b s0 (s.modClr sd f)
  | inputs {s : State} (h : b.inputs = true) (sd : Side) (f : SideState → SideState)
      (hf : ∀ x, f x =
        { x with inputs := (f x).inputs, testNumber := (f x).testNumber, running := (f x).running }) :
      Acts b s0 s → Acts b s0 (s.modSide sd f)
  | stats {s : State} (h : b.stats = true) (sd : Side) (f : Stats → Stats) : Acts b s0 s → Acts b s0 (s.modStats sd f)
  | expo {s : State} (h : b.expo = true) (sd : Side) (f : Exposure → Exposure) :
      Acts b s0 s → Acts b s0 (s.modExpo sd f)
  | glare {s : State} (h : b.glare = true) (sd : Side) (f : GlareMap → GlareMap) :
      Acts b s0 s → Acts b s0 (s.modGlare sd f)
  | view {s : State} (h : b.view = true) (sd : Side) (f : Composer → Composer) :
      Acts b s0 s → Acts b s0 (s.modView sd f)
  | dlt {s : State} (h : b.dlt = true) (sd : Side) (f : Dlt → Dlt) : Acts b s0 s → Acts b s0 (s.modDlt sd f)
  | recorder {s : State} (h : b.recorder = true) (sd : Side) (f : Recorder → Recorder) :
      Acts b s0 s → Acts b s0 (s.modRec sd f)
  | port {s : State} (h : b.ports = true) (p : Port) (f : PortState → PortState) :
      Acts b s0 s → Acts b s0 (s.modPort p f)
  | store {s : State} (h : b.store = true) (f : Store → Store) (hf : ∀ st, (f st).cal = st.cal) :
      Acts b s0 s → Acts b s0 (s.modStore f)
  | vehicle {s : State} (h : b.vehicle = true) (v : Vehicle) : Acts b s0 s → Acts b s0 { s with vehicle := v }
  | time {s : State} (h : b.time = true) (t : Stamp) : Acts b s0 s → Acts b s0 { s with time := t }
  | supplyOk {s : State} (h : b.pins = true) (x : Bool) : Acts b s0 s → Acts b s0 { s with supplyOk := x }
  | eventIn {s : State} (h : b.pins = true) (x : Bool) : Acts b s0 s → Acts b s0 { s with eventIn := x }
  | pattern {s : State} (h : b.pattern = true) (x : Fin 4) : Acts b s0 s → Acts b s0 { s with activePattern := x }
  | mark {s : State} (h : b.marks = true) (c : FaultCode) (sd : FaultSide) (p : Port)
      (ha : masterIn (audienceOf c) p = true) :
      Acts b s0 s → Acts b s0 { s with table := tableMark s.table c sd p }
  | markAll {s : State} (h : b.marks = true) (p : Port) : Acts b s0 s → Acts b s0 { s with table := markAll p s.table }
  | draw {s : State} (n : Nat) : Acts b s0 s → Acts b s0 { s with freeIndex := n }
  | pause {s : State} (l : List Nat) : Acts b s0 s → Acts b s0 { s with pauses := l }
  | notify {s : State} (p : Port) (k : NoticeKind) : Acts b s0 s → Acts b s0 (notify p k s)
  | trigger {s : State} (sd : Side) (trg : Trigger) : Acts b s0 s → Acts b s0 (takeTrigger sd trg s)
  | lose {s : State} (sd : Side) (src : TriggerSource) : Acts b s0 s → Acts b s0 (loseTrigger sd src s)
  | raise {s : State} (c : FaultCode) (sd : FaultSide) (d : BitVec 16) (hc : isEvent c = false)
      (hs : sideAllowed c sd = true) : Acts b s0 s → Acts b s0 (sendRaise c sd d s)
  | clear {s : State} (c : FaultCode) (sd : FaultSide) : Acts b s0 s → Acts b s0 (sendClear c sd s)
  | event {s : State} (c : FaultCode) (sd : FaultSide) (d : BitVec 16) (hc : isEvent c = true)
      (hs : sideAllowed c sd = true) : Acts b s0 s → Acts b s0 (sendEvent c sd d s)
  | setTest {s : State} (sd : Side) : Acts b s0 s → Acts b s0 (setTest sd s)
  | clearTest {s : State} (sd : Side) : Acts b s0 s → Acts b s0 (clearTest sd s)

variable {b : Touch} {s0 s : State}

/-- A chain goes on through a fold whose rounds are chains. -/
theorem Acts.foldl {α : Type} (f : State → α → State) (l : List α)
    (hf : ∀ s a, Acts b s0 s → Acts b s0 (f s a)) (h : Acts b s0 s) : Acts b s0 (l.foldl f s) := by
  induction l generalizing s with
  | nil => exact h
  | cons a l ih => exact ih (hf _ _ h)

theorem Acts.notifyBoth (k : NoticeKind) (h : Acts b s0 s) : Acts b s0 (notifyBoth k s) := (h.notify _ _).notify _ _

theorem Acts.drawOrder {α : Type} (l : List α) (h : Acts b s0 s) : Acts b s0 (drawOrder s l).2 := by
  rcases drawOrder_state s l with e | e <;> rw [e]
  · exact h
  · exact h.draw _

theorem Acts.handTriggers (trg : Trigger) (sides : List Side) (h : Acts b s0 s) :
    Acts b s0 (handTriggers trg sides s) :=
  Acts.foldl _ _ (fun _ _ h => h.trigger _ _) (h.drawOrder sides)

theorem Acts.endTests (h : Acts b s0 s) : Acts b s0 (endTests s) := (h.clearTest _).clearTest _

theorem Acts.endTransaction (hp : b.ports = true) (p : Port) (h : Acts b s0 s) : Acts b s0 (endTransaction p s) :=
  h.port hp _ _

theorem Acts.prepareReply (hp : b.ports = true) (p : Port) (r : Reply) (h : Acts b s0 s) :
    Acts b s0 (prepareReply p r s) := h.port hp _ _

theorem Acts.whileRunning (f : State → State) (hf : Acts b s0 s → Acts b s0 (f s)) (h : Acts b s0 s) :
    Acts b s0 (whileRunning f s) := by
  unfold Sys2Proof.Machine.whileRunning; split
  · exact hf h
  · exact h

/-- A request is a chain where its owning block's taking is one. -/
theorem Acts.takeRequest (hp : b.ports = true) (p : Port) (c : RequestCode) (tag : BitVec 4) (ps : List Byte)
    (body : State → State × Answer) (hb : ∀ s, Acts b s0 s → Acts b s0 (body s).1) (h : Acts b s0 s) :
    Acts b s0 (takeRequest p c tag ps body s) := by
  unfold Sys2Proof.Machine.takeRequest
  split
  · exact h
  · exact h.endTransaction hp p
  · exact h.endTransaction hp p
  · have he : Acts b s0 (examine p c ps body s).1 := by
      unfold examine; split
      · exact h
      · split
        · exact h
        · exact hb s h
    exact (he.endTransaction hp p).prepareReply hp p _

/-! ### Exposure Controller -/

theorem countUnconfirmed_acts (he : b.expo = true) (sd : Side) (tag : BitVec 4) (h : Acts b s0 s) :
    Acts b s0 (countUnconfirmed sd tag s) := (h.expo he _ _).raise _ _ _ rfl (by cases sd <;> rfl)

theorem countConfirmed_acts (he : b.expo = true) (sd : Side) (h : Acts b s0 s) : Acts b s0 (countConfirmed sd s) := by
  unfold countConfirmed; dsimp only; split
  · exact (h.expo he _ _).clear _ _
  · exact h.expo he _ _

theorem pushOutCommand_acts (he : b.expo = true) (sd : Side) (h : Acts b s0 s) : Acts b s0 (pushOutCommand sd s) := by
  unfold pushOutCommand; split
  · split
    · exact countUnconfirmed_acts he _ _ (h.expo he _ _)
    · exact h
  · exact h

theorem issueCommand_acts (he : b.expo = true) (hc : b.clr = true) (sd : Side) (n : FrameNumber) (t g : Nat)
    (h : Acts b s0 s) : Acts b s0 (issueCommand sd n t g s).1 :=
  (pushOutCommand_acts he _ (h.expo he _ _)).clr hc _ _

theorem confirmCommand_acts (he : b.expo = true) (sd : Side) (a : Byte) (t g : Nat) (h : Acts b s0 s) :
    Acts b s0 (confirmCommand sd a t g s) := by
  unfold confirmCommand; split
  · exact h
  · dsimp only; split
    · exact countConfirmed_acts he _ (h.expo he _ _)
    · exact countUnconfirmed_acts he _ _ (h.expo he _ _)

theorem dropLate_acts (he : b.expo = true) (sd : Side) (f : FrameNumber) (h : Acts b s0 s) :
    Acts b s0 (dropLate sd f s) :=
  Acts.foldl _ _ (fun _ _ h => countUnconfirmed_acts he _ _ h) (h.expo he _ _)

theorem headerReport_acts (he : b.expo = true) (sd : Side) (f : FrameNumber) (a : Byte) (t g : Nat)
    (h : Acts b s0 s) : Acts b s0 (headerReport sd f a t g s) :=
  dropLate_acts he _ _ ((confirmCommand_acts he _ _ _ _ h).expo he _ _)

theorem stageExposure_acts (he : b.expo = true) (hc : b.clr = true) (sd : Side) (f : AcceptedFrame)
    (h : Acts b s0 s) : Acts b s0 (stageExposure sd f s).1 := by
  unfold stageExposure; dsimp only
  split
  · dsimp only; exact h.expo he _ _
  · dsimp only; exact h.expo he _ _
  · split
    · dsimp only; exact h.expo he _ _
    · exact issueCommand_acts he hc _ _ _ _ ((h.expo he _ _).expo he _ _)

theorem changeMode_acts (he : b.expo = true) (hg : b.glare = true) (sd : Side) (m : DayNight) (h : Acts b s0 s) :
    Acts b s0 (changeMode sd m s) := by
  unfold changeMode; dsimp only; split
  · exact ((h.expo he _ _).glare hg _ _).notify _ _
  · exact (h.expo he _ _).notify _ _

theorem autoDayNight_acts (he : b.expo = true) (hg : b.glare = true) (sd : Side) (h : Acts b s0 s) :
    Acts b s0 (autoDayNight sd s) := by
  unfold autoDayNight; dsimp only
  split <;> (repeat' split) <;> first
    | exact h.expo he _ _
    | exact changeMode_acts he hg _ _ (h.expo he _ _)

theorem forceMode_acts (he : b.expo = true) (hg : b.glare = true) (sd : Side) (m : DayNight) (h : Acts b s0 s) :
    Acts b s0 (forceMode sd m s) := by
  unfold forceMode; split
  · exact h
  · exact changeMode_acts he hg _ _ h

theorem stageDayNight_acts (he : b.expo = true) (hg : b.glare = true) (sd : Side) (f : AcceptedFrame)
    (h : Acts b s0 s) : Acts b s0 (stageDayNight sd f s) := by
  unfold stageDayNight
  split
  · exact forceMode_acts he hg _ _ h
  · exact forceMode_acts he hg _ _ h
  · split
    · exact h
    · exact autoDayNight_acts he hg _ h

theorem setExposureMode_acts (he : b.expo = true) (ps : List Byte) (h : Acts b s0 s) :
    Acts b s0 (setExposureMode ps s).1 := by
  unfold setExposureMode; split
  · exact Acts.foldl _ _ (fun _ _ h => h.expo he _ _) h
  · exact h

theorem setNightPolicy_acts (he : b.expo = true) (ps : List Byte) (h : Acts b s0 s) :
    Acts b s0 (setNightPolicy ps s).1 := by
  unfold setNightPolicy; split
  · exact Acts.foldl _ _ (fun _ _ h => h.expo he _ _) h
  · exact h

/-! ### Statistics Unit and Glare Map Engine -/

theorem compareMeans_acts (hs : b.stats = true) (sd : Side) (h : Acts b s0 s) : Acts b s0 (compareMeans sd s) := by
  unfold compareMeans; dsimp only
  refine Acts.stats hs _ _ ?_
  split
  · exact h
  · split
    · exact h.stats hs _ _
    · exact (h.stats hs _ _).clear _ _

theorem raiseFrozen_acts (sd : Side) (h : Acts b s0 s) : Acts b s0 (raiseFrozen sd s) := by
  unfold raiseFrozen; split
  · exact h.raise _ _ _ rfl (by cases sd <;> rfl)
  · exact h

theorem stageStatistics_acts (hs : b.stats = true) (sd : Side) (f : AcceptedFrame) (h : Acts b s0 s) :
    Acts b s0 (stageStatistics sd f s) := by
  unfold stageStatistics; dsimp only; split
  · exact h.stats hs _ _
  · exact raiseFrozen_acts _ (compareMeans_acts hs _ (h.stats hs _ _))

theorem stageGlare_acts (hg : b.glare = true) (sd : Side) (f : AcceptedFrame) (h : Acts b s0 s) :
    Acts b s0 (stageGlare sd f s) := by
  unfold stageGlare; dsimp only; split
  · exact h
  · exact h.glare hg _ _

/-! ### Recorder -/

theorem acceptTriggers_acts (hr : b.recorder = true) (sd : Side) (x : SourceSet) (cs : List FaultCode) (n : Nat)
    (c : Bool) (h : Acts b s0 s) : Acts b s0 (acceptTriggers sd x cs n c s) := by
  unfold acceptTriggers; dsimp only; split
  · exact (h.recorder hr _ _).recorder hr _ _
  · exact h.recorder hr _ _

theorem acceptWaiting_acts (hr : b.recorder = true) (sd : Side) (n : Nat) (c : Bool) (h : Acts b s0 s) :
    Acts b s0 (acceptWaiting sd n c s) := acceptTriggers_acts hr _ _ _ _ _ (h.recorder hr _ _)

theorem loseWaiting_acts (hr : b.recorder = true) (sd : Side) (h : Acts b s0 s) : Acts b s0 (loseWaiting sd s) := by
  unfold loseWaiting
  exact Acts.foldl _ _ (fun _ _ h => h.lose _ _) ((h.drawOrder _).recorder hr _ _)

theorem freeze_acts (hr : b.recorder = true) (sd : Side) (k : Capture) (h : Acts b s0 s) :
    Acts b s0 (freeze sd k s) := by
  unfold freeze; dsimp only
  split
  · exact loseWaiting_acts hr _ (((h.recorder hr _ _).notifyBoth _).recorder hr _ _)
  · split
    · exact ((h.recorder hr _ _).notifyBoth _).recorder hr _ _
    · exact acceptWaiting_acts hr _ _ _ (((h.recorder hr _ _).notifyBoth _).recorder hr _ _)

theorem completeCapture_acts (hr : b.recorder = true) (sd : Side) (h : Acts b s0 s) :
    Acts b s0 (completeCapture sd s) := by
  unfold completeCapture; split
  · exact h
  · split
    · exact freeze_acts hr _ _ h
    · exact h.recorder hr _ _

theorem writeDigest_acts (hr : b.recorder = true) (sd : Side) (d : Digest) (h : Acts b s0 s) :
    Acts b s0 (writeDigest sd d s) := by
  unfold writeDigest; dsimp only
  (repeat' split) <;> first
    | exact h
    | exact h.recorder hr _ _
    | exact (h.recorder hr _ _).recorder hr _ _
    | exact acceptWaiting_acts hr _ _ _ (h.recorder hr _ _)
    | exact completeCapture_acts hr _ (h.recorder hr _ _)

/-! ### Frame completion -/

theorem stageOffer_acts (hv : b.view = true) (sd : Side) (f : AcceptedFrame) (h : Acts b s0 s) :
    Acts b s0 (stageOffer sd f s) := by
  unfold stageOffer; dsimp only; split
  · unfold countRecover; dsimp only; split
    · exact ((h.view hv _ _).view hv _ _).clear _ _
    · exact (h.view hv _ _).view hv _ _
  · exact h.view hv _ _

/-- What frame completion may change by its own rules. -/
abbrev completionTouch : Touch :=
  { clr := true, inputs := true, stats := true, expo := true, glare := true, view := true, recorder := true }

theorem stageWork_acts (sd : Side) (c : Completion) (h : Acts completionTouch s0 s) :
    Acts completionTouch s0 (stageWork sd c s).1 := by
  unfold stageWork
  split
  · exact stageStatistics_acts rfl _ _ h
  · exact stageGlare_acts rfl _ _ h
  · exact stageExposure_acts rfl rfl _ _ h
  · exact stageDayNight_acts rfl rfl _ _ h
  · exact writeDigest_acts rfl _ _ h
  · exact stageOffer_acts rfl _ _ h

theorem runStages_acts (sd : Side) (n : Nat) (h : Acts completionTouch s0 s) :
    Acts completionTouch s0 (runStages sd n s) := by
  induction n generalizing s with
  | zero => exact h
  | succ n ih =>
    unfold runStages; split
    · exact h
    · rename_i c _
      exact ih (Acts.inputs rfl sd (fun x => { x with running := moveOn c (stageWork sd c s).2 }) (fun _ => rfl)
        (stageWork_acts sd c h))

/-- A pause is taken from the state, or none is held. -/
theorem takePause_state (s : State) : (takePause s).2 = s ∨ ∃ l, (takePause s).2 = { s with pauses := l } := by
  unfold takePause; split
  · exact .inl rfl
  · exact .inr ⟨_, rfl⟩

theorem Acts.takePause (h : Acts b s0 s) : Acts b s0 (takePause s).2 := by
  rcases takePause_state s with e | ⟨l, e⟩ <;> rw [e]
  · exact h
  · exact h.pause _

theorem startCompletion_acts (hi : b.inputs = true) (sd : Side) (h : Acts b s0 s) : Acts b s0 (startCompletion sd s) := by
  unfold startCompletion; split
  · exact h.inputs hi _ _ fun _ => rfl
  · exact h

theorem runCompletion_acts (sd : Side) : Acts completionTouch s (runCompletion sd s) := by
  have h : Acts completionTouch s (startCompletion sd s) := startCompletion_acts rfl _ .refl
  unfold runCompletion; dsimp only; split
  · exact h
  · exact runStages_acts _ _ h.takePause

theorem runDropped_acts (sd : Side) : Acts { inputs := true, recorder := true } s (runDropped sd s) := by
  unfold runDropped; split
  · exact writeDigest_acts rfl _ _ (Acts.inputs rfl _ _ (fun _ => rfl) .refl)
  · exact .refl

/-! ### Camera Link Receiver and Test Image Source -/

theorem handCamera_acts (hi : b.inputs = true) (sd : Side) (i : CompletionInput) (h : Acts b s0 s) :
    Acts b s0 (handCamera sd i s) := by
  refine Acts.inputs hi sd _ (fun x => ?_) h
  split <;> rfl

theorem pushWindow_acts (hc : b.clr = true) (sd : Side) (n : Nat) (h : Acts b s0 s) : Acts b s0 (pushWindow sd n s) := by
  unfold pushWindow; dsimp only
  split
  · exact (h.clr hc _ _).raise _ _ _ rfl (by cases sd <;> rfl)
  · split
    · exact (h.clr hc _ _).clear _ _
    · exact h.clr hc _ _

theorem checkTemperature_acts (sd : Side) (x : Header) (h : Acts b s0 s) : Acts b s0 (checkTemperature sd x s) := by
  unfold checkTemperature; dsimp only
  split
  · exact h.raise _ _ _ rfl (by cases sd <;> rfl)
  · split
    · exact h.clear _ _
    · exact h

theorem dropFrame_acts (hc : b.clr = true) (hi : b.inputs = true) (sd : Side) (h : Acts b s0 s) :
    Acts b s0 (dropFrame sd s) := by
  unfold dropFrame; dsimp only; split
  · exact pushWindow_acts hc _ _ (h.clr hc _ _)
  · exact handCamera_acts hi _ _ (pushWindow_acts hc _ _ (h.clr hc _ _))

theorem closeFrame_acts (hc : b.clr = true) (sd : Side) (h : Acts b s0 s) : Acts b s0 (closeFrame sd s) := h.clr hc _ _

theorem discardFrame_acts (hc : b.clr = true) (sd : Side) (h : Acts b s0 s) : Acts b s0 (discardFrame sd s) :=
  h.clr hc _ _

theorem openFrame_acts (hc : b.clr = true) (hi : b.inputs = true) (sd : Side) (x : Header) (h : Acts b s0 s) :
    Acts b s0 (openFrame sd x s) := by
  unfold openFrame; dsimp only; split
  · exact checkTemperature_acts _ _ ((h.clr hc _ _).clr hc _ _)
  · exact discardFrame_acts hc _ (dropFrame_acts hc hi _ (h.clr hc _ _))

theorem countContinuous_acts (hc : b.clr = true) (sd : Side) (h : Acts b s0 s) : Acts b s0 (countContinuous sd s) := by
  unfold countContinuous; dsimp only; split
  · exact (h.clr hc _ _).clear _ _
  · exact h.clr hc _ _

theorem checkContinuity_acts (hc : b.clr = true) (sd : Side) (n : FrameNumber) (h : Acts b s0 s) :
    Acts b s0 (checkContinuity sd n s) := by
  unfold checkContinuity; dsimp only
  refine Acts.clr hc _ _ ?_
  split
  · exact countContinuous_acts hc _ h
  · split
    · exact countContinuous_acts hc _ h
    · exact (h.clr hc _ _).raise _ _ _ rfl (by cases sd <;> rfl)

theorem acceptFrame_acts (hc : b.clr = true) (hi : b.inputs = true) (he : b.expo = true) (sd : Side) (x : Header)
    (h : Acts b s0 s) : Acts b s0 (acceptFrame sd x s) :=
  handCamera_acts hi _ _ (headerReport_acts he _ _ _ _ _
    (checkContinuity_acts hc _ _ (pushWindow_acts hc _ _ (h.clr hc _ _))))

/-- What a packet or an event of the camera link may change by its own rules. -/
abbrev cameraTouch : Touch := { clr := true, inputs := true, expo := true }

theorem takeFrameStart_acts (sd : Side) (x : Header) : Acts cameraTouch s (takeFrameStart sd x s) := by
  unfold takeFrameStart; dsimp only
  (repeat' split) <;> first
    | exact .refl
    | exact openFrame_acts rfl rfl _ _ .refl
    | exact openFrame_acts rfl rfl _ _ (dropFrame_acts rfl rfl _ .refl)

theorem takeLine_acts (sd : Side) (i : BitVec 16) (px : List Byte) (crc : BitVec 16) :
    Acts cameraTouch s (takeLine sd i px crc s) := by
  unfold takeLine; dsimp only
  (repeat' split) <;> first
    | exact .refl
    | exact Acts.clr rfl _ _ .refl
    | exact discardFrame_acts rfl _ (dropFrame_acts rfl rfl _ .refl)

theorem takeFrameEnd_acts (sd : Side) (n : BitVec 16) : Acts cameraTouch s (takeFrameEnd sd n s) := by
  unfold takeFrameEnd; dsimp only
  (repeat' split) <;> first
    | exact .refl
    | exact closeFrame_acts rfl _ .refl
    | exact closeFrame_acts rfl _ (acceptFrame_acts rfl rfl rfl _ _ .refl)
    | exact closeFrame_acts rfl _ (dropFrame_acts rfl rfl _ .refl)

theorem cameraLock_acts (sd : Side) : Acts cameraTouch s (cameraLock sd s) := by
  unfold cameraLock; split
  · exact .refl
  · exact (Acts.clr rfl _ _ .refl).clear _ _

theorem cameraUnlock_acts (sd : Side) : Acts cameraTouch s (cameraUnlock sd s) := by
  have hr : Acts cameraTouch s (sendRaise .linkLoss (faultSideOf sd) 0 (s.modClr sd fun c => { c with locked := false })) :=
    (Acts.clr rfl _ _ .refl).raise _ _ _ rfl (by cases sd <;> rfl)
  unfold cameraUnlock; dsimp only
  split
  · exact .refl
  · refine Acts.clr rfl _ _ (closeFrame_acts rfl _ ?_)
    split
    · exact dropFrame_acts rfl rfl _ hr
    · exact hr

theorem testFrameEnd_acts (sd : Side) : Acts { inputs := true } s (testFrameEnd sd s) := by
  unfold testFrameEnd; dsimp only; split
  · exact Acts.inputs rfl _ _ (fun _ => rfl) .refl
  · exact .refl

theorem testImage_acts (hp : b.pattern = true) (ps : List Byte) (h : Acts b s0 s) : Acts b s0 (testImage ps s).1 := by
  unfold testImage
  (repeat' split) <;> (try dsimp only) <;> first
    | exact h
    | exact Acts.foldl _ _ (fun _ _ h => h.clearTest _) h
    | exact Acts.foldl _ _ (fun _ _ h => h.setTest _) (h.pattern hp _)

/-! ### View Composer and Display Link Transmitter -/

theorem changeView_acts (hv : b.view = true) (sd : Side) (v : ViewState) (h : Acts b s0 s) :
    Acts b s0 (changeView sd v s) := by
  unfold changeView; split
  · exact h
  · exact (h.view hv _ _).notifyBoth _

theorem enterInvalid_acts (hv : b.view = true) (sd : Side) (h : Acts b s0 s) : Acts b s0 (enterInvalid sd s) :=
  (changeView_acts hv _ _ h).view hv _ _

theorem raiseStale_acts (hv : b.view = true) (sd : Side) (d : BitVec 16) (h : Acts b s0 s) :
    Acts b s0 (raiseStale sd d s) := (h.view hv _ _).raise _ _ _ rfl (by cases sd <;> rfl)

theorem takeLive_acts (hv : b.view = true) (sd : Side) (h : Acts b s0 s) : Acts b s0 (takeLive sd s) :=
  (changeView_acts hv _ _ h).view hv _ _

theorem decideView_acts (hv : b.view = true) (sd : Side) (h : Acts b s0 s) : Acts b s0 (decideView sd s).1 := by
  unfold decideView decideStarting decideShowing decideInvalid decideTest; dsimp only
  (repeat' split) <;> (try dsimp only) <;> first
    | exact h
    | exact h.view hv _ _
    | exact enterInvalid_acts hv _ h
    | exact takeLive_acts hv _ h
    | exact raiseStale_acts hv _ _ (enterInvalid_acts hv _ h)
    | exact raiseStale_acts hv _ _ (enterInvalid_acts hv _ (h.view hv _ _))
    | exact raiseStale_acts hv _ _ (h.view hv _ _)
    | exact (changeView_acts hv _ _ (h.view hv _ _)).view hv _ _

theorem formOutput_acts (hv : b.view = true) (sd : Side) (o : Output) (h : Acts b s0 s) :
    Acts b s0 (formOutput sd o s).1 := by
  unfold formOutput; split <;> dsimp only
  · exact h.view hv _ _
  · exact h
  · exact h
  · exact h

theorem raiseLink_acts (sd : Side) (c : BitVec 16) (h : Acts b s0 s) : Acts b s0 (raiseLink sd c s) :=
  (h.raise _ _ _ rfl (by cases sd <;> rfl)).notifyBoth _

theorem countMismatch_acts (hd : b.dlt = true) (sd : Side) (h : Acts b s0 s) : Acts b s0 (countMismatch sd s) := by
  unfold countMismatch; dsimp only; split
  · exact (h.dlt hd _ _).raise _ _ _ rfl (by cases sd <;> rfl)
  · exact h.dlt hd _ _

theorem countMatch_acts (hd : b.dlt = true) (sd : Side) (h : Acts b s0 s) : Acts b s0 (countMatch sd s) := by
  unfold countMatch; dsimp only; split
  · exact (h.dlt hd _ _).clear _ _
  · exact h.dlt hd _ _

theorem matchReturn_acts (hd : b.dlt = true) (sd : Side) (tag : Byte) (sig : BitVec 32) (h : Acts b s0 s) :
    Acts b s0 (matchReturn sd tag sig s) := by
  unfold matchReturn; dsimp only
  split
  · exact countMismatch_acts hd _ h
  · have h2 := Acts.foldl (fun s _ => countMismatch sd s)
      ((s.side sd).dlt.sent.takeWhile fun e => !(e.tag == tag)) (fun _ _ h => countMismatch_acts hd sd h)
      (h.dlt hd sd fun d => { d with sent := ‹List SentFrame› })
    split
    · exact countMatch_acts hd _ h2
    · exact countMismatch_acts hd _ h2

theorem monitorFlags_acts (hd : b.dlt = true) (sd : Side) (a c f : BitVec 16) (h : Acts b s0 s) :
    Acts b s0 (monitorFlags sd a c f s) := by
  unfold monitorFlags; dsimp only; split
  · exact (h.dlt hd _ _).clear _ _
  · exact (h.dlt hd _ _).raise _ _ _ rfl (by cases sd <;> rfl)

/-- What an event of the display link may change by its own rules. -/
abbrev displayTouch : Touch := { dlt := true }

theorem takeReturn_acts (sd : Side) (tag : Byte) (sig : BitVec 32) (a c f : BitVec 16) :
    Acts displayTouch s (takeReturn sd tag sig a c f s) := by
  unfold takeReturn; dsimp only; split
  · have h : Acts displayTouch s (matchReturn sd tag sig s) := matchReturn_acts rfl _ _ _ .refl
    unfold setBacklight; dsimp only
    exact (monitorFlags_acts rfl sd a c f h).dlt rfl _ _
  · exact .refl

theorem monitorWord_acts (sd : Side) (w : Byte) : Acts displayTouch s (monitorWord sd w s) := by
  unfold monitorWord wordInOffer wordInConfirm wordInUp; dsimp only
  (repeat' split) <;> first
    | exact .refl
    | exact Acts.dlt rfl _ _ .refl
    | exact (Acts.dlt rfl _ _ .refl).dlt rfl _ _
    | exact raiseLink_acts _ _ (Acts.dlt rfl _ _ (Acts.dlt rfl _ _ .refl))
    | exact raiseLink_acts _ _ (Acts.dlt rfl _ _ .refl)
    | exact (Acts.dlt rfl _ _ .refl).clear _ _

theorem backLockAcquired_acts (sd : Side) : Acts displayTouch s (backLockAcquired sd s) := by
  unfold backLockAcquired; split
  · exact .refl
  · exact Acts.dlt rfl _ _ .refl

theorem backLockLost_acts (sd : Side) : Acts displayTouch s (backLockLost sd s) := by
  unfold backLockLost; dsimp only
  (repeat' split) <;> first
    | exact .refl
    | exact raiseLink_acts _ _ (Acts.dlt rfl _ _ .refl)
    | exact Acts.dlt rfl _ _ .refl

theorem upDeadlineExpiry_acts (sd : Side) : Acts displayTouch s (upDeadlineExpiry sd s) := by
  unfold upDeadlineExpiry; split
  · exact raiseLink_acts _ _ (Acts.dlt rfl _ _ .refl)
  · exact .refl

theorem pushOutSent_acts (hd : b.dlt = true) (sd : Side) (h : Acts b s0 s) : Acts b s0 (pushOutSent sd s) := by
  unfold pushOutSent; split
  · split
    · exact countMismatch_acts hd _ (h.dlt hd _ _)
    · exact h
  · exact h

theorem takeFrame_acts (hd : b.dlt = true) (sd : Side) (codes : List Byte) (h : Acts b s0 s) :
    Acts b s0 (takeFrame sd codes s) := by
  unfold takeFrame; split
  · exact pushOutSent_acts hd _ (h.dlt hd _ _)
  all_goals exact h.dlt hd _ _

theorem outputStart_acts (sd : Side) : Acts { view := true, dlt := true } s (outputStart sd s) :=
  takeFrame_acts rfl _ _ ((formOutput_acts rfl _ _ (decideView_acts rfl _ (Acts.view rfl _ _ .refl))).dlt rfl _ _)

theorem setViewOffset_acts (hv : b.view = true) (ps : List Byte) (h : Acts b s0 s) :
    Acts b s0 (setViewOffset ps s).1 := by
  unfold setViewOffset; split
  · exact h
  · exact Acts.foldl _ _ (fun _ _ h => h.view hv _ _) h

theorem setBrightness_acts (hd : b.dlt = true) (ps : List Byte) (h : Acts b s0 s) :
    Acts b s0 (setBrightness ps s).1 := by
  unfold setBrightness; split
  · exact h
  · exact Acts.foldl _ _ (fun _ _ h => h.dlt hd _ _) h

/-! ### Recorder commands -/

theorem takeCross_acts (sd : Side) : Acts { recorder := true } s (takeCross sd s) := by
  unfold takeCross; split
  · exact .refl
  · exact (Acts.recorder rfl _ _ .refl).trigger _ _

theorem eventRise_acts : Acts { pins := true } s (eventRise s) := by
  unfold eventRise; split
  · exact .refl
  · exact Acts.whileRunning _ (Acts.handTriggers _ _) (Acts.eventIn rfl _ .refl)

theorem triggerCapture_acts (p : Port) (ps : List Byte) (h : Acts b s0 s) : Acts b s0 (triggerCapture p ps s).1 := by
  unfold triggerCapture; split
  · exact h
  · exact h.handTriggers _ _

theorem recorderRequest_acts (hr : b.recorder = true) (p : Port) (ps : List Byte) (h : Acts b s0 s) :
    Acts b s0 (readCaptureHeader p ps s).1 ∧ Acts b s0 (readCaptureNext p ps s).1
      ∧ Acts b s0 (releaseCapture ps s).1 ∧ Acts b s0 (captureControl ps s).1
      ∧ Acts b s0 (setCaptureParams ps s).1 ∧ Acts b s0 (clearCapture ps s).1 := by
  unfold readCaptureHeader readCaptureNext releaseCapture captureControl setCaptureParams clearCapture
  dsimp only
  refine ⟨?_, ?_, ?_, ?_, ?_, ?_⟩ <;> (repeat' split) <;> (try dsimp only) <;> first
    | exact h
    | exact h.recorder hr _ _

/-! ### Vehicle, Time Base, fault table, ports -/

theorem tick_acts : Acts { time := true, vehicle := true } s (tick s) := by
  have h : Acts { time := true, vehicle := true } s { s with time := nextStamp s.time } := Acts.time rfl _ .refl
  unfold tick; split
  · exact .refl
  all_goals exact h.vehicle rfl _

theorem setVehicleState_acts (hv : b.vehicle = true) (ps : List Byte) (h : Acts b s0 s) :
    Acts b s0 (setVehicleState ps s).1 := by
  unfold setVehicleState storeRecord; dsimp only
  (repeat' split) <;> (try dsimp only) <;> first
    | exact h
    | exact (h.vehicle hv _).clear _ _
    | exact ((h.vehicle hv _).clear _ _).endTests

theorem vehicleExpiry_acts (hv : b.vehicle = true) (h : Acts b s0 s) : Acts b s0 (vehicleExpiry s) := by
  unfold vehicleExpiry; dsimp only; split
  · exact ((h.vehicle hv _).raise _ _ _ rfl rfl).endTests
  · exact h

theorem ackFault_acts (hm : b.marks = true) (p : Port) (ps : List Byte) (h : Acts b s0 s) :
    Acts b s0 (ackFault p ps s).1 := by
  unfold ackFault; dsimp only
  (repeat' split) <;> (try dsimp only) <;> first
    | exact h
    | exact h.mark hm _ _ _ (by simpa using ‹¬(!masterIn (audienceOf _) p) = true›)

theorem readCounters_acts (hp : b.ports = true) (p : Port) (ps : List Byte) (h : Acts b s0 s) :
    Acts b s0 (readCounters p ps s).1 := by
  unfold readCounters; split
  · exact h
  · exact h.port hp _ _

theorem portEvent_acts (p : Port) (bytes : List Byte) :
    Acts { ports := true } s (chipSelectFall p s) ∧ Acts { ports := true } s (s.modPort p slotReady)
      ∧ Acts { ports := true } s (discardRequest p s) ∧ Acts { ports := true } s (takeBadFrame p bytes s) := by
  unfold chipSelectFall discardRequest takeBadFrame
  refine ⟨?_, Acts.port rfl _ _ .refl, ?_, ?_⟩ <;> (repeat' split) <;> first
    | exact .refl
    | exact Acts.port rfl _ _ .refl
    | exact (Acts.endTransaction rfl p .refl).prepareReply rfl p _

/-! ### Calibration Store -/

theorem storeRequest_acts (hs : b.store = true) (ps : List Byte) (h : Acts b s0 s) :
    Acts b s0 (calStage ps s).1 ∧ Acts b s0 (calDiscard s).1 ∧ Acts b s0 (calProtect ps s).1
      ∧ Acts b s0 (calProgram s).1 := by
  unfold calStage calDiscard calProtect calProgram
  dsimp only
  refine ⟨?_, ?_, ?_, ?_⟩ <;> (repeat' split) <;> (try dsimp only) <;> first
    | exact h
    | exact h.store hs _ fun _ => rfl

theorem endPeriod_acts (hs : b.store = true) (x y : RegionSet) (h : Acts b s0 s) : Acts b s0 (endPeriod x y s) :=
  (h.store hs (fun st => { st with stored := programmedImage s.freeIndex x y st, programming := none })
    fun _ => rfl).draw _

theorem finishProgramming_acts (hs : b.store = true) (c : ProgramFailure) (x y : RegionSet) (h : Acts b s0 s) :
    Acts b s0 (finishProgramming c x y s) := by
  unfold finishProgramming reportFailure
  refine Acts.notify _ _ ?_
  split
  · exact endPeriod_acts hs _ _ h
  · exact (endPeriod_acts hs _ _ h).event _ _ _ rfl rfl

theorem periodEnd_acts (x : RegionSet) : Acts { store := true } s (periodEnd x s) := by
  unfold periodEnd; split
  · exact .refl
  · exact finishProgramming_acts rfl _ _ _ .refl

theorem supplyFall_acts : Acts { store := true, pins := true } s (supplyFall s) := by
  unfold supplyFall; dsimp only; split
  · exact Acts.supplyOk rfl _ .refl
  · exact finishProgramming_acts rfl _ _ _ (Acts.supplyOk rfl _ .refl)

end Sys2Proof.Machine
end

