-- ==== Sys2Proof/Laws/Bytes.lean ====
section
/-! SUPPORT. Numbers and the bytes that carry them: each read back as written. -/

namespace Sys2Proof.Machine

theorem bytesOfNat_length (n v : Nat) : (bytesOfNat n v).length = n := by
  induction n with
  | zero => rfl
  | succ n ih => simp [bytesOfNat, ih]

theorem natOfBytes_foldl (l : List Byte) (a : Nat) :
    l.foldl (fun acc b => acc * 256 + b.toNat) a = a * 256 ^ l.length + natOfBytes l := by
  induction l generalizing a with
  | nil => simp [natOfBytes]
  | cons x l ih =>
    have h : natOfBytes (x :: l) = x.toNat * 256 ^ l.length + natOfBytes l := by
      conv_lhs => unfold natOfBytes
      rw [List.foldl_cons, ih]; simp
    rw [List.foldl_cons, ih, h, List.length_cons, pow_succ]
    ring

theorem natOfBytes_cons (x : Byte) (l : List Byte) :
    natOfBytes (x :: l) = x.toNat * 256 ^ l.length + natOfBytes l := by
  unfold natOfBytes; rw [List.foldl_cons, natOfBytes_foldl]; simp [natOfBytes]

theorem natOfBytes_lt (l : List Byte) : natOfBytes l < 256 ^ l.length := by
  induction l with
  | nil => simp [natOfBytes]
  | cons x l ih =>
    rw [natOfBytes_cons, List.length_cons, pow_succ]
    have := x.isLt
    have h := Nat.mul_le_mul_right (256 ^ l.length) (show x.toNat + 1 ≤ 256 by omega)
    rw [Nat.add_mul] at h
    rw [Nat.mul_comm (256 ^ l.length)]
    omega

/-- Only the low n bytes of a number are written. -/
theorem bytesOfNat_add (n a v : Nat) : bytesOfNat n (a * 256 ^ n + v) = bytesOfNat n v := by
  induction n generalizing a with
  | zero => rfl
  | succ n ih =>
    have hp : 0 < 256 ^ n := Nat.pos_of_ne_zero (by simp)
    have h1 : a * 256 ^ (n + 1) + v = v + 256 ^ n * (a * 256) := by rw [pow_succ]; ring
    have h2 : a * 256 ^ (n + 1) + v = a * 256 * 256 ^ n + v := by rw [pow_succ]; ring
    unfold bytesOfNat
    refine congrArg₂ _ ?_ ?_
    · rw [h1, Nat.add_mul_div_left _ _ hp]
      apply BitVec.eq_of_toNat_eq
      simp only [BitVec.toNat_ofNat]
      omega
    · rw [h2, ih]

/-- The bytes of the number that bytes hold are those bytes. -/
theorem bytesOfNat_natOfBytes (l : List Byte) : bytesOfNat l.length (natOfBytes l) = l := by
  induction l with
  | nil => rfl
  | cons x l ih =>
    rw [List.length_cons, bytesOfNat]
    refine congrArg₂ _ ?_ ?_
    · rw [natOfBytes_cons, Nat.add_comm, Nat.add_mul_div_right _ _ (Nat.pos_of_ne_zero (by simp)),
        Nat.div_eq_of_lt (natOfBytes_lt l)]
      simp
    · rw [natOfBytes_cons, bytesOfNat_add, ih]

/-- The number that the bytes of a number hold is its low part. -/
theorem natOfBytes_bytesOfNat (n v : Nat) : natOfBytes (bytesOfNat n v) = v % 256 ^ n := by
  induction n with
  | zero => simp [bytesOfNat, natOfBytes, Nat.mod_one]
  | succ n ih =>
    have h : v % 256 ^ (n + 1) = v % 256 ^ n + 256 ^ n * (v / 256 ^ n % 2 ^ 8) := by
      rw [Nat.pow_succ 256, Nat.mod_mul]; norm_num
    rw [bytesOfNat, natOfBytes_cons, ih, bytesOfNat_length, BitVec.toNat_ofNat, h, Nat.add_comm, Nat.mul_comm]

theorem field_eq (b : List Byte) (o n : Nat) (h : o + n ≤ b.length) : field b o n = natOfBytes ((b.drop o).take n) := by
  unfold field
  congr 1
  apply List.ext_getElem
  · simp; omega
  · intro i h1 h2
    simp only [List.length_map, List.length_range] at h1
    simp [List.getD_eq_getElem?_getD, List.getElem?_eq_getElem (show o + i < b.length by omega)]

/-- A field written back is the bytes it was read from. -/
theorem bytesOfNat_field (b : List Byte) (o n : Nat) (h : o + n ≤ b.length) :
    bytesOfNat n (field b o n) = (b.drop o).take n := by
  rw [field_eq b o n h]
  have hl : ((b.drop o).take n).length = n := by simp; omega
  have := bytesOfNat_natOfBytes ((b.drop o).take n)
  rwa [hl] at this

/-- A row of fields written back is the bytes it was read from. -/
theorem bytesOfNat_fields (b : List Byte) (w o count : Nat) (h : o + w * count ≤ b.length) :
    ((List.range count).flatMap fun i => bytesOfNat w (field b (o + w * i) w)) = (b.drop o).take (w * count) := by
  induction count with
  | zero => simp
  | succ c ih =>
    rw [Nat.mul_succ] at h
    rw [List.range_succ, List.flatMap_append, ih (by omega), List.flatMap_singleton, bytesOfNat_field _ _ _ (by omega),
      Nat.mul_succ, List.take_add, List.drop_drop]

end Sys2Proof.Machine
end

