-- ==== Sys2Proof/Laws/Requests.lean ====
section
/-! SUPPORT. What taking a request can do (R161, R163), what runs while the blocks run, and how changes of one part of the
state compose. -/

namespace Sys2Proof.Machine

/-- A request of the right length on a port that may issue it, in a transaction begun on READY, is answered by its
block. -/
theorem takeRequest_reaches (s : State) (p : Port) (c : RequestCode) (tag : BitVec 4) (ps : List Byte)
    (body : State → State × Answer) (h : Reaches s p c) (hl : lengthOk c ps.length = true) :
    takeRequest p c tag ps body s = answered p c tag (body s).2.status (body s).2.payload (body s).1 := by
  unfold takeRequest
  rw [h.1]
  simp only [examine, h.2, hl]
  cases p <;> rfl

/-- The same for a request of no group. -/
theorem takeRequest_open (s : State) (p : Port) (c : RequestCode) (tag : BitVec 4) (ps : List Byte)
    (body : State → State × Answer) (hg : groupOf c = none) (h : (s.port p).txn = .onReady)
    (hl : lengthOk c ps.length = true) :
    takeRequest p c tag ps body s = answered p c tag (body s).2.status (body s).2.payload (body s).1 :=
  takeRequest_reaches s p c tag ps body ⟨h, by simp [authorised, hg]⟩ hl

theorem whileRunning_running (f : State → State) (s : State) (h : blocksRun s.phase = true) : whileRunning f s = f s := by
  simp [whileRunning, h]

theorem whileRunning_held (f : State → State) (s : State) (h : blocksRun s.phase = false) : whileRunning f s = s := by
  simp [whileRunning, h]

/-! ### Composition -/

theorem modSide_modSide (s : State) (sd : Side) (f g : SideState → SideState) :
    (s.modSide sd f).modSide sd g = s.modSide sd fun x => g (f x) := by cases sd <;> rfl

theorem modSide_self (s : State) (sd : Side) (f : SideState → SideState) (h : f (s.side sd) = s.side sd) :
    s.modSide sd f = s := by
  cases sd <;> simp only [State.modSide, State.withSide, State.side] at * <;> rw [h]

theorem modSide_congr (s : State) (sd : Side) (f g : SideState → SideState) (h : f (s.side sd) = g (s.side sd)) :
    s.modSide sd f = s.modSide sd g := by
  cases sd <;> simp only [State.modSide, State.withSide, State.side] at * <;> rw [h]

theorem modPort_modPort (s : State) (p : Port) (f g : PortState → PortState) :
    (s.modPort p f).modPort p g = s.modPort p fun x => g (f x) := by cases p <;> rfl

/-- Changes of a side and of a port do not meet. -/
theorem modPort_modSide (s : State) (p : Port) (sd : Side) (f : PortState → PortState) (g : SideState → SideState) :
    (s.modPort p f).modSide sd g = (s.modSide sd g).modPort p f := by cases p <;> cases sd <;> rfl

end Sys2Proof.Machine
end

