-- ==== Sys2Proof/Laws/Reports.lean ====
section
/-! SUPPORT. What a report of DEGRADED or INFO severity and a trigger can change: the table, the recorders and the free
choices drawn, and nothing else (R114 to R116, R138 to R142). -/

namespace Sys2Proof.Machine

theorem SameButReports.refl (s : State) : SameButReports s s := by
  refine ⟨rfl, rfl, rfl, rfl, rfl, rfl, rfl, rfl, rfl, fun _ => rfl, fun sd => by cases sd <;> rfl⟩

theorem SameButReports.trans {s t u : State} (h : SameButReports s t) (k : SameButReports t u) : SameButReports s u := by
  obtain ⟨a1, a0, a2, a3, a4, a5, a6, a7, a8, a9, a10⟩ := h
  obtain ⟨b1, b0, b2, b3, b4, b5, b6, b7, b8, b9, b10⟩ := k
  refine ⟨b1.trans a1, b0.trans a0, b2.trans a2, b3.trans a3, b4.trans a4, b5.trans a5, b6.trans a6, b7.trans a7, b8.trans a8,
    fun p => (b9 p).trans (a9 p), fun sd => ?_⟩
  rw [← a10 sd, ← b10 sd]

theorem sameButReports_table (s : State) (t : FaultTable) : SameButReports s { s with table := t } :=
  ⟨rfl, rfl, rfl, rfl, rfl, rfl, rfl, rfl, rfl, fun p => by cases p <;> rfl, fun sd => by cases sd <;> rfl⟩

theorem sameButReports_free (s : State) (n : Nat) : SameButReports s { s with freeIndex := n } :=
  ⟨rfl, rfl, rfl, rfl, rfl, rfl, rfl, rfl, rfl, fun p => by cases p <;> rfl, fun sd => by cases sd <;> rfl⟩

theorem sameButReports_rec (s : State) (sd : Side) (f : Recorder → Recorder) : SameButReports s (s.modRec sd f) := by
  cases sd <;>
  exact ⟨rfl, rfl, rfl, rfl, rfl, rfl, rfl, rfl, rfl, fun p => by cases p <;> rfl, fun sd => by cases sd <;> rfl⟩

theorem loseTrigger_same (s : State) (sd : Side) (src : TriggerSource) : SameButReports s (loseTrigger sd src s) :=
  (sameButReports_table s _).trans (sameButReports_rec _ _ _)

theorem acceptTriggers_same (s : State) (sd : Side) (x : SourceSet) (cs : List FaultCode) (n : Nat) (c : Bool) :
    SameButReports s (acceptTriggers sd x cs n c s) := by
  unfold acceptTriggers
  simp only
  split
  · exact (sameButReports_rec _ _ _).trans (sameButReports_rec _ _ _)
  · exact sameButReports_rec _ _ _

/-- R138: a trigger reaches the table and the recorders alone. -/
theorem takeTrigger_same (s : State) (sd : Side) (trg : Trigger) : SameButReports s (takeTrigger sd trg s) := by
  unfold takeTrigger
  simp only
  split
  · exact .refl s
  · split
    · exact loseTrigger_same _ _ _
    · exact sameButReports_rec _ _ _
  · exact acceptTriggers_same _ _ _ _ _ _
  · split <;> exact sameButReports_rec _ _ _
  · exact loseTrigger_same _ _ _

theorem foldl_same {α : Type} (f : State → α → State) (h : ∀ s a, SameButReports s (f s a)) (l : List α) (s : State) :
    SameButReports s (l.foldl f s) := by
  induction l generalizing s with
  | nil => exact .refl s
  | cons a l ih => exact (h s a).trans (ih _)

theorem handTriggers_same (s : State) (trg : Trigger) (l : List Side) : SameButReports s (handTriggers trg l s) := by
  unfold handTriggers drawOrder
  by_cases h : l.length ≤ 1
  · simp only [h, if_true]
    exact foldl_same _ (fun s a => takeTrigger_same s a trg) _ _
  · simp only [h, if_false]
    exact (sameButReports_free s _).trans (foldl_same _ (fun s a => takeTrigger_same s a trg) _ _)

theorem faultTriggers_same (s : State) (c : FaultCode) (sd : FaultSide) : SameButReports s (faultTriggers c sd s) := by
  unfold faultTriggers; split
  · exact handTriggers_same _ _ _
  · exact .refl s

/-- R114, R112: a raise of a code that is no VIEW_LOSS. -/
theorem sendRaise_same (s : State) (c : FaultCode) (sd : FaultSide) (d : BitVec 16) (h : severityOf c ≠ .viewLoss) :
    SameButReports s (sendRaise c sd d s) := by
  unfold sendRaise; split
  · unfold afterOnset; rw [if_neg h]
    exact (sameButReports_table s _).trans (faultTriggers_same _ _ _)
  · exact .refl s

theorem sendClear_same (s : State) (c : FaultCode) (sd : FaultSide) : SameButReports s (sendClear c sd s) :=
  sameButReports_table s _

theorem sendEvent_same (s : State) (c : FaultCode) (sd : FaultSide) (d : BitVec 16) :
    SameButReports s (sendEvent c sd d s) :=
  (sameButReports_table s _).trans (faultTriggers_same _ _ _)

/-- A block of a side that is not the recorder, read through SameButReports. -/
theorem SameButReports.side_eq {s t : State} (h : SameButReports s t) (x : Side) :
    t.side x = { s.side x with recorder := (t.side x).recorder } := by
  rw [← h.2.2.2.2.2.2.2.2.2.2 x]

/-! ### The record of a key through other reports -/

/-- Whether a table holds an ACTIVE record as the first of a key. -/
def activeKey (c : FaultCode) (sd : FaultSide) (t : FaultTable) : Prop :=
  ∃ r, findRecord t c sd = some r ∧ r.active = true

/-- Whether a table holds no ACTIVE record as the first of a key. -/
def quietKey (c : FaultCode) (sd : FaultSide) (t : FaultTable) : Prop :=
  ∀ r, findRecord t c sd = some r → r.active = false

theorem findRecord_append_other (t : FaultTable) (c : FaultCode) (sd : FaultSide) (r : FaultRecord)
    (h : hasKey c sd r = false) : findRecord (appendRecord t r) c sd = findRecord t c sd := by
  unfold findRecord appendRecord
  simp [List.find?_append, h]

theorem find_map_other {α : Type} (p q : α → Bool) (f : α → α) (l : List α) (h : ∀ a, q a = true → p a = false)
    (hf : ∀ a, q a = true → p (f a) = false) :
    (l.map fun a => if q a then f a else a).find? p = l.find? p := by
  induction l with
  | nil => rfl
  | cons a l ih =>
    by_cases hq : q a = true
    · simp [hq, h a hq, hf a hq, ih]
    · simp [hq, List.find?_cons, ih]

theorem hasKey_other {c c' : FaultCode} {sd sd' : FaultSide} (h : c' ≠ c) (r : FaultRecord)
    (hr : hasKey c' sd' r = true) : hasKey c sd r = false := by
  simp only [hasKey, Bool.and_eq_true, decide_eq_true_eq] at *
  simp [hr.1, h]

theorem findRecord_change_other (t : FaultTable) (c c' : FaultCode) (sd sd' : FaultSide) (f : FaultRecord → FaultRecord)
    (h : c' ≠ c) (hf : ∀ r, (f r).code = r.code) :
    findRecord (changeRecord t c' sd' f) c sd = findRecord t c sd := by
  unfold findRecord changeRecord
  refine find_map_other _ _ _ _ (fun r hr => hasKey_other h r hr) fun r hr => ?_
  have := hasKey_other (sd := sd) h r hr
  simp only [hasKey, Bool.and_eq_true, decide_eq_true_eq] at hr
  simp [hasKey, hf, hr.1, h]

theorem find_filter_other {α : Type} (p q : α → Bool) (l : List α) (h : ∀ a, p a = true → q a = true) :
    (l.filter q).find? p = l.find? p := by
  induction l with
  | nil => rfl
  | cons a l ih =>
    by_cases hq : q a = true
    · simp [hq, List.find?_cons, ih]
    · have hp : p a = false := by
        cases hp : p a with
        | false => rfl
        | true => exact absurd (h a hp) hq
      simp [hq, hp, ih]

theorem findRecord_removal_other (t : FaultTable) (c c' : FaultCode) (sd sd' : FaultSide) (h : c' ≠ c) :
    findRecord (removalTest t c' sd') c sd = findRecord t c sd := by
  unfold removalTest; split
  · refine find_filter_other _ _ _ fun r hr => ?_
    cases hk : hasKey c' sd' r with
    | false => simp
    | true => rw [hasKey_other h r hk] at hr; cases hr
  · rfl

theorem findRecord_raise_other (t : FaultTable) (c c' : FaultCode) (sd sd' : FaultSide) (d : BitVec 16) (now : Stamp)
    (h : c' ≠ c) : findRecord (tableRaise t c' sd' d now) c sd = findRecord t c sd := by
  unfold tableRaise; split
  · exact findRecord_append_other _ _ _ _ (by simp [hasKey, newRecord, h])
  · split
    · rfl
    · exact findRecord_change_other _ _ _ _ _ _ h fun _ => rfl

theorem findRecord_event_other (t : FaultTable) (c c' : FaultCode) (sd sd' : FaultSide) (d : BitVec 16) (now : Stamp)
    (h : c' ≠ c) : findRecord (tableEvent t c' sd' d now) c sd = findRecord t c sd := by
  unfold tableEvent; split
  · exact findRecord_append_other _ _ _ _ (by simp [hasKey, newRecord, h])
  · exact findRecord_change_other _ _ _ _ _ _ h fun _ => rfl

theorem findRecord_clear_other (t : FaultTable) (c c' : FaultCode) (sd sd' : FaultSide) (now : Stamp)
    (h : c' ≠ c) : findRecord (tableClear t c' sd' now) c sd = findRecord t c sd := by
  unfold tableClear; split
  · rfl
  · split
    · rw [findRecord_removal_other _ _ _ _ _ h]
      exact findRecord_change_other _ _ _ _ _ _ h fun _ => rfl
    · rfl

/-- Triggers reach the table by CAPTURE_LOST alone. -/
theorem handTriggers_find (s : State) (trg : Trigger) (l : List Side) (c : FaultCode) (sd : FaultSide)
    (h : c ≠ .captureLost) : findRecord (handTriggers trg l s).table c sd = findRecord s.table c sd := by
  have one : ∀ (s : State) (a : Side), findRecord (takeTrigger a trg s).table c sd = findRecord s.table c sd := by
    intro s a
    have lose : ∀ src, findRecord (loseTrigger a src s).table c sd = findRecord s.table c sd := by
      intro src
      have : (loseTrigger a src s).table = tableEvent s.table .captureLost .common (lostDetail a src) s.time := by
        cases a <;> rfl
      rw [this]; exact findRecord_event_other _ _ _ _ _ _ _ h.symm
    unfold takeTrigger
    simp only
    split
    · rfl
    · split
      · exact lose _
      · simp
    · unfold acceptTriggers; simp only; split <;> simp
    · split <;> simp
    · exact lose _
  have many : ∀ (l : List Side) (s : State),
      findRecord (l.foldl (fun s a => takeTrigger a trg s) s).table c sd = findRecord s.table c sd := by
    intro l
    induction l with
    | nil => intro s; rfl
    | cons a l ih => intro s; exact (ih _).trans (one _ _)
  unfold handTriggers drawOrder
  by_cases hl : l.length ≤ 1
  · simp only [hl, if_true]; exact many _ _
  · simp only [hl, if_false]; exact many _ _

theorem faultTriggers_find (s : State) (c' : FaultCode) (sd' : FaultSide) (c : FaultCode) (sd : FaultSide)
    (h : c ≠ .captureLost) : findRecord (faultTriggers c' sd' s).table c sd = findRecord s.table c sd := by
  unfold faultTriggers; split
  · exact handTriggers_find _ _ _ _ _ h
  · rfl

theorem afterOnset_find (s : State) (c' : FaultCode) (sd' : FaultSide) (c : FaultCode) (sd : FaultSide)
    (h : c ≠ .captureLost) : findRecord (afterOnset c' sd' s).table c sd = findRecord s.table c sd := by
  unfold afterOnset
  rw [faultTriggers_find _ _ _ _ _ h]
  split
  · congr 1
    exact foldl_reading (fun s => s.table) _ (fun s a => by simp) _ _
  · rfl

theorem sendRaise_find_other (s : State) (c' : FaultCode) (sd' : FaultSide) (d : BitVec 16) (c : FaultCode)
    (sd : FaultSide) (h : c ≠ .captureLost) (hc : c' ≠ c) :
    findRecord (sendRaise c' sd' d s).table c sd = findRecord s.table c sd := by
  unfold sendRaise; split
  · rw [afterOnset_find _ _ _ _ _ h]; exact findRecord_raise_other _ _ _ _ _ _ _ hc
  · rfl

/-- After a raise the key's record is ACTIVE (R114). -/
theorem sendRaise_active (s : State) (c : FaultCode) (sd : FaultSide) (d : BitVec 16) (h : c ≠ .captureLost) :
    activeKey c sd (sendRaise c sd d s).table := by
  unfold activeKey sendRaise
  split
  · rw [afterOnset_find _ _ _ _ _ h]
    show ∃ r, findRecord (tableRaise s.table c sd d s.time) c sd = some r ∧ r.active = true
    unfold tableRaise
    split
    · rename_i hn
      refine ⟨newRecord c sd true d s.time, ?_, rfl⟩
      unfold findRecord at *
      simp [appendRecord, List.find?_append, hn, hasKey, newRecord]
    · rename_i r hr
      by_cases ha : r.active = true
      · rw [if_pos ha]; exact ⟨r, hr, ha⟩
      · rw [if_neg ha]
        refine ⟨reactivate d s.time r, ?_, rfl⟩
        unfold findRecord changeRecord at *
        revert hr
        generalize s.table.records = l
        induction l with
        | nil => intro hr; cases hr
        | cons a l ih =>
          intro hr
          by_cases hk : hasKey c sd a = true
          · simp only [List.find?_cons, hk] at hr
            have hk' : hasKey c sd (reactivate d s.time a) = true := hk
            injection hr with hr
            simp [hk, hk', ← hr]
          · simp only [List.find?_cons, hk] at hr
            simp [hk, ih hr]
  · rename_i hr
    unfold raiseIsOnset at hr
    cases hf : findRecord s.table c sd with
    | none => simp [hf] at hr
    | some r => exact ⟨r, rfl, by simpa [hf] using hr⟩

/-- After a clear the key has no ACTIVE record in front (R115). -/
theorem tableClear_quiet (t : FaultTable) (c : FaultCode) (sd : FaultSide) (now : Stamp) :
    quietKey c sd (tableClear t c sd now) := by
  unfold quietKey tableClear
  split
  · rename_i h; intro r hr; rw [h] at hr; cases hr
  · rename_i r0 h
    split
    · have key : ∀ r ∈ (changeRecord t c sd fun r => { r with active := false, lastClear := some now }).records,
          hasKey c sd r = true → r.active = false := by
        intro r hr hk
        simp only [changeRecord, List.mem_map] at hr
        obtain ⟨a, -, rfl⟩ := hr
        by_cases ha : hasKey c sd a = true
        · simp [ha]
        · simp [ha] at hk
      intro r hr
      have hm : r ∈ (removalTest (changeRecord t c sd fun r => { r with active := false, lastClear := some now }) c
          sd).records := List.mem_of_find?_eq_some hr
      have hk : hasKey c sd r = true := by simpa using List.find?_some hr
      refine key r ?_ hk
      revert hm
      unfold removalTest
      split
      · intro hm; exact (List.mem_filter.mp hm).1
      · exact id
    · rename_i ha; intro r hr; rw [h] at hr; cases hr; simpa using ha

/-- R114: the record of the key after a raise. -/
theorem findRecord_raise (t : FaultTable) (c : FaultCode) (sd : FaultSide) (d : BitVec 16) (now : Stamp) :
    findRecord (tableRaise t c sd d now) c sd =
      (match findRecord t c sd with
        | none => some (newRecord c sd true d now)
        | some r => some (if r.active then r else reactivate d now r)) := by
  unfold tableRaise
  cases hr : findRecord t c sd with
  | none =>
    unfold findRecord at *
    simp [appendRecord, List.find?_append, hr, hasKey, newRecord]
  | some r =>
    dsimp only
    by_cases ha : r.active = true
    · simp only [ha, if_true]; exact hr
    · simp only [ha]
      unfold findRecord changeRecord at *
      revert hr
      generalize t.records = l
      induction l with
      | nil => intro hr; cases hr
      | cons a l ih =>
        intro hr
        by_cases hk : hasKey c sd a = true
        · simp only [List.find?_cons, hk] at hr
          have hk' : hasKey c sd (reactivate d now a) = true := hk
          injection hr with hr
          simp [hk, hk', ← hr]
        · simp only [List.find?_cons, hk] at hr
          simp [hk]
          simpa using ih hr

theorem findRecord_raise_congr (t u : FaultTable) (c : FaultCode) (sd : FaultSide) (d : BitVec 16) (now : Stamp)
    (h : findRecord t c sd = findRecord u c sd) :
    findRecord (tableRaise t c sd d now) c sd = findRecord (tableRaise u c sd d now) c sd := by
  rw [findRecord_raise, findRecord_raise, h]

/-- A raise leaves the record of its key as the table's own change does, whatever the onset brings about. -/
theorem sendRaise_find (s : State) (c : FaultCode) (sd : FaultSide) (d : BitVec 16) (h : c ≠ .captureLost) :
    findRecord (sendRaise c sd d s).table c sd = findRecord (tableRaise s.table c sd d s.time) c sd := by
  unfold sendRaise; split
  · rw [afterOnset_find _ _ _ _ _ h]
  · rename_i hr
    unfold raiseIsOnset at hr
    unfold tableRaise
    cases hf : findRecord s.table c sd with
    | none => simp [hf] at hr
    | some r =>
      have : r.active = true := by simpa [hf] using hr
      simp [this, hf]

end Sys2Proof.Machine
end

