-- ==== Sys2Proof/Laws/Camera.lean ====
section
/-! SUPPORT. What the shared operations of the Camera Link Receiver can do: the window push, the drop, the continuity
check and the header report (R9 to R14, R36, R37). -/

namespace Sys2Proof.Machine

/-- R13: a push changes the window, and beyond that reports LINE_CRC at most. -/
theorem pushWindow_same (s : State) (sd : Side) (n : Nat) :
    SameButReports (s.modClr sd fun c => { c with window := pushCount c.window n }) (pushWindow sd n s) := by
  unfold pushWindow
  simp only
  split
  · exact sendRaise_same _ _ _ _ (by decide)
  · split
    · exact sendClear_same _ _ _
    · exact .refl _

theorem pushWindow_find (s : State) (sd : Side) (n : Nat) (c : FaultCode) (x : FaultSide) (h : c ≠ .captureLost)
    (hc : .lineCrc ≠ c) : findRecord (pushWindow sd n s).table c x = findRecord s.table c x := by
  unfold pushWindow
  simp only
  split
  · rw [sendRaise_find_other _ _ _ _ _ _ h hc]; simp
  · split
    · show findRecord (tableClear _ _ _ _) c x = _
      rw [findRecord_clear_other _ _ _ _ _ _ hc]; simp
    · simp

theorem pushCount_eq (w : List Nat) (n : Nat) (h : w.length ≤ 60) : pushCount w n = pushed w n := by
  unfold pushCount pushed
  by_cases h2 : w.length < 60
  · have h3 : w.length + 1 - 60 = 0 := by omega
    rw [show Config.crcWindow = 60 from rfl, if_pos h2, h3]; simp
  · have h3 : w.length = 60 := by omega
    rw [show Config.crcWindow = 60 from rfl, if_neg h2, h3]
    rw [List.drop_append_of_le_length (by omega)]

/-- The hand-off of an input is a change of the side's inputs alone (R18, R23). -/
theorem handCamera_side (s : State) (sd : Side) (i : CompletionInput) :
    (handCamera sd i s).side sd
      = { s.side sd with inputs := (s.side sd).inputs ++ if (s.side sd).testFlag then [] else [i] } := by
  unfold handCamera
  simp only [modSide_side, handInput]
  split <;> simp

/-- R9: the CLR and the inputs after a drop. -/
theorem dropFrame_side (s : State) (sd : Side) : ∃ (r : Recorder) (ins : List CompletionInput),
    (dropFrame sd s).side sd = { s.side sd with
      recorder := r, inputs := ins
      clr := { (s.side sd).clr with
        framesDropped := (s.side sd).clr.framesDropped + 1
        window := pushCount (s.side sd).clr.window (s.side sd).clr.frame.badCount } } := by
  unfold dropFrame
  simp only
  set n := (s.side sd).clr.frame.badCount
  set s0 := s.modClr sd fun c => { c with framesDropped := c.framesDropped + 1 } with h0
  have hs := (pushWindow_same s0 sd n).side_eq sd
  have hb : ((s0.modClr sd fun c => { c with window := pushCount c.window n }).side sd) = { s.side sd with
      clr := { (s.side sd).clr with
        framesDropped := (s.side sd).clr.framesDropped + 1, window := pushCount (s.side sd).clr.window n } } := by
    rw [h0]; cases sd <;> rfl
  rw [hb] at hs
  split
  · exact ⟨_, _, hs⟩
  · rw [handCamera_side, hs]; exact ⟨_, _, rfl⟩

theorem dropFrame_find (s : State) (sd : Side) (c : FaultCode) (x : FaultSide) (h : c ≠ .captureLost)
    (hc : .lineCrc ≠ c) : findRecord (dropFrame sd s).table c x = findRecord s.table c x := by
  unfold dropFrame
  simp only
  split
  · rw [pushWindow_find _ _ _ _ _ h hc]; simp
  · have : ∀ i u, (handCamera sd i u).table = u.table := by intro i u; simp [handCamera]
    rw [this, pushWindow_find _ _ _ _ _ h hc]; simp

/-! ### Changes of one block, after reports -/

theorem SameButReports.modClr {s t : State} (h : SameButReports s t) (sd : Side) (f : Clr → Clr) :
    SameButReports (s.modClr sd f) (t.modClr sd f) := by
  obtain ⟨a1, a0, a2, a3, a4, a5, a6, a7, a8, a9, a10⟩ := h
  have e : (t.side sd).clr = (s.side sd).clr := by rw [← a10 sd]
  refine ⟨by simpa using a1, by simpa using a0, by simpa using a2, by simpa using a3, by simpa using a4, by simpa using a5,
    by simpa using a6, by simpa using a7, by simpa using a8, fun p => ?_, fun x => ?_⟩
  · have := a9 p; cases p <;> cases sd <;> exact this
  · have := a10 x
    by_cases hx : x = sd
    · subst hx
      simp only [State.modClr, modSide_side, e]
      rw [← this]
    · simp only [State.modClr, modSide_side_ne _ _ _ _ hx]
      exact this

theorem SameButReports.modExpo {s t : State} (h : SameButReports s t) (sd : Side) (f : Exposure → Exposure) :
    SameButReports (s.modExpo sd f) (t.modExpo sd f) := by
  obtain ⟨a1, a0, a2, a3, a4, a5, a6, a7, a8, a9, a10⟩ := h
  have e : (t.side sd).expo = (s.side sd).expo := by rw [← a10 sd]
  refine ⟨by simpa using a1, by simpa using a0, by simpa using a2, by simpa using a3, by simpa using a4, by simpa using a5,
    by simpa using a6, by simpa using a7, by simpa using a8, fun p => ?_, fun x => ?_⟩
  · have := a9 p; cases p <;> cases sd <;> exact this
  · have := a10 x
    by_cases hx : x = sd
    · subst hx
      simp only [State.modExpo, modSide_side, e]
      rw [← this]
    · simp only [State.modExpo, modSide_side_ne _ _ _ _ hx]
      exact this

/-- R11, R12: the continuity check changes the run, the gaps and the last number, and beyond that reports SEQ_ERROR at
most. -/
theorem checkContinuity_same (s : State) (sd : Side) (n : FrameNumber) (c : Clr) (h : c = (s.side sd).clr) :
    ((c.lastAccepted = none ∨ c.lastAccepted = some (n - 1)) →
        SameButReports (s.modClr sd fun c => { c with contRun := min (c.contRun + 1) 60, lastAccepted := some n })
          (checkContinuity sd n s))
      ∧ ∀ last, c.lastAccepted = some last → last ≠ n - 1 →
        SameButReports (s.modClr sd fun c =>
            { c with contRun := 0, seqGaps := c.seqGaps + (n - (last + 1)).setWidth 32, lastAccepted := some n })
          (checkContinuity sd n s) := by
  have cont : SameButReports (s.modClr sd fun c => { c with contRun := min (c.contRun + 1) 60 }) (countContinuous sd s) := by
    have e : (s.modClr sd fun c => { c with contRun := min ((s.side sd).clr.contRun + 1) 60 })
        = s.modClr sd fun c => { c with contRun := min (c.contRun + 1) 60 } := by
      apply modSide_congr; rfl
    unfold countContinuous
    simp only
    split
    · rw [e]; exact sendClear_same _ _ _
    · rw [e]; exact .refl _
  have fin : ∀ u, SameButReports (s.modClr sd fun c => { c with contRun := min (c.contRun + 1) 60 }) u →
      SameButReports (s.modClr sd fun c => { c with contRun := min (c.contRun + 1) 60, lastAccepted := some n })
        (u.modClr sd fun c => { c with lastAccepted := some n }) := by
    intro u hu
    have := hu.modClr sd fun c => { c with lastAccepted := some n }
    simpa only [State.modClr, modSide_modSide] using this
  subst h
  constructor
  · rintro (h | h)
    · unfold checkContinuity; rw [h]; exact fin _ cont
    · unfold checkContinuity; rw [h]
      have hn : n = n - 1 + 1 := by simp
      dsimp only
      rw [if_pos hn]
      exact fin _ cont
  · intro last h hne
    have hn : n ≠ last + 1 := fun e => hne (by rw [e]; simp)
    unfold checkContinuity; rw [h]
    simp only [hn, if_false]
    have := (sendRaise_same (s.modClr sd fun c =>
      { c with seqGaps := c.seqGaps + (n - (last + 1)).setWidth 32, contRun := 0 }) .seqError (faultSideOf sd)
      (n - (last + 1)) (by decide)).modClr sd fun c => { c with lastAccepted := some n }
    simpa only [State.modClr, modSide_modSide] using this

/-- Nothing but the exposure controller of a side, and reports of EXPOSURE_TRACK. -/
def OnlyTracks (sd : Side) (s t : State) : Prop :=
  ∃ list run, SameButReports (s.modExpo sd fun x => { x with commands := list, confirmedRun := run }) t

theorem OnlyTracks.refl (sd : Side) (s : State) : OnlyTracks sd s s :=
  ⟨(s.side sd).expo.commands, (s.side sd).expo.confirmedRun, by rw [State.modExpo, modSide_self _ _ _ rfl]; exact .refl s⟩

theorem OnlyTracks.trans {sd : Side} {s t u : State} (h : OnlyTracks sd s t) (k : OnlyTracks sd t u) :
    OnlyTracks sd s u := by
  obtain ⟨l1, r1, h⟩ := h
  obtain ⟨l2, r2, k⟩ := k
  refine ⟨l2, r2, SameButReports.trans ?_ k⟩
  have := h.modExpo sd fun x => { x with commands := l2, confirmedRun := r2 }
  simpa only [State.modExpo, modSide_modSide] using this

theorem OnlyTracks.of_same {sd : Side} {s t : State} (h : SameButReports s t) : OnlyTracks sd s t := by
  obtain ⟨l, r, k⟩ := OnlyTracks.refl sd s
  exact ⟨l, r, k.trans h⟩

theorem onlyTracks_mod (s : State) (sd : Side) (f : Exposure → Exposure)
    (h : f (s.side sd).expo = { (s.side sd).expo with commands := (f (s.side sd).expo).commands
                                                      confirmedRun := (f (s.side sd).expo).confirmedRun }) :
    OnlyTracks sd s (s.modExpo sd f) := by
  refine ⟨(f (s.side sd).expo).commands, (f (s.side sd).expo).confirmedRun, ?_⟩
  have : s.modExpo sd f = s.modExpo sd fun x =>
      { x with commands := (f (s.side sd).expo).commands, confirmedRun := (f (s.side sd).expo).confirmedRun } := by
    refine modSide_congr _ _ _ _ ?_
    show { s.side sd with expo := f (s.side sd).expo } = _
    rw [h]
  rw [this]
  exact .refl _

theorem countUnconfirmed_tracks (s : State) (sd : Side) (tag : BitVec 4) : OnlyTracks sd s (countUnconfirmed sd tag s) :=
  (onlyTracks_mod s sd _ rfl).trans (.of_same (sendRaise_same _ _ _ _ (by decide)))

theorem countConfirmed_tracks (s : State) (sd : Side) : OnlyTracks sd s (countConfirmed sd s) := by
  unfold countConfirmed
  simp only
  split
  · exact (onlyTracks_mod s sd _ rfl).trans (.of_same (sendClear_same _ _ _))
  · exact onlyTracks_mod s sd _ rfl

theorem confirmCommand_tracks (s : State) (sd : Side) (a : Byte) (t g : Nat) :
    OnlyTracks sd s (confirmCommand sd a t g s) := by
  unfold confirmCommand
  split
  · exact .refl sd s
  · simp only
    split
    · exact (onlyTracks_mod s sd _ rfl).trans (countConfirmed_tracks _ _)
    · exact (onlyTracks_mod s sd _ rfl).trans (countUnconfirmed_tracks _ _ _)

theorem dropLate_tracks (s : State) (sd : Side) (f : FrameNumber) : OnlyTracks sd s (dropLate sd f s) := by
  unfold dropLate
  refine (onlyTracks_mod s sd (fun x => { x with commands := x.commands.filter fun e => !isLate f e }) rfl).trans ?_
  generalize s.modExpo sd (fun x => { x with commands := x.commands.filter fun e => !isLate f e }) = u
  generalize (s.side sd).expo.commands.filter (isLate f) = l
  induction l generalizing u with
  | nil => exact .refl sd u
  | cons e l ih => exact (countUnconfirmed_tracks u sd e.tag).trans (ih _)

theorem countUnconfirmed_find (s : State) (sd : Side) (tag : BitVec 4) (c : FaultCode) (x : FaultSide)
    (h : c ≠ .captureLost) (hc : .exposureTrack ≠ c) :
    findRecord (countUnconfirmed sd tag s).table c x = findRecord s.table c x := by
  unfold countUnconfirmed
  rw [sendRaise_find_other _ _ _ _ _ _ h hc]; simp

theorem countConfirmed_find (s : State) (sd : Side) (c : FaultCode) (x : FaultSide) (hc : .exposureTrack ≠ c) :
    findRecord (countConfirmed sd s).table c x = findRecord s.table c x := by
  unfold countConfirmed
  simp only
  split
  · show findRecord (tableClear _ _ _ _) c x = _
    rw [findRecord_clear_other _ _ _ _ _ _ hc]; simp
  · simp

theorem confirmCommand_find (s : State) (sd : Side) (a : Byte) (t g : Nat) (c : FaultCode) (x : FaultSide)
    (h : c ≠ .captureLost) (hc : .exposureTrack ≠ c) :
    findRecord (confirmCommand sd a t g s).table c x = findRecord s.table c x := by
  unfold confirmCommand
  split
  · rfl
  · simp only
    split
    · rw [countConfirmed_find _ _ _ _ hc]; simp
    · rw [countUnconfirmed_find _ _ _ _ _ h hc]; simp

theorem headerReport_find (s : State) (sd : Side) (f : FrameNumber) (a : Byte) (t g : Nat) (c : FaultCode)
    (x : FaultSide) (h : c ≠ .captureLost) (hc : .exposureTrack ≠ c) :
    findRecord (headerReport sd f a t g s).table c x = findRecord s.table c x := by
  have many : ∀ (l : List PendingCommand) (u : State),
      findRecord (l.foldl (fun s e => countUnconfirmed sd e.tag s) u).table c x = findRecord u.table c x := by
    intro l
    induction l with
    | nil => intro u; rfl
    | cons e l ih => intro u; exact (ih _).trans (countUnconfirmed_find _ _ _ _ _ h hc)
  unfold headerReport dropLate
  simp only
  rw [many]
  have := confirmCommand_find s sd a t g c x h hc
  simpa using this

/-- R36, R37: a header report changes the pending list, the confirmed run and the last reported tag, and beyond that
reports EXPOSURE_TRACK at most. -/
theorem headerReport_same (s : State) (sd : Side) (f : FrameNumber) (a : Byte) (t g : Nat) : ∃ list run,
    SameButReports (s.modExpo sd fun x => { x with commands := list, confirmedRun := run, lastReported := some a })
      (headerReport sd f a t g s) := by
  obtain ⟨l1, r1, h⟩ := confirmCommand_tracks s sd a t g
  obtain ⟨l2, r2, k⟩ := dropLate_tracks ((confirmCommand sd a t g s).modExpo sd fun x => { x with lastReported := some a })
    sd f
  refine ⟨l2, r2, SameButReports.trans ?_ k⟩
  have h2 := (h.modExpo sd fun x => { x with lastReported := some a }).modExpo sd fun x =>
    { x with commands := l2, confirmedRun := r2 }
  simpa only [State.modExpo, modSide_modSide] using h2

end Sys2Proof.Machine
end

