-- ==== Sys2Proof/Laws/Commands.lean ====
section
/-! SUPPORT. What each command may change by its own rules, and that it is a chain of acts within that. -/

namespace Sys2Proof.Machine

/-- What a request changes at its port, beside what its owning block may change. -/
abbrev requestTouch : Touch := { ports := true }

/-- What a command may change by its own rules. The resets and the load are no chains of acts. -/
def touchOf : Instr → Touch
  | .powerOnReset | .load | .restart _ _ _ | .discardedPacket _ _ => {}
  | .supplyFail => { store := true, pins := true }
  | .timeTick => { time := true, vehicle := true }
  | .cameraLockAcquired _ | .cameraLockLost _ | .frameStart _ _ | .line _ _ _ _ | .frameEnd _ _ => cameraTouch
  | .commandTransmissionComplete _ => { clr := true }
  | .testFrameEnd _ => { inputs := true }
  | .frameCompletion _ => completionTouch
  | .droppedFrameCompletion _ => { inputs := true, recorder := true }
  | .outputFrameStart _ => { view := true, dlt := true }
  | .backChannelLockAcquired _ | .backChannelLockLost _ | .monitorAbilityWord _ _ | .frameReturn _ _ _ _ _ _
  | .negotiationTimerExpiry _ | .failedTimerExpiry _ | .upDeadlineExpiry _ => displayTouch
  | .vehicleStateExpiry => { vehicle := true }
  | .crossTrigger _ => { recorder := true }
  | .eventInEdge | .eventInFall => { pins := true }
  | .chipSelectFall _ | .replyReady _ | .requestDiscarded _ | .badFrame _ _ => requestTouch
  | .noOperation _ _ _ | .getStatus _ _ _ | .readCounters _ _ _ | .readFault _ _ _ | .readFaultKey _ _ _
  | .readTileMap _ _ _ | .triggerCapture _ _ _ | .getCaptureStatus _ _ _ | .readCaptureSlot _ _ _
  | .calRead _ _ _ => requestTouch
  | .ackFault _ _ _ | .ackAll _ _ _ => { ports := true, marks := true }
  | .setVehicleState _ _ _ => { ports := true, vehicle := true }
  | .setTime _ _ _ => { ports := true, time := true }
  | .setViewOffset _ _ _ => { ports := true, view := true }
  | .setNightPolicy _ _ _ | .setExposureMode _ _ _ => { ports := true, expo := true }
  | .setBrightness _ _ _ => { ports := true, dlt := true }
  | .testImage _ _ _ => { ports := true, pattern := true }
  | .captureControl _ _ _ | .setCaptureParams _ _ _ | .clearCapture _ _ _ | .releaseCapture _ _ _
  | .readCaptureHeader _ _ _ | .readCaptureNext _ _ _ => { ports := true, recorder := true }
  | .calStage _ _ _ | .calDiscard _ _ _ | .calProtect _ _ _ => { ports := true, store := true }
  | .calProgram _ _ _ _ => { ports := true, store := true, pins := true }
  | .protectWindowExpiry | .programmingPeriodEnd _ => { store := true }

/-- Whether a command is a reset or the load. -/
def isReset : Instr → Bool
  | .powerOnReset | .load | .restart _ _ _ => true
  | _ => false

/-- A request that reads alone is a chain on its port. -/
theorem Acts.readRequest {b : Touch} {s : State} (hp : b.ports = true) (p : Port) (c : RequestCode) (tag : BitVec 4)
    (ps : List Byte) (f : State → Answer) : Acts b s (Sys2Proof.Machine.takeRequest p c tag ps (readOnly f) s) :=
  Acts.takeRequest hp p c tag ps _ (fun _ h => h) .refl

/-- Every command but the resets and the load answers a next state by a chain of acts. -/
theorem exec_acts (c : Instr) (hc : isReset c = false) (s t : State) (h : exec c s = .next t) :
    Acts (touchOf c) s t := by
  cases c <;> first | (simp only [isReset, Bool.true_eq_false] at hc; done) | (injection h with h; subst h)
  case supplyFail => exact supplyFall_acts
  case timeTick => exact tick_acts
  case cameraLockAcquired sd => exact Acts.whileRunning _ (fun _ => cameraLock_acts _) .refl
  case cameraLockLost sd => exact Acts.whileRunning _ (fun _ => cameraUnlock_acts _) .refl
  case discardedPacket => exact .refl
  case frameStart => exact Acts.whileRunning _ (fun _ => takeFrameStart_acts _ _) .refl
  case line => exact Acts.whileRunning _ (fun _ => takeLine_acts _ _ _ _) .refl
  case frameEnd => exact Acts.whileRunning _ (fun _ => takeFrameEnd_acts _ _) .refl
  case commandTransmissionComplete => exact Acts.whileRunning _ (Acts.clr rfl _ _) .refl
  case testFrameEnd => exact Acts.whileRunning _ (fun _ => testFrameEnd_acts _) .refl
  case frameCompletion => exact Acts.whileRunning _ (fun _ => runCompletion_acts _) .refl
  case droppedFrameCompletion => exact Acts.whileRunning _ (fun _ => runDropped_acts _) .refl
  case outputFrameStart => exact Acts.whileRunning _ (fun _ => outputStart_acts _) .refl
  case backChannelLockAcquired => exact Acts.whileRunning _ (fun _ => backLockAcquired_acts _) .refl
  case backChannelLockLost => exact Acts.whileRunning _ (fun _ => backLockLost_acts _) .refl
  case monitorAbilityWord => exact Acts.whileRunning _ (fun _ => monitorWord_acts _ _) .refl
  case frameReturn => exact Acts.whileRunning _ (fun _ => takeReturn_acts _ _ _ _ _ _) .refl
  case negotiationTimerExpiry => exact Acts.whileRunning _ (Acts.dlt rfl _ _) .refl
  case failedTimerExpiry => exact Acts.whileRunning _ (Acts.dlt rfl _ _) .refl
  case upDeadlineExpiry => exact Acts.whileRunning _ (fun _ => upDeadlineExpiry_acts _) .refl
  case vehicleStateExpiry => exact Acts.whileRunning _ (vehicleExpiry_acts rfl) .refl
  case crossTrigger => exact Acts.whileRunning _ (fun _ => takeCross_acts _) .refl
  case eventInEdge => exact eventRise_acts
  case chipSelectFall p => exact (portEvent_acts p []).1
  case replyReady p => exact (portEvent_acts p []).2.1
  case requestDiscarded p => exact (portEvent_acts p []).2.2.1
  case badFrame p bs => exact (portEvent_acts p bs).2.2.2
  case noOperation => exact Acts.readRequest rfl _ _ _ _ _
  case getStatus p _ _ =>
    exact Acts.takeRequest rfl _ _ _ _ _ (fun _ h => h.port rfl p fun x => { x with notices := noNotices }) .refl
  case readCounters => exact Acts.takeRequest rfl _ _ _ _ _ (fun _ => readCounters_acts rfl _ _) .refl
  case readFault => exact Acts.readRequest rfl _ _ _ _ _
  case readFaultKey => exact Acts.readRequest rfl _ _ _ _ _
  case ackFault => exact Acts.takeRequest rfl _ _ _ _ _ (fun _ => ackFault_acts rfl _ _) .refl
  case ackAll => exact Acts.takeRequest rfl _ _ _ _ _ (fun _ => Acts.markAll rfl _) .refl
  case setVehicleState => exact Acts.takeRequest rfl _ _ _ _ _ (fun _ => setVehicleState_acts rfl _) .refl
  case setTime => exact Acts.takeRequest rfl _ _ _ _ _ (fun _ => Acts.time rfl _) .refl
  case setViewOffset => exact Acts.takeRequest rfl _ _ _ _ _ (fun _ => setViewOffset_acts rfl _) .refl
  case setNightPolicy => exact Acts.takeRequest rfl _ _ _ _ _ (fun _ => setNightPolicy_acts rfl _) .refl
  case setBrightness => exact Acts.takeRequest rfl _ _ _ _ _ (fun _ => setBrightness_acts rfl _) .refl
  case setExposureMode => exact Acts.takeRequest rfl _ _ _ _ _ (fun _ => setExposureMode_acts rfl _) .refl
  case testImage => exact Acts.takeRequest rfl _ _ _ _ _ (fun _ => testImage_acts rfl _) .refl
  case readTileMap => exact Acts.readRequest rfl _ _ _ _ _
  case triggerCapture => exact Acts.takeRequest rfl _ _ _ _ _ (fun _ => triggerCapture_acts _ _) .refl
  case captureControl p _ ps =>
    exact Acts.takeRequest rfl _ _ _ _ _ (fun _ h => (recorderRequest_acts rfl p ps h).2.2.2.1) .refl
  case setCaptureParams p _ ps =>
    exact Acts.takeRequest rfl _ _ _ _ _ (fun _ h => (recorderRequest_acts rfl p ps h).2.2.2.2.1) .refl
  case clearCapture p _ ps =>
    exact Acts.takeRequest rfl _ _ _ _ _ (fun _ h => (recorderRequest_acts rfl p ps h).2.2.2.2.2) .refl
  case releaseCapture p _ ps =>
    exact Acts.takeRequest rfl _ _ _ _ _ (fun _ h => (recorderRequest_acts rfl p ps h).2.2.1) .refl
  case getCaptureStatus => exact Acts.readRequest rfl _ _ _ _ _
  case readCaptureHeader p _ ps =>
    exact Acts.takeRequest rfl _ _ _ _ _ (fun _ h => (recorderRequest_acts rfl p ps h).1) .refl
  case readCaptureSlot => exact Acts.readRequest rfl _ _ _ _ _
  case readCaptureNext p _ ps =>
    exact Acts.takeRequest rfl _ _ _ _ _ (fun _ h => (recorderRequest_acts rfl p ps h).2.1) .refl
  case calStage _ _ ps => exact Acts.takeRequest rfl _ _ _ _ _ (fun _ h => (storeRequest_acts rfl ps h).1) .refl
  case calDiscard => exact Acts.takeRequest rfl _ _ _ _ _ (fun _ h => (storeRequest_acts rfl [] h).2.1) .refl
  case calProgram =>
    exact Acts.takeRequest rfl _ _ _ _ _ (fun _ h => (storeRequest_acts rfl [] h).2.2.2) (Acts.supplyOk rfl _ .refl)
  case calProtect _ _ ps => exact Acts.takeRequest rfl _ _ _ _ _ (fun _ h => (storeRequest_acts rfl ps h).2.2.1) .refl
  case calRead => exact Acts.readRequest rfl _ _ _ _ _
  case protectWindowExpiry => exact Acts.whileRunning _ (Acts.store rfl _ fun _ => rfl) .refl
  case programmingPeriodEnd => exact Acts.whileRunning _ (fun _ => periodEnd_acts _) .refl
  case eventInFall => exact Acts.eventIn rfl _ .refl

/-- A step on a waiting command is that command on the rest of the queue. -/
theorem step_cons (c : Instr) (rest : List Instr) (s : State) (h : s.pending = c :: rest) :
    step s = exec c { s with pending := rest } := by unfold step; rw [h]

/-- What a step can do: nothing on an empty queue, else the front command on the rest of the queue. -/
theorem step_cases (s t : State) (h : step s = .next t) :
    (s.pending = [] ∧ t = s) ∨ ∃ c rest, s.pending = c :: rest ∧ exec c { s with pending := rest } = .next t := by
  unfold step at h
  split at h
  · injection h with h; exact .inl ⟨by assumption, h.symm⟩
  · exact .inr ⟨_, _, by assumption, h⟩

end Sys2Proof.Machine
end

