-- ==== Sys2Proof/Laws/Table.lean ====
section
/-! SUPPORT. The fault table: what each of its operations keeps. -/

namespace Sys2Proof.Machine

theorem hasKey_iff (c : FaultCode) (sd : FaultSide) (r : FaultRecord) :
    hasKey c sd r = true ↔ r.code = c ∧ r.side = sd := by simp [hasKey]

theorem findRecord_none (t : FaultTable) (c : FaultCode) (sd : FaultSide) (h : findRecord t c sd = none) :
    ∀ r ∈ t.records, keyOf r ≠ (c, sd) := by
  intro r hr he
  have := List.find?_eq_none.mp h r hr
  simp only [keyOf, Prod.mk.injEq] at he
  exact this ((hasKey_iff c sd r).mpr he)

theorem findRecord_some (t : FaultTable) (c : FaultCode) (sd : FaultSide) (r : FaultRecord)
    (h : findRecord t c sd = some r) : r ∈ t.records ∧ r.code = c ∧ r.side = sd :=
  ⟨List.mem_of_find?_eq_some h, (hasKey_iff c sd r).mp (List.find?_some h)⟩

/-- Every audience holds V (R112). -/
@[simp] theorem audienceOf_v (c : FaultCode) : (audienceOf c).v = true := rfl

theorem complete_unmarked (r : FaultRecord) (h : r.ackedBy = ⟨false, false⟩) : complete r = false := by
  simp [complete, fullyMarked, h]

theorem complete_active (r : FaultRecord) (h : r.active = true) : complete r = false := by simp [complete, h]

/-- The keys after a record changed in its position. -/
theorem changeRecord_keys (t : FaultTable) (c : FaultCode) (sd : FaultSide) (f : FaultRecord → FaultRecord)
    (hf : ∀ r, keyOf (f r) = keyOf r) : (changeRecord t c sd f).records.map keyOf = t.records.map keyOf := by
  simp only [changeRecord, List.map_map]
  refine List.map_congr_left fun r _ => ?_
  simp only [Function.comp]; split
  · exact hf r
  · rfl

theorem removalTest_sublist (t : FaultTable) (c : FaultCode) (sd : FaultSide) :
    (removalTest t c sd).records.Sublist t.records := by
  unfold removalTest; split
  · exact List.filter_sublist
  · exact List.Sublist.refl _

/-- After the removal test no record of the key is PASSIVE and marked by its whole audience. -/
theorem removalTest_complete (t : FaultTable) (c : FaultCode) (sd : FaultSide) (r : FaultRecord)
    (h : r ∈ (removalTest t c sd).records) (hk : hasKey c sd r = true) : complete r = false := by
  unfold removalTest at h; split at h
  · have := (List.mem_filter.mp h).2
    simpa [hk] using this
  · rename_i hn
    by_contra hc
    exact hn (List.any_eq_true.mpr ⟨r, h, by simp [hk, hc]⟩)

/-- R113, R114: a record appended where the table holds none of its key. -/
theorem appendRecord_sound (t : FaultTable) (r : FaultRecord) (ht : TableSound t)
    (hn : findRecord t r.code r.side = none) (hr : RecordSound r) : TableSound (appendRecord t r) := by
  refine ⟨?_, ?_⟩
  · simp only [appendRecord, List.map_append, List.map_cons, List.map_nil]
    refine List.nodup_append.mpr ⟨ht.1, by simp, ?_⟩
    intro a ha b hb he
    simp only [List.mem_singleton] at hb
    obtain ⟨x, hx, rfl⟩ := List.mem_map.mp ha
    exact findRecord_none t _ _ hn x hx (he.trans hb)
  · intro x hx
    rcases List.mem_append.mp hx with hx | hx
    · exact ht.2 x hx
    · simp only [List.mem_singleton] at hx; exact hx ▸ hr

/-- A record changed in its position, where the change keeps the key and leaves a sound record. -/
theorem changeRecord_sound (t : FaultTable) (c : FaultCode) (sd : FaultSide) (f : FaultRecord → FaultRecord)
    (hk : ∀ r, keyOf (f r) = keyOf r) (ht : TableSound t)
    (hf : ∀ r, RecordSound r → hasKey c sd r = true → RecordSound (f r)) : TableSound (changeRecord t c sd f) := by
  refine ⟨by rw [changeRecord_keys t c sd f hk]; exact ht.1, ?_⟩
  intro x hx
  obtain ⟨r, hr, rfl⟩ := List.mem_map.mp hx
  split
  · exact hf r (ht.2 r hr) ‹_›
  · exact ht.2 r hr

/-- A record changed in its position and then put to the removal test: only completeness is left to the test. -/
theorem changeAndTest_sound (t : FaultTable) (c : FaultCode) (sd : FaultSide) (f : FaultRecord → FaultRecord)
    (hk : ∀ r, keyOf (f r) = keyOf r) (ht : TableSound t)
    (hf : ∀ r, RecordSound r → hasKey c sd r = true → complete (f r) = false → RecordSound (f r)) :
    TableSound (removalTest (changeRecord t c sd f) c sd) := by
  have hs := removalTest_sublist (changeRecord t c sd f) c sd
  refine ⟨List.Nodup.sublist (hs.map keyOf) (by rw [changeRecord_keys t c sd f hk]; exact ht.1), ?_⟩
  intro x hx
  obtain ⟨r, hr, hrx⟩ := List.mem_map.mp (hs.subset hx)
  subst hrx
  by_cases hkey : hasKey c sd r = true
  · rw [if_pos hkey] at hx ⊢
    refine hf r (ht.2 r hr) hkey (removalTest_complete _ c sd _ hx ?_)
    have := hk r
    simp only [keyOf, Prod.mk.injEq] at this
    rw [hasKey_iff, this.1, this.2]; exact (hasKey_iff _ _ _).mp hkey
  · rw [if_neg hkey]; exact ht.2 r hr

/-- R114 keeps the table. -/
theorem tableRaise_sound (t : FaultTable) (c : FaultCode) (sd : FaultSide) (d : BitVec 16) (now : Stamp)
    (hc : isEvent c = false) (hs : sideAllowed c sd = true) (ht : TableSound t) :
    TableSound (tableRaise t c sd d now) := by
  unfold tableRaise; split
  · exact appendRecord_sound _ _ ht ‹_›
      ⟨hs, by simp [newRecord], by simp [newRecord], by simp [newRecord, hc], by simp [newRecord],
        complete_active _ rfl, by simp [newRecord]⟩
  · split
    · exact ht
    · refine changeRecord_sound t c sd _ (fun _ => rfl) ht fun r hr hk => ?_
      obtain ⟨h1, h2, h3, h4, h5, h6, h7⟩ := hr
      have := ((hasKey_iff _ _ _).mp hk).1
      exact ⟨h1, by simp [reactivate], by simp [reactivate], by simp [reactivate, this, hc],
        by simp [reactivate], complete_active _ rfl, by simp [reactivate]⟩

/-- R115 keeps the table. -/
theorem tableClear_sound (t : FaultTable) (c : FaultCode) (sd : FaultSide) (now : Stamp) (ht : TableSound t) :
    TableSound (tableClear t c sd now) := by
  unfold tableClear; split
  · exact ht
  · split
    · exact changeAndTest_sound t c sd _ (fun _ => rfl) ht fun r hr _ hc =>
        ⟨hr.1, hr.2.1, hr.2.2.1, fun _ => rfl, fun _ => rfl, hc, hr.2.2.2.2.2.2⟩
    · exact ht

/-- R116 keeps the table. -/
theorem tableEvent_sound (t : FaultTable) (c : FaultCode) (sd : FaultSide) (d : BitVec 16) (now : Stamp)
    (hs : sideAllowed c sd = true) (ht : TableSound t) : TableSound (tableEvent t c sd d now) := by
  unfold tableEvent; split
  · exact appendRecord_sound _ _ ht ‹_›
      ⟨hs, by simp [newRecord], by simp [newRecord], by simp [newRecord], by simp [newRecord],
        complete_unmarked _ rfl, by simp [newRecord]⟩
  · refine changeRecord_sound t c sd _ (fun _ => rfl) ht fun r hr _ => ?_
    exact ⟨hr.1, by simp [reportAgain], by simp [reportAgain], hr.2.2.2.1, fun _ => rfl,
      complete_unmarked _ rfl, by simp [reportAgain]⟩

/-- R123 keeps the table. -/
theorem tableMark_sound (t : FaultTable) (c : FaultCode) (sd : FaultSide) (p : Port)
    (ha : masterIn (audienceOf c) p = true) (ht : TableSound t) : TableSound (tableMark t c sd p) := by
  unfold tableMark; split
  · exact ht
  · split
    · exact ht
    · refine changeAndTest_sound t c sd _ (fun _ => rfl) ht fun r hr hk hc => ?_
      refine ⟨hr.1, hr.2.1, hr.2.2.1, hr.2.2.2.1, hr.2.2.2.2.1, hc, ?_⟩
      have hcode := ((hasKey_iff _ _ _).mp hk).1
      cases p
      · exact hr.2.2.2.2.2.2
      · intro _; show (audienceOf r.code).c = true; rw [hcode]; exact ha

/-- R124 keeps the table. -/
theorem markAll_sound (p : Port) (t : FaultTable) (ht : TableSound t) : TableSound (markAll p t) := by
  have hkey : ∀ r, keyOf (if newlyMarked p r then markedRecord p r else r) = keyOf r := by
    intro r; split <;> rfl
  refine ⟨?_, ?_⟩
  · simp only [markAll, List.map_map]
    rw [show (keyOf ∘ fun r => if newlyMarked p r then markedRecord p r else r) = keyOf from funext hkey]
    exact List.Nodup.sublist (List.filter_sublist.map keyOf) ht.1
  · intro x hx
    obtain ⟨r, hr, rfl⟩ := List.mem_map.mp hx
    obtain ⟨hr, hrem⟩ := List.mem_filter.mp hr
    have h := ht.2 r hr
    split
    · rename_i hm
      simp only [newlyRemoved, hm, Bool.true_and, Bool.not_eq_true'] at hrem
      refine ⟨h.1, h.2.1, h.2.2.1, h.2.2.2.1, h.2.2.2.2.1, hrem, ?_⟩
      simp only [newlyMarked, Bool.and_eq_true] at hm
      cases p
      · exact h.2.2.2.2.2.2
      · exact fun _ => hm.1
    · exact h

/-- R130 keeps the table. -/
theorem passivate_sound (t : FaultTable) (now : Stamp) (ht : TableSound t) : TableSound (passivate t now) := by
  have hkey : ∀ r : FaultRecord,
      keyOf (if r.active then { r with active := false, lastClear := some now } else r) = keyOf r := by
    intro r; split <;> rfl
  refine ⟨?_, ?_⟩
  · refine List.Nodup.sublist (List.filter_sublist.map keyOf) ?_
    rw [List.map_map]
    refine (congrArg List.Nodup (List.map_congr_left fun r _ => hkey r)).mpr ht.1
  · intro x hx
    obtain ⟨hx, hc⟩ := List.mem_filter.mp hx
    obtain ⟨r, hr, rfl⟩ := List.mem_map.mp hx
    have h := ht.2 r hr
    simp only [Bool.not_eq_true'] at hc
    by_cases ha : r.active = true
    · rw [if_pos ha] at hc ⊢
      exact ⟨h.1, h.2.1, h.2.2.1, fun _ => rfl, fun _ => rfl, hc, h.2.2.2.2.2.2⟩
    · rw [if_neg ha]; exact h

end Sys2Proof.Machine
end

