-- ==== Sys2Proof/Laws/Validity.lean ====
section
/-! SUPPORT. What reports and triggers do to the fault table, to a side's validity and to its VALID line. -/

namespace Sys2Proof.Machine

/-! ### The table through reports and triggers -/

/-- A trigger leaves the table, or reports one lost trigger (R138, R140). -/
theorem takeTrigger_table (s : State) (sd : Side) (trg : Trigger) :
    (takeTrigger sd trg s).table = s.table
      ∨ ∃ d, (takeTrigger sd trg s).table = tableEvent s.table .captureLost .common d s.time := by
  unfold takeTrigger; dsimp only
  (repeat' split) <;> simp only [modRec_table, acceptTriggers_table, true_or, loseTrigger]
  all_goals exact .inr ⟨_, rfl⟩

/-- What an event of CAPTURE_LOST keeps of the table, triggers keep. -/
theorem handTriggers_keeps (Q : FaultTable → Prop)
    (hQ : ∀ t d now, Q t → Q (tableEvent t .captureLost .common d now)) (s : State) (trg : Trigger) (l : List Side)
    (h : Q s.table) : Q (handTriggers trg l s).table := by
  have hf : ∀ (l : List Side) (s : State), Q s.table → Q (l.foldl (fun s sd => takeTrigger sd trg s) s).table := by
    intro l
    induction l with
    | nil => exact fun _ h => h
    | cons a l ih =>
      intro s h
      refine ih _ ?_
      rcases takeTrigger_table s a trg with e | ⟨d, e⟩ <;> rw [e]
      · exact h
      · exact hQ _ _ _ h
  exact hf _ _ ((drawOrder_table s l).symm ▸ h)

theorem faultTriggers_keeps (Q : FaultTable → Prop)
    (hQ : ∀ t d now, Q t → Q (tableEvent t .captureLost .common d now)) (s : State) (c : FaultCode) (sd : FaultSide)
    (h : Q s.table) : Q (faultTriggers c sd s).table := by
  unfold faultTriggers; split
  · exact handTriggers_keeps Q hQ _ _ _ h
  · exact h

theorem afterOnset_keeps (Q : FaultTable → Prop)
    (hQ : ∀ t d now, Q t → Q (tableEvent t .captureLost .common d now)) (s : State) (c : FaultCode) (sd : FaultSide)
    (h : Q s.table) : Q (afterOnset c sd s).table := by
  unfold afterOnset
  refine faultTriggers_keeps Q hQ _ _ _ ?_
  split
  · rw [activateAll_reading (fun s : State => s.table) (by intros; simp)]; exact h
  · exact h

theorem sendRaise_keeps (Q : FaultTable → Prop)
    (hQ : ∀ t d now, Q t → Q (tableEvent t .captureLost .common d now)) (s : State) (c : FaultCode) (sd : FaultSide)
    (d : BitVec 16) (h : Q (tableRaise s.table c sd d s.time)) : Q (sendRaise c sd d s).table := by
  unfold sendRaise; split
  · exact afterOnset_keeps Q hQ _ _ _ h
  · rename_i hn
    have : tableRaise s.table c sd d s.time = s.table := by
      simp only [raiseIsOnset] at hn
      unfold tableRaise
      split at hn
      · exact absurd rfl hn
      · simp_all
    rwa [this] at h

theorem sendEvent_keeps (Q : FaultTable → Prop)
    (hQ : ∀ t d now, Q t → Q (tableEvent t .captureLost .common d now)) (s : State) (c : FaultCode) (sd : FaultSide)
    (d : BitVec 16) (h : Q (tableEvent s.table c sd d s.time)) : Q (sendEvent c sd d s).table :=
  faultTriggers_keeps Q hQ _ _ _ h

/-- Every chain of acts keeps a sound table (R113). -/
theorem Acts.tableSound {b : Touch} {s0 s : State} (h : Acts b s0 s) (h0 : TableSound s0.table) :
    TableSound s.table := by
  have hQ : ∀ t d now, TableSound t → TableSound (tableEvent t .captureLost .common d now) :=
    fun t d now => tableEvent_sound t _ _ _ _ rfl
  induction h with
  | mark _ c sd p ha _ ih => exact tableMark_sound _ _ _ _ ha ih
  | markAll _ p _ ih => exact markAll_sound _ _ ih
  | trigger sd trg _ ih =>
    rename_i s _
    rcases takeTrigger_table s sd trg with e | ⟨d, e⟩ <;> rw [e]
    · exact ih
    · exact hQ _ _ _ ih
  | lose sd src _ ih => simp only [loseTrigger, modRec_table]; exact hQ _ _ _ ih
  | raise c sd d hc hs _ ih => exact sendRaise_keeps _ hQ _ _ _ _ (tableRaise_sound _ _ _ _ _ hc hs ih)
  | clear c sd _ ih => exact tableClear_sound _ _ _ _ ih
  | event c sd d _ hs _ ih => exact sendEvent_keeps _ hQ _ _ _ _ (tableEvent_sound _ _ _ _ _ hs ih)
  | _ => simpa using ‹_›

/-! ### Validity (R125) -/

/-- Whether a record counts against a side's view (R125). -/
def countsAgainst (sd : Side) (r : FaultRecord) : Bool :=
  r.active && decide (severityOf r.code = .viewLoss) && decide (r.side = faultSideOf sd)

theorem viewLossActive_eq (t : FaultTable) (sd : Side) : viewLossActive t sd = t.records.any (countsAgainst sd) := rfl

/-- An event report leaves every side's validity (R116: an event code is never VIEW_LOSS). -/
theorem tableEvent_valid (t : FaultTable) (c : FaultCode) (sd : FaultSide) (d : BitVec 16) (now : Stamp) (x : Side) :
    viewLossActive (tableEvent t c sd d now) x = viewLossActive t x := by
  simp only [viewLossActive_eq]
  unfold tableEvent; split
  · simp [appendRecord, countsAgainst, newRecord]
  · simp only [changeRecord, List.any_map]
    congr 1; funext r
    simp only [Function.comp]; split <;> rfl

/-- A clear makes no side invalid. -/
theorem tableClear_valid (t : FaultTable) (c : FaultCode) (sd : FaultSide) (now : Stamp) (x : Side)
    (h : viewLossActive t x = false) : viewLossActive (tableClear t c sd now) x = false := by
  unfold tableClear; split
  · exact h
  · split
    · simp only [viewLossActive_eq, List.any_eq_false] at h ⊢
      intro r hr
      have hr := (removalTest_sublist _ _ _).subset hr
      obtain ⟨y, hy, rfl⟩ := List.mem_map.mp hr
      have := h y hy
      by_cases hk : hasKey c sd y = true
      · simp [hk, countsAgainst]
      · simpa [hk] using this
    · exact h

/-- A mark makes no side invalid. -/
theorem tableMark_valid (t : FaultTable) (c : FaultCode) (sd : FaultSide) (p : Port) (x : Side)
    (h : viewLossActive t x = false) : viewLossActive (tableMark t c sd p) x = false := by
  unfold tableMark; split
  · exact h
  · split
    · exact h
    · simp only [viewLossActive_eq, List.any_eq_false] at h ⊢
      intro r hr
      have hr := (removalTest_sublist _ _ _).subset hr
      obtain ⟨y, hy, rfl⟩ := List.mem_map.mp hr
      have := h y hy
      by_cases hk : hasKey c sd y = true
      · simpa [hk, countsAgainst] using this
      · simpa [hk] using this

/-- ACK_ALL makes no side invalid. -/
theorem markAll_valid (p : Port) (t : FaultTable) (x : Side) (h : viewLossActive t x = false) :
    viewLossActive (markAll p t) x = false := by
  simp only [viewLossActive_eq, List.any_eq_false] at h ⊢
  intro r hr
  obtain ⟨y, hy, rfl⟩ := List.mem_map.mp hr
  have := h y (List.mem_filter.mp hy).1
  split
  · exact this
  · exact this

/-- The passivation leaves every side valid (R130). -/
theorem passivate_valid (t : FaultTable) (now : Stamp) (x : Side) : viewLossActive (passivate t now) x = false := by
  simp only [viewLossActive_eq, List.any_eq_false]
  intro r hr
  obtain ⟨y, _, rfl⟩ := List.mem_map.mp (List.mem_filter.mp hr).1
  cases hy : y.active <;> simp [countsAgainst, hy]

/-- A raise makes a side invalid only by an onset of a VIEW_LOSS code of that side (R125). -/
theorem tableRaise_valid (t : FaultTable) (c : FaultCode) (sd : FaultSide) (d : BitVec 16) (now : Stamp) (x : Side)
    (h : viewLossActive t x = false) :
    viewLossActive (tableRaise t c sd d now) x = false
      ∨ (raiseIsOnset t c sd = true ∧ severityOf c = .viewLoss ∧ sd = faultSideOf x) := by
  by_cases hv : severityOf c = .viewLoss ∧ sd = faultSideOf x
  · by_cases ho : raiseIsOnset t c sd = true
    · exact .inr ⟨ho, hv⟩
    · refine .inl ?_
      simp only [raiseIsOnset] at ho
      unfold tableRaise
      split at ho
      · exact absurd rfl ho
      · simp_all
  · refine .inl ?_
    simp only [viewLossActive_eq, List.any_eq_false] at h ⊢
    unfold tableRaise; split
    · intro r hr
      rcases List.mem_append.mp hr with hr | hr
      · exact h r hr
      · simp only [List.mem_singleton] at hr
        subst hr; simpa [countsAgainst, newRecord] using hv
    · split
      · exact h
      · intro r hr
        obtain ⟨y, hy, rfl⟩ := List.mem_map.mp hr
        by_cases hk : hasKey c sd y = true
        · obtain ⟨h1, h2⟩ := (hasKey_iff _ _ _).mp hk
          simpa [hk, countsAgainst, reactivate, h1, h2] using hv
        · simpa [hk] using h y hy

/-! ### The VALID line (R80) -/

/-- The VALID line is a function of the view state (R80). -/
theorem validLine_congr (s t : State) (sd : Side) (h : (t.side sd).view.state = (s.side sd).view.state) :
    validLine t sd = validLine s sd := by unfold validLine; rw [h]

theorem changeView_state (s : State) (sd : Side) (v : ViewState) : ((changeView sd v s).side sd).view.state = v := by
  unfold changeView; split
  · assumption
  · simp

theorem changeView_other (s : State) (sd x : Side) (v : ViewState) (h : x ≠ sd) :
    ((changeView sd v s).side x).view = (s.side x).view := by
  unfold changeView; split
  · rfl
  · simp [modView_side_ne _ _ _ _ h]

theorem enterInvalid_state (s : State) (sd : Side) : ((enterInvalid sd s).side sd).view.state = .invalid := by
  simp [enterInvalid, changeView_state]

theorem enterInvalid_other (s : State) (sd x : Side) (h : x ≠ sd) :
    ((enterInvalid sd s).side x).view = (s.side x).view := by
  simp [enterInvalid, modView_side_ne _ _ _ _ h, changeView_other _ _ _ _ h]

/-- R77: after an activation the VALID line of the side is low. -/
theorem activateView_line (s : State) (sd : Side) : validLine (activateView sd s) sd = false := by
  unfold activateView
  split
  all_goals first
    | (have := enterInvalid_state s sd; simp [validLine, this]; done)
    | (unfold validLine; rw [‹(s.side sd).view.state = _›])

/-- R77: an activation of one side leaves the other's view. -/
theorem activateView_other (s : State) (sd x : Side) (h : x ≠ sd) :
    ((activateView sd s).side x).view = (s.side x).view := by
  unfold activateView; split
  all_goals first
    | rfl
    | simp [modView_side_ne _ _ _ _ h, enterInvalid_other _ _ _ h]

/-- An activation raises no VALID line. -/
theorem activateView_lowers (s : State) (sd x : Side) (h : validLine (activateView sd s) x = true) :
    validLine s x = true := by
  by_cases hx : x = sd
  · subst hx; rw [activateView_line] at h; exact absurd h (by decide)
  · rwa [validLine_congr s _ x (by rw [activateView_other _ _ _ hx])] at h

theorem activateAll_lowers (l : List Side) (s : State) (x : Side)
    (h : validLine (l.foldl (fun s x => activateView x s) s) x = true) : validLine s x = true ∧ x ∉ l := by
  induction l generalizing s with
  | nil => exact ⟨h, by simp⟩
  | cons a l ih =>
    obtain ⟨h1, h2⟩ := ih _ h
    refine ⟨activateView_lowers _ _ _ h1, ?_⟩
    rintro (_ | ⟨_, hm⟩)
    · rw [activateView_line] at h1; exact absurd h1 (by decide)
    · exact h2 hm

/-- After an onset's consequences a VALID line is high only where it was, and for a VIEW_LOSS code not on the side of
the record (R77). -/
theorem afterOnset_line (s : State) (c : FaultCode) (sd : FaultSide) (x : Side)
    (h : validLine (afterOnset c sd s) x = true) :
    validLine s x = true ∧ (severityOf c = .viewLoss → sd ≠ faultSideOf x) := by
  unfold afterOnset at h
  split at h
  · have h : validLine ((sidesOf sd).foldl (fun s x => activateView x s) s) x = true :=
      (validLine_congr _ _ x (by rw [faultTriggers_view])).symm.trans h
    obtain ⟨h1, h2⟩ := activateAll_lowers _ _ _ h
    refine ⟨h1, fun _ he => h2 ?_⟩
    subst he; cases x <;> simp [faultSideOf, sidesOf]
  · exact ⟨(validLine_congr s _ x (by rw [faultTriggers_view])).symm.trans h, fun hv => absurd hv ‹_›⟩

/-- A raise raises no VALID line and keeps R80. -/
theorem sendRaise_view (s : State) (c : FaultCode) (sd : FaultSide) (d : BitVec 16) (x : Side)
    (h : ViewSound s x) : ViewSound (sendRaise c sd d s) x := by
  intro hl
  have hQ : ∀ t d now, viewLossActive t x = false →
      viewLossActive (tableEvent t .captureLost .common d now) x = false :=
    fun t d now ht => by rw [tableEvent_valid]; exact ht
  by_cases ho : raiseIsOnset s.table c sd = true
  · have hl' := hl
    unfold sendRaise at hl'
    rw [if_pos ho] at hl'
    obtain ⟨h1, h2⟩ := afterOnset_line _ _ _ _ hl'
    have hs : viewLossActive s.table x = false := h (by simpa [validLine] using h1)
    refine sendRaise_keeps _ hQ _ _ _ _ ?_
    rcases tableRaise_valid s.table c sd d s.time x hs with e | ⟨_, hv, he⟩
    · exact e
    · exact absurd he (h2 hv)
  · have : sendRaise c sd d s = s := by unfold sendRaise; rw [if_neg ho]
    rw [this] at hl ⊢; exact h hl

/-- Setting or clearing a TEST flag raises no VALID line. -/
theorem setTest_line (s : State) (sd x : Side) (h : validLine (setTest sd s) x = true) : validLine s x = true := by
  unfold setTest at h; split at h
  · exact h
  · rcases side_eq_or_other sd x with rfl | rfl
    · simp [validLine, enterTest, changeView_state] at h
    · simp [validLine, enterTest, changeView_other _ _ _ _ (otherSide_ne sd)] at h
      simpa [validLine] using h

theorem clearTest_line (s : State) (sd x : Side) (h : validLine (clearTest sd s) x = true) : validLine s x = true := by
  unfold clearTest at h; split at h
  · rcases side_eq_or_other sd x with rfl | rfl
    · simp [validLine, leaveTest, changeView_state] at h
    · simp [validLine, leaveTest, changeView_other _ _ _ _ (otherSide_ne sd)] at h
      simpa [validLine] using h
  · exact h

/-- A chain of acts that leaves the composers to the reports keeps R80 on every side. -/
theorem Acts.viewSound {b : Touch} {s0 s : State} (hb : b.view = false) (h : Acts b s0 s) (x : Side)
    (h0 : ViewSound s0 x) : ViewSound s x := by
  have hcl : ∀ (s t : State), (t.side x).view.state = (s.side x).view.state → viewLossActive t.table x = viewLossActive s.table x →
      ViewSound s x → ViewSound t x := by
    intro s t h1 h2 hs ht
    rw [h2]; exact hs (by rwa [validLine_congr s t x h1] at ht)
  have hQ : ∀ v t d now, viewLossActive t x = v → viewLossActive (tableEvent t .captureLost .common d now) x = v :=
    fun v t d now ht => by rw [tableEvent_valid]; exact ht
  induction h with
  | view hv => rw [hb] at hv; exact absurd hv (by decide)
  | inputs _ sd f hf _ ih =>
    refine hcl _ _ ?_ (by simp) ih
    rcases side_eq_or_other sd x with rfl | rfl
    · rw [modSide_side, hf]
    · simp
  | mark _ c sd p _ _ ih => exact fun hl => tableMark_valid _ _ _ _ _ (ih (by simpa [validLine] using hl))
  | markAll _ p _ ih => exact fun hl => markAll_valid _ _ _ (ih (by simpa [validLine] using hl))
  | trigger sd trg _ ih =>
    rename_i s _
    refine hcl _ _ (by simp) ?_ ih
    rcases takeTrigger_table s sd trg with e | ⟨d, e⟩ <;> rw [e]
    exact tableEvent_valid _ _ _ _ _ _
  | lose sd src _ ih => exact hcl _ _ (by simp) (by simp [loseTrigger, tableEvent_valid]) ih
  | raise c sd d _ _ _ ih => exact sendRaise_view _ _ _ _ _ ih
  | clear c sd _ ih => exact fun hl => tableClear_valid _ _ _ _ _ (ih (by simpa [validLine] using hl))
  | event c sd d _ _ _ ih =>
    exact hcl _ _ (by simp) (sendEvent_keeps _ (hQ _) _ _ _ _ (tableEvent_valid _ _ _ _ _ _)) ih
  | setTest sd _ ih => exact fun hl => by rw [setTest_table]; exact ih (setTest_line _ _ _ hl)
  | clearTest sd _ ih => exact fun hl => by rw [clearTest_table]; exact ih (clearTest_line _ _ _ hl)
  | refl => exact h0
  | clr _ sd f _ ih => exact hcl _ _ (by simp) (by simp) ih
  | stats _ sd f _ ih => exact hcl _ _ (by simp) (by simp) ih
  | expo _ sd f _ ih => exact hcl _ _ (by simp) (by simp) ih
  | glare _ sd f _ ih => exact hcl _ _ (by simp) (by simp) ih
  | dlt _ sd f _ ih => exact hcl _ _ (by simp) (by simp) ih
  | recorder _ sd f _ ih => exact hcl _ _ (by simp) (by simp) ih
  | port _ p f _ ih => exact hcl _ _ (by simp) (by simp) ih
  | store _ f _ _ ih => exact hcl _ _ (by simp) (by simp) ih
  | vehicle _ v _ ih => exact hcl _ _ (by simp) (by simp) ih
  | time _ t _ ih => exact hcl _ _ (by simp) (by simp) ih
  | supplyOk _ y _ ih => exact hcl _ _ (by simp) (by simp) ih
  | eventIn _ y _ ih => exact hcl _ _ (by simp) (by simp) ih
  | pattern _ y _ ih => exact hcl _ _ (by simp) (by simp) ih
  | draw n _ ih => exact hcl _ _ (by simp) (by simp) ih
  | pause l _ ih => exact hcl _ _ (by simp) (by simp) ih
  | notify p k _ ih => exact hcl _ _ (by simp) (by simp) ih

end Sys2Proof.Machine
end

