-- ==== Sys2Proof/Laws/Recorder.lean ====
section
/-! SUPPORT. The recorder: the digest slots as a memory, and what each act on a recorder keeps. -/

namespace Sys2Proof.Machine

/-! ### Digest slots -/

theorem slotRead_nil (a : Nat) : slotRead [] a = none := rfl

/-- A slot reads as what was written to it. -/
theorem slotRead_slotWrite_same (m : Slots) (a : Nat) (d : Digest) : slotRead (slotWrite m a d) a = some d := by
  induction m with
  | nil => simp [slotWrite, slotRead]
  | cons e m ih =>
    unfold slotWrite
    split
    · simp [slotRead]
    · split
      · simp [slotRead]
      · rename_i h1 h2
        have : ¬ e.1 = a := fun h => h2 h.symm
        simpa [slotRead, this] using ih

/-- A write leaves every other slot. -/
theorem slotRead_slotWrite_ne (m : Slots) (a x : Nat) (d : Digest) (h : x ≠ a) :
    slotRead (slotWrite m a d) x = slotRead m x := by
  induction m with
  | nil => simp [slotWrite, slotRead, Ne.symm h]
  | cons e m ih =>
    unfold slotWrite
    split
    · simp [slotRead, Ne.symm h]
    · split
      · rename_i h2
        have : ¬ e.1 = x := fun h' => h (h'.symm.trans h2.symm)
        simp [slotRead, Ne.symm h, this]
      · by_cases hx : e.1 = x
        · simp [slotRead, hx]
        · simpa [slotRead, hx] using ih

/-- A cleared range reads empty. -/
theorem slotRead_slotClear_in (m : Slots) (lo hi a : Nat) (h : lo ≤ a ∧ a < hi) :
    slotRead (slotClear m lo hi) a = none := by
  simp only [slotRead, slotClear, Option.map_eq_none_iff, List.find?_eq_none, List.mem_filter]
  rintro e ⟨_, he⟩ hea
  simp only [decide_eq_true_eq] at hea
  subst hea
  simp [h.1, h.2] at he

/-- A clearing leaves every slot outside its range. -/
theorem slotRead_slotClear_out (m : Slots) (lo hi a : Nat) (h : ¬ (lo ≤ a ∧ a < hi)) :
    slotRead (slotClear m lo hi) a = slotRead m a := by
  induction m with
  | nil => rfl
  | cons e m ih =>
    unfold slotClear at ih ⊢
    rw [List.filter_cons]
    split
    · by_cases he : e.1 = a
      · simp [slotRead, he]
      · simpa [slotRead, he] using ih
    · rename_i hc
      have : ¬ e.1 = a := by rintro rfl; simp at hc; exact h hc
      simpa [slotRead, this] using ih

theorem slotWrite_keys (m : Slots) (a : Nat) (d : Digest) (e : Nat × Digest) (h : e ∈ slotWrite m a d) :
    e.1 = a ∨ e ∈ m := by
  induction m with
  | nil => simp [slotWrite] at h; exact .inl (by rw [h])
  | cons x m ih =>
    unfold slotWrite at h
    split at h
    · rcases List.mem_cons.mp h with h | h
      · exact .inl (by rw [h])
      · exact .inr h
    · split at h
      · rcases List.mem_cons.mp h with h | h
        · exact .inl (by rw [h])
        · exact .inr (List.mem_cons_of_mem _ h)
      · rcases List.mem_cons.mp h with h | h
        · exact .inr (h ▸ List.mem_cons_self)
        · rcases ih h with h | h
          · exact .inl h
          · exact .inr (List.mem_cons_of_mem _ h)

theorem slotsWf_iff (m : Slots) :
    slotsWf m = true ↔ (m.Pairwise fun a b => a.1 < b.1) ∧ ∀ e ∈ m, e.1 < Config.slots := by
  simp [slotsWf]

/-- A write keeps the canonical form. -/
theorem slotWrite_wf (m : Slots) (a : Nat) (d : Digest) (h : slotsWf m = true) (ha : a < Config.slots) :
    slotsWf (slotWrite m a d) = true := by
  rw [slotsWf_iff] at h ⊢
  refine ⟨?_, fun e he => ?_⟩
  · obtain ⟨h, -⟩ := h
    induction m with
    | nil => simp [slotWrite]
    | cons e m ih =>
      obtain ⟨h1, h2⟩ := List.pairwise_cons.mp h
      unfold slotWrite
      split
      · rename_i hlt
        refine List.pairwise_cons.mpr ⟨fun x hx => ?_, h⟩
        rcases List.mem_cons.mp hx with rfl | hx
        · exact hlt
        · exact lt_trans hlt (h1 x hx)
      · split
        · rename_i heq
          exact List.pairwise_cons.mpr ⟨fun x hx => by rw [heq]; exact h1 x hx, h2⟩
        · refine List.pairwise_cons.mpr ⟨fun x hx => ?_, ih h2⟩
          rcases slotWrite_keys m a d x hx with hx | hx
          · omega
          · exact h1 x hx
  · rcases slotWrite_keys m a d e he with he | he
    · omega
    · exact h.2 e he

/-- A clearing keeps the canonical form. -/
theorem slotClear_wf (m : Slots) (lo hi : Nat) (h : slotsWf m = true) : slotsWf (slotClear m lo hi) = true := by
  rw [slotsWf_iff] at h ⊢
  exact ⟨h.1.sublist List.filter_sublist, fun e he => h.2 e (List.mem_filter.mp he).1⟩

/-! ### Sound recorders -/

/-- An acceptance on a recorder that writes (R141) leaves it sound. -/
theorem accept_sound (r : Recorder) (k : Capture) (h : RecorderSound r) (ha : hasActiveBuffer r = true) :
    RecorderSound { r with current := some k, post := postSize r, state := .post } := by
  obtain ⟨⟨h1, h2, h3⟩, h4, h5, h6, h7, -, -, -, -, h12, h13, -, h15, h16, h17⟩ := h
  refine ⟨⟨h1, h2, h3⟩, h4, h5, h6, fun _ => h7 ha, nofun, nofun, fun _ => ?_, by simp, h12, h13, fun _ => .inr rfl,
    h15, h16, h17⟩
  simp only [postSize]; omega

/-- A change of what no soundness rests on. -/
theorem addSource_sound (r : Recorder) (src : TriggerSource) (hs : faultClass src = false) (h : RecorderSound r)
    (hst : r.state = .filling ∨ r.state = .post) :
    RecorderSound { r with waiting := addSource r.waiting src } := by
  obtain ⟨h0, h4, h5, h6, h7, h8, h9, h10, h11, h12, h13, -, h15, h16, h17⟩ := h
  refine ⟨h0, h4, h5, h6, h7, h8, h9, h10, h11, ?_, ?_, fun _ => hst, h15, h16, h17⟩
  all_goals cases src <;> first | exact absurd hs (by decide) | simpa [addSource] using by assumption

/-- The recorders of both sides are sound. -/
abbrev RecordersSound (s : State) : Prop := ∀ x, RecorderSound (s.side x).recorder

theorem recorders_congr (s t : State) (h : ∀ x, (t.side x).recorder = (s.side x).recorder) (hs : RecordersSound s) :
    RecordersSound t := fun x => by rw [h x]; exact hs x

/-- A change of one side's recorder that leaves it sound. -/
theorem modRec_sound (s : State) (sd : Side) (f : Recorder → Recorder)
    (hf : RecorderSound (s.side sd).recorder → RecorderSound (f (s.side sd).recorder)) (hs : RecordersSound s) :
    RecordersSound (s.modRec sd f) := by
  intro x
  rcases side_eq_or_other sd x with rfl | rfl
  · rw [modRec_side_recorder]; exact hf (hs _)
  · rw [modRec_side_other]; exact hs _

theorem loseTrigger_sound (s : State) (sd : Side) (src : TriggerSource) (hs : RecordersSound s) :
    RecordersSound (loseTrigger sd src s) :=
  modRec_sound _ _ _ (fun h => h) (recorders_congr s _ (fun x => by simp) hs)

theorem acceptTriggers_sound (s : State) (sd : Side) (x : SourceSet) (cs : List FaultCode) (n : Nat) (c : Bool)
    (ha : hasActiveBuffer (s.side sd).recorder = true) (hs : RecordersSound s) :
    RecordersSound (acceptTriggers sd x cs n c s) := by
  unfold acceptTriggers; dsimp only
  split
  · refine modRec_sound _ _ _ (fun h => h) (modRec_sound _ _ _ (fun h => ?_) hs)
    exact accept_sound _ _ h ha
  · exact modRec_sound _ _ _ (fun h => accept_sound _ _ h ha) hs

theorem merge_sound (r : Recorder) (trg : Trigger) (h : RecorderSound r) :
    RecorderSound { r with current := r.current.map (mergeTrigger trg) } := by
  obtain ⟨h0, h4, h5, h6, h7, h8, h9, h10, h11, h12⟩ := h
  exact ⟨h0, h4, h5, h6, h7, h8, h9, h10, by simpa using h11, h12⟩

/-- R138 keeps both recorders sound. -/
theorem takeTrigger_sound (s : State) (sd : Side) (trg : Trigger) (hs : RecordersSound s) :
    RecordersSound (takeTrigger sd trg s) := by
  unfold takeTrigger; dsimp only
  split
  · exact hs
  · split
    · exact loseTrigger_sound _ _ _ hs
    · exact modRec_sound _ _ _ (fun h => addSource_sound _ _ (Bool.eq_false_iff.mpr ‹¬faultClass _ = true›) h (.inl ‹_›)) hs
  · exact acceptTriggers_sound _ _ _ _ _ _ (by simp [hasActiveBuffer, *]) hs
  · split
    · exact modRec_sound _ _ _ (merge_sound _ _) hs
    · exact modRec_sound _ _ _ (fun h => addSource_sound _ _ (Bool.eq_false_iff.mpr ‹¬faultClass _ = true›) h (.inr ‹_›)) hs
  · exact loseTrigger_sound _ _ _ hs

theorem handTriggers_sound (s : State) (trg : Trigger) (l : List Side) (hs : RecordersSound s) :
    RecordersSound (handTriggers trg l s) := by
  have hf : ∀ (l : List Side) (s : State), RecordersSound s →
      RecordersSound (l.foldl (fun s sd => takeTrigger sd trg s) s) := by
    intro l
    induction l with
    | nil => exact fun _ h => h
    | cons a l ih => exact fun s h => ih _ (takeTrigger_sound _ _ _ h)
  exact hf _ _ (recorders_congr s _ (fun x => congrArg _ (drawOrder_side s l x)) hs)

theorem faultTriggers_sound (s : State) (c : FaultCode) (sd : FaultSide) (hs : RecordersSound s) :
    RecordersSound (faultTriggers c sd s) := by
  unfold faultTriggers; split
  · exact handTriggers_sound _ _ _ hs
  · exact hs

theorem sendRaise_sound (s : State) (c : FaultCode) (sd : FaultSide) (d : BitVec 16) (hs : RecordersSound s) :
    RecordersSound (sendRaise c sd d s) := by
  unfold sendRaise; split
  · unfold afterOnset
    refine faultTriggers_sound _ _ _ ?_
    have h1 : RecordersSound { s with table := tableRaise s.table c sd d s.time } :=
      recorders_congr s _ (fun x => by simp) hs
    split
    · exact recorders_congr _ _ (fun x => by
        rw [activateAll_reading (fun s : State => (s.side x).recorder) (by intros; simp)]) h1
    · exact h1
  · exact hs

theorem sendEvent_sound (s : State) (c : FaultCode) (sd : FaultSide) (d : BitVec 16) (hs : RecordersSound s) :
    RecordersSound (sendEvent c sd d s) :=
  faultTriggers_sound _ _ _ (recorders_congr s _ (fun x => by simp) hs)

/-- A chain of acts that leaves the recorders to triggers keeps both sound. -/
theorem Acts.recordersSound {b : Touch} {s0 s : State} (hb : b.recorder = false) (h : Acts b s0 s)
    (h0 : RecordersSound s0) : RecordersSound s := by
  induction h with
  | refl => exact h0
  | recorder hr => rw [hb] at hr; exact absurd hr (by decide)
  | inputs _ sd f hf _ ih =>
    refine recorders_congr _ _ (fun x => ?_) ih
    rcases side_eq_or_other sd x with rfl | rfl
    · rw [modSide_side, hf]
    · simp
  | trigger sd trg _ ih => exact takeTrigger_sound _ _ _ ih
  | lose sd src _ ih => exact loseTrigger_sound _ _ _ ih
  | raise c sd d _ _ _ ih => exact sendRaise_sound _ _ _ _ ih
  | event c sd d _ _ _ ih => exact sendEvent_sound _ _ _ _ ih
  | _ => rename_i ih; exact recorders_congr _ _ (fun x => by simp) ih

/-- A digest write into the ACTIVE buffer, with the state and the counts as they are (R137). -/
theorem putDigest_slots (r : Recorder) (d : Digest) (h : RecorderSound r) (ha : hasActiveBuffer r = true) :
    slotsWf (putDigest d r).slots = true ∧ (putDigest d r).w < r.size := by
  obtain ⟨⟨h1, h2, h3⟩, h4, h5, h6, h7, -, -, -, -, -, -, -, h15, -⟩ := h
  obtain ⟨-, hw⟩ := h7 ha
  have hs : 0 < r.size := by omega
  refine ⟨slotWrite_wf _ _ _ h15 ?_, Nat.mod_lt _ hs⟩
  have hn : 0 < bufferCount r := by omega
  have hp : writePointer r < bufferCount r := Nat.mod_lt _ hn
  have : (writePointer r + 1) * r.size ≤ bufferCount r * r.size := Nat.mul_le_mul_right _ hp
  have : bufferCount r * r.size ≤ Config.slots := Nat.div_mul_le_self _ _
  have : (writePointer r + 1) * r.size = writePointer r * r.size + r.size := Nat.succ_mul _ _
  simp only [slotIndex]; omega

/-- A start of buffer wp, with the state and fill count of FILLING, on a ring with a free buffer (R136). -/
theorem startFilling_sound (r : Recorder) (hc : CaptureSound r.size r.npre) (hrp : r.rp < bufferCount r)
    (hf : r.frozen < bufferCount r)
    (hh : r.headers.map (·.buffer) = (List.range r.frozen).map (fun i => (r.rp + i) % bufferCount r))
    (hk : r.current = none) (hw : r.waiting.fault = false ∧ r.waiting.cross = false)
    (hs : slotsWf r.slots = true) (h1 : r.cursorV < r.size) (h2 : r.cursorC < r.size) :
    RecorderSound (startFilling r) :=
  ⟨hc, hrp, Nat.le_of_lt hf, hh, fun _ => ⟨hf, Nat.lt_of_le_of_lt (Nat.zero_le _) h1⟩, nofun, fun _ => hc.2.1, nofun,
    by simp [startFilling, startBuffer, emptyBuffer, hk], hw.1, hw.2, fun _ => .inl rfl, slotClear_wf _ _ _ hs, h1, h2⟩

end Sys2Proof.Machine
end

