-- ==== Sys2Proof/Laws/Ring.lean ====
section
/-! SUPPORT. What a trigger and a report leave of a recorder: the ring, the header queue, the slots and the running
parameters. -/

namespace Sys2Proof.Machine

variable {b : Touch} {s0 s : State}

/-- The part of a recorder that no trigger changes: parameters, ring, write place, queue, cursors, slots, suppressed
count. -/
def ringOf (r : Recorder) :
    (Nat × Nat × Bool) × (Nat × Nat × Nat × Nat) × List CaptureHeader × BitVec 8 × (Nat × Nat) × Slots × BitVec 32 :=
  ((r.size, r.npre, r.crossLink), (r.rp, r.frozen, r.w, r.fill), r.headers, r.seq, (r.cursorV, r.cursorC), r.slots,
    r.framesSuppressed)

/-- A change of a recorder that leaves its ring leaves the ring of both. -/
theorem modRec_ring (s : State) (sd x : Side) (f : Recorder → Recorder) (hf : ∀ r, ringOf (f r) = ringOf r) :
    ringOf ((s.modRec sd f).side x).recorder = ringOf (s.side x).recorder := by
  obtain rfl | rfl := side_eq_or_other sd x <;> simp [hf]

@[simp] theorem loseTrigger_ring (s : State) (sd x : Side) (src : TriggerSource) :
    ringOf ((loseTrigger sd src s).side x).recorder = ringOf (s.side x).recorder := by
  unfold loseTrigger
  refine (modRec_ring _ _ _ _ ?_).trans rfl
  exact fun _ => rfl

@[simp] theorem acceptTriggers_ring (s : State) (sd x : Side) (y : SourceSet) (cs : List FaultCode) (n : Nat) (c : Bool) :
    ringOf ((acceptTriggers sd y cs n c s).side x).recorder = ringOf (s.side x).recorder := by
  unfold acceptTriggers
  simp only
  split
  · refine (modRec_ring _ _ _ _ ?_).trans (modRec_ring _ _ _ _ ?_) <;> exact fun _ => rfl
  · exact modRec_ring _ _ _ _ fun _ => rfl

@[simp] theorem takeTrigger_ring (s : State) (sd x : Side) (trg : Trigger) :
    ringOf ((takeTrigger sd trg s).side x).recorder = ringOf (s.side x).recorder := by
  unfold takeTrigger
  simp only
  split
  · rfl
  · split
    · exact loseTrigger_ring _ _ _ _
    · exact modRec_ring _ _ _ _ fun _ => rfl
  · exact acceptTriggers_ring _ _ _ _ _ _ _
  · split <;> exact modRec_ring _ _ _ _ fun _ => rfl
  · exact loseTrigger_ring _ _ _ _

@[simp] theorem handTriggers_ring (s : State) (trg : Trigger) (l : List Side) (x : Side) :
    ringOf ((handTriggers trg l s).side x).recorder = ringOf (s.side x).recorder := by
  have hf : ∀ (l : List Side) (s : State),
      ringOf ((l.foldl (fun s sd => takeTrigger sd trg s) s).side x).recorder = ringOf (s.side x).recorder := by
    intro l
    induction l with
    | nil => intro s; rfl
    | cons a l ih => intro s; rw [List.foldl_cons, ih, takeTrigger_ring]
  unfold handTriggers
  rw [hf]
  simp

@[simp] theorem sendRaise_ring (s : State) (c : FaultCode) (sd : FaultSide) (d : BitVec 16) (x : Side) :
    ringOf ((sendRaise c sd d s).side x).recorder = ringOf (s.side x).recorder := by
  have hf : ∀ (l : List Side) (s : State),
      ((l.foldl (fun s y => activateView y s) s).side x).recorder = (s.side x).recorder := by
    intro l
    induction l with
    | nil => intro s; rfl
    | cons a l ih => intro s; rw [List.foldl_cons, ih]; simp
  unfold sendRaise afterOnset faultTriggers
  split
  · split <;> split <;> simp [hf]
  · rfl

@[simp] theorem sendEvent_ring (s : State) (c : FaultCode) (sd : FaultSide) (d : BitVec 16) (x : Side) :
    ringOf ((sendEvent c sd d s).side x).recorder = ringOf (s.side x).recorder := by
  unfold sendEvent faultTriggers
  split <;> simp

/-- A chain of acts that may not touch the recorders' own rules leaves the ring of each. -/
theorem Acts.ring_eq (hb : b.recorder = false) (h : Acts b s0 s) (x : Side) :
    ringOf (s.side x).recorder = ringOf (s0.side x).recorder := by
  induction h with
  | refl => rfl
  | recorder hr => rw [hb] at hr; exact absurd hr (by decide)
  | inputs _ sd f hf _ ih =>
    rw [← ih]
    obtain rfl | rfl := side_eq_or_other sd x
    · rw [modSide_side, hf]
    · simp
  | trigger sd trg _ ih => rw [takeTrigger_ring]; exact ih
  | lose sd src _ ih => rw [loseTrigger_ring]; exact ih
  | raise c sd d _ _ _ ih => rw [sendRaise_ring]; exact ih
  | event c sd d _ _ _ ih => rw [sendEvent_ring]; exact ih
  | _ => rename_i ih; rw [← ih]; simp

end Sys2Proof.Machine
end

