-- ==== Sys2Proof/Laws/Untouched.lean ====
section
/-! SUPPORT. What a chain of acts leaves as it was, block by block. -/

namespace Sys2Proof.Machine

variable {b : Touch} {s0 s : State}

/-- The phase. No act but a reset or a load changes it. -/
theorem Acts.phase_eq (h : Acts b s0 s) : s.phase = s0.phase := by
  induction h with
  | refl => rfl
  | _ => rename_i ih; simpa using ih

/-- The queue is no act's to change. -/
theorem Acts.pending_eq (h : Acts b s0 s) : s.pending = s0.pending := by
  induction h with
  | refl => rfl
  | _ => rename_i ih; simpa using ih

/-- The clr block of each side, where it is not touched. -/
theorem Acts.clr_eq (hb : b.clr = false) (h : Acts b s0 s) (x : Side) : (s.side x).clr = (s0.side x).clr := by
  induction h with
  | refl => rfl
  | clr hx => rw [hb] at hx; exact absurd hx (by decide)
  | inputs _ sd f hf _ ih =>
    rcases side_eq_or_other sd x with rfl | rfl
    · rw [modSide_side, hf]; exact ih
    · simpa using ih
  | _ => rename_i ih; simpa using ih

/-- The stats block of each side, where it is not touched. -/
theorem Acts.stats_eq (hb : b.stats = false) (h : Acts b s0 s) (x : Side) : (s.side x).stats = (s0.side x).stats := by
  induction h with
  | refl => rfl
  | stats hx => rw [hb] at hx; exact absurd hx (by decide)
  | inputs _ sd f hf _ ih =>
    rcases side_eq_or_other sd x with rfl | rfl
    · rw [modSide_side, hf]; exact ih
    · simpa using ih
  | _ => rename_i ih; simpa using ih

/-- The expo block of each side, where it is not touched. -/
theorem Acts.expo_eq (hb : b.expo = false) (h : Acts b s0 s) (x : Side) : (s.side x).expo = (s0.side x).expo := by
  induction h with
  | refl => rfl
  | expo hx => rw [hb] at hx; exact absurd hx (by decide)
  | inputs _ sd f hf _ ih =>
    rcases side_eq_or_other sd x with rfl | rfl
    · rw [modSide_side, hf]; exact ih
    · simpa using ih
  | _ => rename_i ih; simpa using ih

/-- The glare block of each side, where it is not touched. -/
theorem Acts.glare_eq (hb : b.glare = false) (h : Acts b s0 s) (x : Side) : (s.side x).glare = (s0.side x).glare := by
  induction h with
  | refl => rfl
  | glare hx => rw [hb] at hx; exact absurd hx (by decide)
  | inputs _ sd f hf _ ih =>
    rcases side_eq_or_other sd x with rfl | rfl
    · rw [modSide_side, hf]; exact ih
    · simpa using ih
  | _ => rename_i ih; simpa using ih

/-- The dlt block of each side, where it is not touched. -/
theorem Acts.dlt_eq (hb : b.dlt = false) (h : Acts b s0 s) (x : Side) : (s.side x).dlt = (s0.side x).dlt := by
  induction h with
  | refl => rfl
  | dlt hx => rw [hb] at hx; exact absurd hx (by decide)
  | inputs _ sd f hf _ ih =>
    rcases side_eq_or_other sd x with rfl | rfl
    · rw [modSide_side, hf]; exact ih
    · simpa using ih
  | _ => rename_i ih; simpa using ih

/-- The vehicle block, where it is not touched. -/
theorem Acts.vehicle_eq (hb : b.vehicle = false) (h : Acts b s0 s) : s.vehicle = s0.vehicle := by
  induction h with
  | refl => rfl
  | vehicle hx => rw [hb] at hx; exact absurd hx (by decide)
  | _ => rename_i ih; simpa using ih

/-- The time block, where it is not touched. -/
theorem Acts.time_eq (hb : b.time = false) (h : Acts b s0 s) : s.time = s0.time := by
  induction h with
  | refl => rfl
  | time hx => rw [hb] at hx; exact absurd hx (by decide)
  | _ => rename_i ih; simpa using ih

/-- The active pattern, where it is not touched. -/
theorem Acts.pattern_eq (hb : b.pattern = false) (h : Acts b s0 s) : s.activePattern = s0.activePattern := by
  induction h with
  | refl => rfl
  | pattern hx => rw [hb] at hx; exact absurd hx (by decide)
  | _ => rename_i ih; simpa using ih

/-- The store, where it is not touched. -/
theorem Acts.store_eq (hb : b.store = false) (h : Acts b s0 s) : s.store = s0.store := by
  induction h with
  | refl => rfl
  | store hx => rw [hb] at hx; exact absurd hx (by decide)
  | _ => rename_i ih; simpa using ih

/-- The working copy changes at a load only (R173). -/
theorem Acts.cal_eq (h : Acts b s0 s) : s.cal = s0.cal := by
  induction h with
  | refl => rfl
  | store _ f hf _ ih => exact (hf _).trans ih
  | _ => rename_i ih; simpa using ih

/-- The input pins, where they are not touched. -/
theorem Acts.pins_eq (hb : b.pins = false) (h : Acts b s0 s) : s.supplyOk = s0.supplyOk ∧ s.eventIn = s0.eventIn := by
  induction h with
  | refl => exact ⟨rfl, rfl⟩
  | supplyOk hx => rw [hb] at hx; exact absurd hx (by decide)
  | eventIn hx => rw [hb] at hx; exact absurd hx (by decide)
  | _ => rename_i ih; simpa using ih

/-- What a side's composer holds beside its view state, its counts and marks. -/
def windowOf (x : Composer) : (Nat × Nat × Nat × Nat) × (Int × Int) × Nat × Bool × Bool × Option SlotFrame
    × Option (List Byte) :=
  ((x.originX, x.originY, x.targetX, x.targetY), (x.driverDx, x.driverDy), x.trailer, x.panLimited, x.firstFrame, x.slot,
    x.lastComposed)

@[simp] theorem changeView_window (s : State) (sd x : Side) (v : ViewState) :
    windowOf ((changeView sd v s).side x).view = windowOf (s.side x).view := by
  unfold changeView; split
  · rfl
  · rcases side_eq_or_other sd x with rfl | rfl <;> simp [windowOf]

@[simp] theorem activateView_window (s : State) (sd x : Side) :
    windowOf ((activateView sd s).side x).view = windowOf (s.side x).view := by
  unfold activateView enterInvalid
  rcases side_eq_or_other sd x with rfl | rfl <;> split
  all_goals first
    | rfl
    | simpa [windowOf] using changeView_window s _ _ _

@[simp] theorem setTest_window (s : State) (sd x : Side) :
    windowOf ((setTest sd s).side x).view = windowOf (s.side x).view := by
  unfold setTest enterTest; split
  · rfl
  · have := changeView_window (s.modSide sd fun y => { y with testFlag := true, testNumber := 0 }) sd x .test
    rcases side_eq_or_other sd x with rfl | rfl <;> simpa [windowOf] using this

@[simp] theorem clearTest_window (s : State) (sd x : Side) :
    windowOf ((clearTest sd s).side x).view = windowOf (s.side x).view := by
  unfold clearTest leaveTest; split
  · have := changeView_window (s.modSide sd fun y => { y with testFlag := false }) sd x .starting
    rcases side_eq_or_other sd x with rfl | rfl <;> simpa [windowOf] using this
  · rfl

@[simp] theorem sendRaise_window (s : State) (c : FaultCode) (sd : FaultSide) (d : BitVec 16) (x : Side) :
    windowOf ((sendRaise c sd d s).side x).view = windowOf (s.side x).view := by
  unfold sendRaise afterOnset; split
  · rw [faultTriggers_view]
    split
    · rw [activateAll_reading (fun s : State => windowOf (s.side x).view) (by intros; simp)]; simp
    · simp
  · rfl

/-- The far window of each side, where the composers are left to the reports (R77 and R78 change the view state
alone). -/
theorem Acts.window_eq (hb : b.view = false) (h : Acts b s0 s) (x : Side) :
    windowOf (s.side x).view = windowOf (s0.side x).view := by
  induction h with
  | refl => rfl
  | view hx => rw [hb] at hx; exact absurd hx (by decide)
  | inputs _ sd f hf _ ih =>
    rcases side_eq_or_other sd x with rfl | rfl
    · rw [modSide_side, hf]; exact ih
    · simpa using ih
  | _ => rename_i ih; simpa using ih

/-- R78: whether a view is in TEST follows its TEST flag through the reports. -/
theorem activateView_test (s : State) (sd x : Side) :
    (((activateView sd s).side x).view.state = .test) = ((s.side x).view.state = .test) := by
  by_cases hx : x = sd
  · subst hx
    unfold activateView
    split
    all_goals first
      | rfl
      | (have := enterInvalid_state s x; simp [*])
  · rw [activateView_other _ _ _ hx]

theorem sendRaise_test (s : State) (c : FaultCode) (sd : FaultSide) (d : BitVec 16) (x : Side) :
    (((sendRaise c sd d s).side x).view.state = .test) = ((s.side x).view.state = .test) := by
  unfold sendRaise afterOnset; split
  · rw [faultTriggers_view]
    split
    · rw [activateAll_reading (fun s : State => (s.side x).view.state = .test)
        (by intros; exact activateView_test _ _ _)]
      simp
    · simp
  · rfl

/-- R78: TEST and the TEST flag go together through every chain that leaves the composers to the reports. -/
theorem Acts.testSound (hb : b.view = false) (h : Acts b s0 s) (x : Side) (h0 : TestSound s0 x) : TestSound s x := by
  induction h with
  | refl => exact h0
  | view hx => rw [hb] at hx; exact absurd hx (by decide)
  | inputs _ sd f hf _ ih =>
    unfold TestSound at ih ⊢
    rcases side_eq_or_other sd x with rfl | rfl
    · rw [modSide_side, hf]; exact ih
    · simpa using ih
  | raise c sd d _ _ _ ih => simpa [TestSound, sendRaise_test] using ih
  | setTest sd _ ih =>
    unfold Sys2Proof.Machine.setTest; split
    · exact ih
    · rcases side_eq_or_other sd x with rfl | rfl
      · simp [TestSound, enterTest, changeView_state]
      · simpa [TestSound, enterTest, changeView_other _ _ _ _ (otherSide_ne sd)] using ih
  | clearTest sd _ ih =>
    unfold Sys2Proof.Machine.clearTest; split
    · rcases side_eq_or_other sd x with rfl | rfl
      · simp [TestSound, leaveTest, changeView_state]
      · simpa [TestSound, leaveTest, changeView_other _ _ _ _ (otherSide_ne sd)] using ih
    · exact ih
  | _ => rename_i ih; simpa [TestSound] using ih

end Sys2Proof.Machine
end

