-- ==== Sys2Proof/Laws/Load.lean ====
section
/-! SUPPORT. What the report of CAL_DEFAULTS at a load leaves (R175), and what a FAULT trigger does to a recorder at rest. -/

namespace Sys2Proof.Machine

/-- State, current capture, pending set and post count of a recorder. -/
def quietOf (r : Recorder) : RecorderState × Option Capture × SourceSet × Nat := (r.state, r.current, r.waiting, r.post)

/-- Neither recorder is ARMED or in POST. -/
abbrev Resting (s : State) : Prop := ∀ x, (s.side x).recorder.state ≠ .armed ∧ (s.side x).recorder.state ≠ .post

theorem modRec_quiet (s : State) (sd x : Side) (f : Recorder → Recorder) (hf : ∀ r, quietOf (f r) = quietOf r) :
    quietOf ((s.modRec sd f).side x).recorder = quietOf (s.side x).recorder := by
  obtain rfl | rfl := side_eq_or_other sd x <;> simp [hf]

theorem takeTrigger_quiet (s : State) (sd x : Side) (c : FaultCode) (h : Resting s) :
    quietOf ((takeTrigger sd (.fault c) s).side x).recorder = quietOf (s.side x).recorder := by
  unfold takeTrigger
  have h1 := h sd
  simp only
  split
  · rfl
  · simp only [sourceOf, faultClass, if_true]
    unfold loseTrigger
    refine (modRec_quiet _ _ _ _ ?_).trans rfl; exact fun _ => rfl
  · rename_i hh; exact absurd hh h1.1
  · rename_i hh; exact absurd hh h1.2
  · unfold loseTrigger
    refine (modRec_quiet _ _ _ _ ?_).trans rfl; exact fun _ => rfl

theorem resting_of (s t : State) (h : Resting s) (hq : ∀ x, quietOf (t.side x).recorder = quietOf (s.side x).recorder) : Resting t := by
  intro x
  have := hq x
  simp only [quietOf, Prod.mk.injEq] at this
  rw [this.1]; exact h x

/-- A FAULT trigger that finds neither recorder ARMED or in POST leaves both as they are, but for triggers_lost. -/
theorem handTriggers_quiet (s : State) (c : FaultCode) (l : List Side) (h : Resting s) (x : Side) :
    quietOf ((handTriggers (.fault c) l s).side x).recorder = quietOf (s.side x).recorder := by
  have hf : ∀ (l : List Side) (s : State), Resting s → 
      quietOf ((l.foldl (fun s sd => takeTrigger sd (.fault c) s) s).side x).recorder = quietOf (s.side x).recorder := by
    intro l
    induction l with
    | nil => intro s _; rfl
    | cons a l ih => intro s h; rw [List.foldl_cons, ih _ (resting_of _ _ h fun y => takeTrigger_quiet _ _ _ _ h), takeTrigger_quiet _ _ _ _ h]
  unfold handTriggers
  rw [hf]
  · simp
  · intro x; simpa using h x

theorem reportDefaults_view (s : State) (x : Side) : ((reportDefaults s).side x).view = (s.side x).view := by
  unfold reportDefaults sendRaise afterOnset
  split
  · simp
  · split
    · simp [severityOf]
    · rfl

theorem reportDefaults_quiet (s : State) (h : Resting s) (x : Side) :
   quietOf ((reportDefaults s).side x).recorder = quietOf (s.side x).recorder := by
  unfold reportDefaults sendRaise afterOnset faultTriggers
  split
  · simp
  · split
    · simp only [severityOf, reduceCtorEq, if_false]
      split
      · refine (handTriggers_quiet _ _ _ ?_ x).trans rfl
        exact h
      · rfl
    · rfl
theorem reportDefaults_ring (s : State) (x : Side) :
   ringOf ((reportDefaults s).side x).recorder = ringOf (s.side x).recorder := by
  unfold reportDefaults; split <;> simp
theorem reportDefaults_port (s : State) (x : Port) : (reportDefaults s).port x = s.port x := by
  unfold reportDefaults sendRaise afterOnset
  split
  · simp
  · split
    · simp [severityOf]
    · rfl
theorem reportDefaults_store (s : State) : (reportDefaults s).store = s.store := by
  unfold reportDefaults; split <;> simp
/-- The report of a load is a chain of acts. -/
theorem reportDefaults_acts (s : State) : Acts {} s (reportDefaults s) := by
  unfold reportDefaults; split
  · exact Acts.clear _ _ .refl
  · exact Acts.raise _ _ _ rfl rfl .refl

theorem noRegion_perRegion (f : Region → Bool) : noRegion (perRegion f) = true ↔ ∀ r, f r = false := by
  simp only [noRegion, perRegion, Bool.not_eq_true', Bool.or_eq_false_iff]
  constructor
  · rintro ⟨⟨⟨⟨a, b⟩, c⟩, d⟩, e⟩ r; cases r <;> assumption
  · intro h; simp [h]

/-- An event leaves the first record where it has another key. -/
theorem tableEvent_head (t : FaultTable) (c sd d now) (r : FaultRecord) (h : t.records[0]? = some r) (hk : hasKey c sd r = false) :
   (tableEvent t c sd d now).records[0]? = some r := by
  unfold tableEvent
  split
  · simp [appendRecord]; cases ht : t.records <;> simp_all
  · simp [changeRecord, h, hk]

end Sys2Proof.Machine
end

