-- ==== Sys2Proof/Laws/Control.lean ====
section
/-! SUPPORT. What starting, stopping and restarting a recorder leave of it (R153, R159). -/

namespace Sys2Proof.Machine

/-- R153: a STOP keeps the ring and the queue, and empties the ACTIVE buffer. -/
theorem stopRecorder_spec (r : Recorder) : (stopRecorder r).state = .stopped ∧ (stopRecorder r).current = none ∧ (stopRecorder r).waiting = noSources
  ∧ (stopRecorder r).rp = r.rp ∧ (stopRecorder r).frozen = r.frozen ∧ (stopRecorder r).headers = r.headers ∧ (stopRecorder r).seq = r.seq 
  ∧ (stopRecorder r).size = r.size ∧ (stopRecorder r).slots = if hasActiveBuffer r then slotClear r.slots (slotIndex r (writePointer r) 0) (slotIndex r (writePointer r + 1) 0) else r.slots := by
  unfold stopRecorder emptyBuffer
  cases hasActiveBuffer r <;> simp

/-- R153: a START takes buffer wp, or FULL where none is free. -/
theorem startRecorder_spec (r : Recorder) : (startRecorder r).state = (if r.frozen < bufferCount r then .filling else .full) ∧ (startRecorder r).current = r.current ∧ (startRecorder r).waiting = r.waiting
  ∧ (startRecorder r).rp = r.rp ∧ (startRecorder r).frozen = r.frozen ∧ (startRecorder r).headers = r.headers ∧ (startRecorder r).seq = r.seq 
  ∧ (startRecorder r).size = r.size ∧ (startRecorder r).npre = r.npre ∧ (startRecorder r).crossLink = r.crossLink ∧ (startRecorder r).cursorV = r.cursorV ∧ (startRecorder r).cursorC = r.cursorC ∧ (startRecorder r).framesSuppressed = r.framesSuppressed
  ∧ (startRecorder r).slots = if r.frozen < bufferCount r then slotClear r.slots (slotIndex r (writePointer r) 0) (slotIndex r (writePointer r + 1) 0) else r.slots := by
  unfold startRecorder startFilling startBuffer emptyBuffer
  split <;> simp

theorem bufferCount_congr (r r' : Recorder) (h : r.size = r'.size) : bufferCount r = bufferCount r' := by unfold bufferCount; rw [h]

/-- No slot of a FROZEN buffer lies in buffer wp while a buffer is free (R134). -/
theorem frozen_ne_writeBuffer (r : Recorder) (hs : RecorderSound r) (hf : r.frozen < bufferCount r) (bb i : Nat) (hb : bufferMark r bb = .frozen) (hi : i < r.size) (m : Slots) :
    slotRead (slotClear m (writePointer r * r.size) ((writePointer r + 1) * r.size)) (bb * r.size + i) = slotRead m (bb * r.size + i) := by
  apply slotRead_slotClear_out
  rintro ⟨h1, h2⟩
  have hbb : bb = writePointer r := by
    have : 0 < r.size := by omega
    have a1 : writePointer r < bb + 1 := by
      by_contra hc
      have := Nat.mul_le_mul_right r.size (by omega : bb + 1 ≤ writePointer r)
      rw [Nat.add_mul] at this; omega
    have a2 : bb < writePointer r + 1 := by
      by_contra hc
      have := Nat.mul_le_mul_right r.size (by omega : writePointer r + 1 ≤ bb)
      omega
    omega
  unfold bufferMark at hb
  split at hb
  · rename_i hany
    simp only [List.any_eq_true, List.mem_range, decide_eq_true_eq] at hany
    obtain ⟨j, hj, hjb⟩ := hany
    rw [hbb] at hjb
    unfold writePointer at hjb
    have hrp := hs.2.1
    generalize bufferCount r = N at *
    have e1 : (r.rp + j) % N = if r.rp + j < N then r.rp + j else r.rp + j - N := by
      split
      · exact Nat.mod_eq_of_lt ‹_›
      · rw [Nat.mod_eq_sub_mod (by omega), Nat.mod_eq_of_lt (by omega)]
    have e2 : (r.rp + r.frozen) % N = if r.rp + r.frozen < N then r.rp + r.frozen else r.rp + r.frozen - N := by
      split
      · exact Nat.mod_eq_of_lt ‹_›
      · rw [Nat.mod_eq_sub_mod (by omega), Nat.mod_eq_of_lt (by omega)]
    rw [e1, e2] at hjb
    split at hjb <;> split at hjb <;> omega
  · split at hb <;> cases hb

/-- R159: what a RESTART's load leaves of a recorder. -/
theorem restartRecorder_spec (k : CaptureCal) (x y : Recorder) (hx : RecorderSound x) (hy : y = restartRecorder k x) :
   y.seq = x.seq ∧ y.size = k.size ∧ y.npre = k.npre
            ∧ y.crossLink = k.crossLink ∧ y.cursorV = 0 ∧ y.cursorC = 0 ∧ y.current = none
            ∧ y.waiting = noSources ∧ y.framesSuppressed = 0
            ∧ (k.size = x.size →
                y.rp = x.rp ∧ y.frozen = x.frozen ∧ y.headers = x.headers
                  ∧ ∀ b i, bufferMark x b = .frozen → i < x.size →
                      slotRead y.slots (slotIndex y b i) = slotRead x.slots (slotIndex x b i))
            ∧ (k.size ≠ x.size →
                y.rp = 0 ∧ y.frozen = 0 ∧ y.headers = [] ∧ ∀ a, slotRead y.slots a = none)
            ∧ (k.autostart = false → x.state = .stopped → y.state = .stopped)
            ∧ (k.autostart = true ∨ x.state ≠ .stopped →
                y.state = if y.frozen < bufferCount y then .filling else .full) := by
  obtain ⟨a1,a2,a3,a4,a5,a6,a7,a8,a9⟩ := stopRecorder_spec x
  unfold restartRecorder at hy
  by_cases hk : k.size = x.size
  · rw [if_pos hk] at hy
    extract_lets r1 r2 at hy
    obtain ⟨b1,b2,b3,b4,b5,b6,b7,b8,b9,b10,b11,b12,b13,b14⟩ := startRecorder_spec r2
    have hslots : ∀ b i, bufferMark x b = .frozen → i < x.size → slotRead r2.slots (b * x.size + i) = slotRead x.slots (b * x.size + i) := by
      intro b i h1 h2
      show slotRead (stopRecorder x).slots _ = _
      rw [a9]
      split
      · rename_i ha
        simp only [slotIndex, Nat.add_zero]
        exact frozen_ne_writeBuffer x hx (hx.2.2.2.2.1 ha).1 b i h1 h2 _
      · rfl
    have hbc : bufferCount r2 = bufferCount x := bufferCount_congr _ _ hk
    have hwp : writePointer r2 = writePointer x := by
      unfold writePointer; rw [hbc]; show ((stopRecorder x).rp + (stopRecorder x).frozen) % _ = _; rw [a4, a5]
    split at hy
    · subst hy
      rename_i hst
      refine ⟨b7.trans a7, b8, b9, b10, b11, b12, b2.trans a2, b3.trans a3, b13, ?_, fun h => absurd hk h, ?_, ?_⟩
      · intro _
        refine ⟨b4.trans a4, b5.trans a5, b6.trans a6, ?_⟩
        intro b i h1 h2
        simp only [slotIndex]
        rw [b14, show (startRecorder r2).size = x.size from b8.trans hk]
        split
        · rename_i hf
          rw [hwp]
          simp only [slotIndex, Nat.add_zero]
          rw [show r2.size = x.size from hk]
          rw [frozen_ne_writeBuffer x hx (by rw [← hbc]; simpa [show r2.frozen = x.frozen from a5] using hf) b i h1 h2]
          exact hslots b i h1 h2
        · exact hslots b i h1 h2
      · intro h1 h2; rcases hst with h | h
        · rw [h1] at h; cases h
        · exact absurd h2 h
      · intro _; rw [b1, b5, bufferCount_congr _ r2 b8]
    · rename_i hst
      subst hy
      refine ⟨a7, rfl, rfl, rfl, rfl, rfl, a2, a3, rfl, ?_, fun h => absurd hk h, fun _ _ => a1, fun h => absurd h hst⟩
      intro _
      refine ⟨a4, a5, a6, ?_⟩
      intro b i h1 h2
      have := hslots b i h1 h2
      simp only [slotIndex]
      rw [show r2.size = x.size from hk]; exact this
  · rw [if_neg hk] at hy
    extract_lets r1 r2 at hy
    obtain ⟨b1,b2,b3,b4,b5,b6,b7,b8,b9,b10,b11,b12,b13,b14⟩ := startRecorder_spec r2
    split at hy
    · subst hy
      rename_i hst
      refine ⟨b7.trans a7, b8, b9, b10, b11, b12, b2.trans a2, b3.trans a3, b13, fun h => absurd h hk, ?_, ?_, ?_⟩
      · intro _
        refine ⟨b4, b5, b6, ?_⟩
        intro a
        rw [b14]
        split <;> rfl
      · intro h1 h2; rcases hst with h | h
        · rw [h1] at h; cases h
        · exact absurd h2 h
      · intro _; rw [b1, b5, bufferCount_congr _ r2 b8]
    · rename_i hst
      subst hy
      exact ⟨a7, rfl, rfl, rfl, rfl, rfl, a2, a3, rfl, fun h => absurd h hk, fun _ => ⟨rfl, rfl, rfl, fun _ => rfl⟩, fun _ _ => a1, fun h => absurd h hst⟩

end Sys2Proof.Machine
end

