-- ==== Sys2Proof/Laws/Pending.lean ====
section
/-! SUPPORT. What a header report and an issue do to the pending exposure commands (R35 to R38). -/

namespace Sys2Proof.Machine

/-- R37: an entry that counts as unconfirmed, seen on the controller. -/
theorem countUnconfirmed_expo (s : State) (sd : Side) (tag : BitVec 4) :
    ((countUnconfirmed sd tag s).side sd).expo = { (s.side sd).expo with confirmedRun := 0 } := by
  unfold countUnconfirmed
  rw [(sendRaise_same _ _ _ _ (by decide)).side_eq]; simp

/-- R36, R38: a confirmed entry, seen on the controller. -/
theorem countConfirmed_expo (s : State) (sd : Side) : ((countConfirmed sd s).side sd).expo =
    { (s.side sd).expo with confirmedRun := min ((s.side sd).expo.confirmedRun + 1) 30 } := by
  unfold countConfirmed; simp only; split
  · rw [(sendClear_same _ _ _).side_eq]; simp
  · simp

theorem countUnconfirmed_active (s : State) (sd : Side) (tag : BitVec 4) :
    activeKey .exposureTrack (faultSideOf sd) (countUnconfirmed sd tag s).table :=
  sendRaise_active _ _ _ _ (by decide)

theorem countUnconfirmed_record (s : State) (sd : Side) (tag : BitVec 4) :
    findRecord (countUnconfirmed sd tag s).table .exposureTrack (faultSideOf sd) = findRecord
      (tableRaise s.table .exposureTrack (faultSideOf sd) (tag.setWidth 16) s.time) .exposureTrack (faultSideOf sd) := by
  unfold countUnconfirmed
  rw [sendRaise_find _ _ _ _ (by decide)]; simp

theorem unconfirmed_fold_expo (sd : Side) (l : List PendingCommand) (s : State) :
    ((l.foldl (fun s e => countUnconfirmed sd e.tag s) s).side sd).expo =
      { (s.side sd).expo with confirmedRun := if l = [] then (s.side sd).expo.confirmedRun else 0 } := by
  induction l generalizing s with
  | nil => rfl
  | cons e l ih => rw [List.foldl_cons, ih, countUnconfirmed_expo]; simp

theorem unconfirmed_fold_active (sd : Side) (l : List PendingCommand) (s : State) (h : l ≠ []) :
    activeKey .exposureTrack (faultSideOf sd) (l.foldl (fun s e => countUnconfirmed sd e.tag s) s).table := by
  induction l using List.reverseRecOn with
  | nil => exact absurd rfl h
  | append_singleton l e => rw [List.foldl_append]; exact countUnconfirmed_active _ _ _

theorem isLate_eq (f : FrameNumber) (e : PendingCommand) : isLate f e = decide (LateAt f e) := by
  simp [isLate, LateAt, Bool.decide_and]

/-! ### The header report (R36 to R38) -/

/-- A pending list cut at the first entry with the reported tag: the older entries, the entry found, the newer ones. -/
structure CutAt (a : Byte) (l older newer : List PendingCommand) (found : Option PendingCommand) : Prop where
  all : l = older ++ found.toList ++ newer
  before : ∀ e ∈ older, e.tag.setWidth 8 ≠ a
  here : ∀ e, found = some e → e.tag.setWidth 8 = a
  nowhere : found = none → older = [] ∧ ∀ e ∈ newer, e.tag.setWidth 8 ≠ a

/-- R36: the search for the reported tag stops at the entry found. -/
theorem CutAt.dropWhile {a : Byte} {l older newer : List PendingCommand} {found : Option PendingCommand}
    (h : CutAt a l older newer found) :
    (l.dropWhile fun e => !(e.tag.setWidth 8 == a)) = found.elim [] (· :: newer) := by
  obtain ⟨rfl, h1, h2, h3⟩ := h
  cases found with
  | none =>
    obtain ⟨rfl, h4⟩ := h3 rfl
    simp only [List.nil_append, Option.toList_none, Option.elim, List.dropWhile_eq_nil_iff]
    intro e he; simpa using h4 e he
  | some e =>
    have skip : ∀ l : List PendingCommand, (∀ e ∈ l, e.tag.setWidth 8 ≠ a) → ∀ m,
        ((l ++ m).dropWhile fun e => !(e.tag.setWidth 8 == a)) = m.dropWhile fun e => !(e.tag.setWidth 8 == a) := by
      intro l
      induction l with
      | nil => intro _ m; rfl
      | cons x l ih =>
        intro h m
        have hx : (x.tag.setWidth 8 == a) = false := by simpa using h x (by simp)
        simp only [List.cons_append, List.dropWhile_cons, hx, Bool.not_false, if_true]
        exact ih (fun e he => h e (by simp [he])) m
    rw [List.append_assoc, skip older h1]
    have := h2 e rfl
    simp [this]

/-- R36, R38: the run and the record of EXPOSURE_TRACK after the entry found has been judged. -/
def Judged (sd : Side) (x : Exposure) (found : Option PendingCommand) (t g : Nat) (s u : State) : Prop :=
  (found = none → (u.side sd).expo.confirmedRun = x.confirmedRun
      ∧ findRecord u.table .exposureTrack (faultSideOf sd) = findRecord s.table .exposureTrack (faultSideOf sd))
  ∧ (∀ e, found = some e → (e.t ≠ t ∨ e.g ≠ g) → (u.side sd).expo.confirmedRun = 0
      ∧ findRecord u.table .exposureTrack (faultSideOf sd) = findRecord
          (tableRaise s.table .exposureTrack (faultSideOf sd) (e.tag.setWidth 16) s.time)
          .exposureTrack (faultSideOf sd))
  ∧ (∀ e, found = some e → e.t = t → e.g = g → (u.side sd).expo.confirmedRun = min (x.confirmedRun + 1) 30
      ∧ (x.confirmedRun = 29 → quietKey .exposureTrack (faultSideOf sd) u.table)
      ∧ (x.confirmedRun ≠ 29 → findRecord u.table .exposureTrack (faultSideOf sd)
          = findRecord s.table .exposureTrack (faultSideOf sd)))

/-- R36: what the search for the reported tag does. -/
theorem confirmCommand_spec (s : State) (sd : Side) (a : Byte) (t g : Nat) (older newer : List PendingCommand)
    (found : Option PendingCommand) (h : CutAt a (s.side sd).expo.commands older newer found) :
    ((confirmCommand sd a t g s).side sd).expo.commands = newer
      ∧ Judged sd (s.side sd).expo found t g s (confirmCommand sd a t g s) := by
  have hd := h.dropWhile
  unfold confirmCommand
  rw [hd]
  cases found with
  | none =>
    obtain ⟨rfl, -⟩ := h.nowhere rfl
    exact ⟨by simpa using h.all, fun _ => ⟨rfl, rfl⟩, by simp, by simp⟩
  | some e =>
    simp only [Option.elim]
    by_cases hm : e.t = t ∧ e.g = g
    · rw [if_pos hm]
      refine ⟨by rw [countConfirmed_expo]; simp, fun h => (by cases h), ?_, ?_⟩
      · intro e' h he; injection h with h; subst h
        rcases he with he | he
        · exact absurd hm.1 he
        · exact absurd hm.2 he
      · intro e' _ _ _
        refine ⟨by rw [countConfirmed_expo]; simp, ?_, ?_⟩ <;> intro h29 <;> unfold countConfirmed
        · have : ((s.modExpo sd fun y => { y with commands := newer }).side sd).expo.confirmedRun = 29 := by
            simp [h29]
          simp only [this, if_true]
          exact tableClear_quiet _ _ _ _
        · have : ((s.modExpo sd fun y => { y with commands := newer }).side sd).expo.confirmedRun ≠ 29 := by
            simp [h29]
          simp only [this, if_false]; simp
    · rw [if_neg hm]
      refine ⟨by rw [countUnconfirmed_expo]; simp, fun h => (by cases h), ?_, ?_⟩
      · intro e' h _; injection h with h; subst h
        exact ⟨by rw [countUnconfirmed_expo], by rw [countUnconfirmed_record]; simp⟩
      · intro e' h h4 h5; injection h with h; subst h; exact absurd ⟨h4, h5⟩ hm

/-- R36 to R38: all that a header report does to the pending list, the run and the record of EXPOSURE_TRACK. -/
theorem headerReport_spec (s t : State) (sd : Side) (f : FrameNumber) (a : Byte) (tr gr : Nat)
    (older newer : List PendingCommand) (found : Option PendingCommand)
    (h : CutAt a (s.side sd).expo.commands older newer found) (ht : t = headerReport sd f a tr gr s) :
    (t.side sd).expo.commands = newer.filter (fun e => decide ¬ LateAt f e)
      ∧ ((∃ e ∈ newer, LateAt f e) → (t.side sd).expo.confirmedRun = 0
          ∧ activeKey .exposureTrack (faultSideOf sd) t.table)
      ∧ ((∀ e ∈ newer, ¬ LateAt f e) → Judged sd (s.side sd).expo found tr gr s t) := by
  obtain ⟨c1, c2⟩ := confirmCommand_spec s sd a tr gr older newer found h
  generalize hu : confirmCommand sd a tr gr s = u at c1 c2
  have htt : t = (newer.filter (isLate f)).foldl (fun s e => countUnconfirmed sd e.tag s)
      ((u.modExpo sd fun x => { x with lastReported := some a }).modExpo sd fun x =>
        { x with commands := x.commands.filter fun e => !isLate f e }) := by
    rw [ht]; unfold headerReport dropLate; simp only; rw [hu]; simp [c1]
  have hexp : (t.side sd).expo = { (u.side sd).expo with
      lastReported := some a, commands := newer.filter fun e => !isLate f e
      confirmedRun := if newer.filter (isLate f) = [] then (u.side sd).expo.confirmedRun else 0 } := by
    rw [htt, unconfirmed_fold_expo]; simp [c1]
  refine ⟨?_, ?_, ?_⟩
  · rw [hexp]; simp only; apply List.filter_congr; intro e _; rw [isLate_eq, decide_not]
  · rintro ⟨e, he, hl⟩
    have hne : newer.filter (isLate f) ≠ [] := by
      intro h0; exact (List.filter_eq_nil_iff.mp h0) e he (by rw [isLate_eq]; exact decide_eq_true hl)
    refine ⟨by rw [hexp]; simp [hne], ?_⟩
    rw [htt]; exact unconfirmed_fold_active _ _ _ hne
  · intro hno
    have h0 : newer.filter (isLate f) = [] := by
      rw [List.filter_eq_nil_iff]; intro e he; rw [isLate_eq]; simpa using hno e he
    have htab : t.table = u.table := by rw [htt, h0]; simp
    simpa [Judged, hexp, h0, htab] using c2

/-! ### The issue of a command (R35) -/

/-- R35 steps 1 to 3: all that an issue does to the controller and to the record of EXPOSURE_TRACK. -/
theorem issueCommand_spec (s : State) (sd : Side) (n : FrameNumber) (t g : Nat) (x : Exposure)
    (list : List PendingCommand) (hx : x = (s.side sd).expo)
    (hl : list = x.commands ++ [{ tag := nextTag x, t := t, g := g, due := n + 3 }]) :
    (issueCommand sd n t g s).2 = { tag := nextTag x, t := t, g := g }
      ∧ (list.length ≠ 4 → (issueCommand sd n t g s).1 = (s.modExpo sd fun x =>
            { x with lastIssued := nextTag x, commands := list }).modClr sd (handCommand ⟨nextTag x, t, g⟩))
      ∧ (list.length = 4 → ∃ e rest, list = e :: rest ∧ (issueCommand sd n t g s).1
          = (countUnconfirmed sd e.tag (s.modExpo sd fun x =>
              { x with lastIssued := nextTag x, commands := rest })).modClr sd (handCommand ⟨nextTag x, t, g⟩)) := by
  subst hx
  have happ : ((s.modExpo sd (appendCommand n t g)).side sd).expo.commands = list := by
    rw [hl]; simp [appendCommand]
  have hset : ∀ rest, (s.modExpo sd (appendCommand n t g)).modExpo sd (fun x => { x with commands := rest })
      = s.modExpo sd fun x => { x with lastIssued := nextTag x, commands := rest } := by
    intro rest
    simp only [State.modExpo, modSide_modSide]; rfl
  refine ⟨rfl, ?_, ?_⟩
  · intro h
    have hp : pushOutCommand sd (s.modExpo sd (appendCommand n t g)) = s.modExpo sd (appendCommand n t g) := by
      unfold pushOutCommand; rw [happ]
      split
      · rename_i e rest
        rw [if_neg (by simp only [List.length_cons] at h; omega)]
      · rfl
    show (pushOutCommand sd _).modClr sd _ = _
    rw [hp]
    have : s.modExpo sd (appendCommand n t g) = s.modExpo sd fun x => { x with lastIssued := nextTag x, commands := list } := by
      refine modSide_congr _ _ _ _ ?_
      rw [hl]; rfl
    rw [this]
  · intro h
    cases hc : list with
    | nil => rw [hc] at h; cases h
    | cons e rest =>
      refine ⟨e, rest, rfl, ?_⟩
      show (pushOutCommand sd _).modClr sd _ = _
      unfold pushOutCommand
      rw [happ, hc]
      simp only
      rw [if_pos (by rw [hc] at h; simpa using h), hset]

end Sys2Proof.Machine
end

