-- ==== Sys2Proof/Laws/Returns.lean ====
section
/-! SUPPORT. What a frame return does to the records of DISP_SIGNATURE and MONITOR_FAULT (R94 to R96): counted mismatches,
a counted match, and the flags. -/

namespace Sys2Proof.Machine

/-- A raise of a key's record that is ACTIVE already leaves it. -/
theorem findRecord_raise_active (t : FaultTable) (c : FaultCode) (sd : FaultSide) (d : BitVec 16) (now : Stamp)
    {r : FaultRecord} (h : findRecord t c sd = some r) (ha : r.active = true) :
    findRecord (tableRaise t c sd d now) c sd = some r := by rw [findRecord_raise, h]; simp [ha]

/-- After a raise the key's record is ACTIVE, whatever it was. -/
theorem findRecord_raise_some (t : FaultTable) (c : FaultCode) (sd : FaultSide) (d : BitVec 16) (now : Stamp) :
    ∃ r, findRecord (tableRaise t c sd d now) c sd = some r ∧ r.active = true := by
  rw [findRecord_raise]
  cases findRecord t c sd with
  | none => exact ⟨_, rfl, rfl⟩
  | some r =>
    refine ⟨_, rfl, ?_⟩
    by_cases h : r.active = true
    · simp [h]
    · simp [h, reactivate]

/-- Where a second raise meets the record that a first one left, it leaves it. -/
theorem findRecord_raise_again {t u : FaultTable} {c : FaultCode} {sd : FaultSide} {d e : BitVec 16} {now : Stamp}
    (h : findRecord u c sd = findRecord (tableRaise t c sd d now) c sd) :
    findRecord (tableRaise u c sd e now) c sd = findRecord (tableRaise t c sd d now) c sd := by
  obtain ⟨r, hr, ha⟩ := findRecord_raise_some t c sd d now
  rw [findRecord_raise_active u c sd e now (h.trans hr) ha, hr]

/-- R95: what a counted mismatch leaves of the clock, the calibration, the run and the other codes' records. -/
theorem countMismatch_rest (s : State) (sd : Side) :
    (countMismatch sd s).time = s.time ∧ (countMismatch sd s).cal = s.cal
      ∧ ((countMismatch sd s).side sd).dlt.mismatchRun = min ((s.side sd).dlt.mismatchRun + 1) 255
      ∧ ∀ c x, c ≠ .captureLost → c ≠ .dispSignature →
          findRecord (countMismatch sd s).table c x = findRecord s.table c x := by
  unfold countMismatch
  dsimp only
  split
  · refine ⟨by simp, by simp, by simp, fun c x h h2 => ?_⟩
    rw [sendRaise_find_other _ _ _ _ _ _ h (Ne.symm h2)]; simp
  · exact ⟨by simp, by simp, by simp, fun _ _ _ _ => by simp⟩

/-- R95: a counted mismatch raises DISP_SIGNATURE where its run is at least SIG_LIMIT, and else leaves the record. -/
theorem countMismatch_record (s : State) (sd : Side) :
    findRecord (countMismatch sd s).table .dispSignature (faultSideOf sd) =
      if s.cal.integrity.sigLimit ≤ min ((s.side sd).dlt.mismatchRun + 1) 255 then
        findRecord (tableRaise s.table .dispSignature (faultSideOf sd)
          (BitVec.ofNat 16 (min ((s.side sd).dlt.mismatchRun + 1) 255)) s.time) .dispSignature (faultSideOf sd)
      else findRecord s.table .dispSignature (faultSideOf sd) := by
  unfold countMismatch
  dsimp only
  split
  · rw [sendRaise_find _ _ _ _ (by decide)]; simp
  · simp

/-- The same for mismatches counted one after another. -/
theorem mismatches_rest {α : Type} (sd : Side) (l : List α) (s : State) (hr : (s.side sd).dlt.mismatchRun ≤ 255) :
    (l.foldl (fun s _ => countMismatch sd s) s).time = s.time
      ∧ (l.foldl (fun s _ => countMismatch sd s) s).cal = s.cal
      ∧ ((l.foldl (fun s _ => countMismatch sd s) s).side sd).dlt.mismatchRun
          = min ((s.side sd).dlt.mismatchRun + l.length) 255
      ∧ ∀ c x, c ≠ .captureLost → c ≠ .dispSignature →
          findRecord (l.foldl (fun s _ => countMismatch sd s) s).table c x = findRecord s.table c x := by
  induction l generalizing s with
  | nil => exact ⟨rfl, rfl, by simp [hr], fun _ _ _ _ => rfl⟩
  | cons a l ih =>
    obtain ⟨a1, a2, a3, a4⟩ := countMismatch_rest s sd
    obtain ⟨b1, b2, b3, b4⟩ := ih (countMismatch sd s) (by rw [a3]; omega)
    refine ⟨b1.trans a1, b2.trans a2, ?_, fun c x h h2 => (b4 c x h h2).trans (a4 c x h h2)⟩
    rw [List.foldl_cons, b3, a3, List.length_cons]; omega

/-- R95: of mismatches counted one after another the first at or past SIG_LIMIT raises DISP_SIGNATURE, and the later
raises meet its ACTIVE record. -/
theorem mismatches_record {α : Type} (sd : Side) (l : List α) (s : State) (hr : (s.side sd).dlt.mismatchRun ≤ 255)
    (hl : s.cal.integrity.sigLimit ≤ 255) :
    findRecord (l.foldl (fun s _ => countMismatch sd s) s).table .dispSignature (faultSideOf sd) =
      if 1 ≤ l.length ∧ s.cal.integrity.sigLimit ≤ (s.side sd).dlt.mismatchRun + l.length then
        findRecord (tableRaise s.table .dispSignature (faultSideOf sd)
          (BitVec.ofNat 16 (min 255 (max s.cal.integrity.sigLimit ((s.side sd).dlt.mismatchRun + 1)))) s.time)
          .dispSignature (faultSideOf sd)
      else findRecord s.table .dispSignature (faultSideOf sd) := by
  induction l generalizing s with
  | nil => simp
  | cons a l ih =>
    obtain ⟨a1, a2, a3, -⟩ := countMismatch_rest s sd
    have ar := countMismatch_record s sd
    rw [List.foldl_cons, ih (countMismatch sd s) (by rw [a3]; omega) (by rw [a2]; exact hl), a1, a2, a3,
      List.length_cons]
    by_cases h : s.cal.integrity.sigLimit ≤ min ((s.side sd).dlt.mismatchRun + 1) 255
    · rw [if_pos h] at ar
      have e : min ((s.side sd).dlt.mismatchRun + 1) 255
          = min 255 (max s.cal.integrity.sigLimit ((s.side sd).dlt.mismatchRun + 1)) := by omega
      rw [e] at ar ⊢
      rw [if_pos (show 1 ≤ l.length + 1 ∧ s.cal.integrity.sigLimit ≤ (s.side sd).dlt.mismatchRun + (l.length + 1) by omega)]
      split
      · exact findRecord_raise_again ar
      · exact ar
    · rw [if_neg h] at ar
      by_cases h2 : s.cal.integrity.sigLimit ≤ (s.side sd).dlt.mismatchRun + (l.length + 1)
      · rw [if_pos (show 1 ≤ l.length ∧ s.cal.integrity.sigLimit ≤ min ((s.side sd).dlt.mismatchRun + 1) 255 + l.length
            by omega), if_pos (show 1 ≤ l.length + 1 ∧ _ from ⟨by omega, h2⟩)]
        have e : min 255 (max s.cal.integrity.sigLimit (min ((s.side sd).dlt.mismatchRun + 1) 255 + 1))
            = min 255 (max s.cal.integrity.sigLimit ((s.side sd).dlt.mismatchRun + 1)) := by omega
        rw [e]
        exact findRecord_raise_congr _ _ _ _ _ _ ar
      · rw [if_neg (by omega), if_neg (by omega)]; exact ar

/-- R95: a counted match leaves DISP_SIGNATURE's record unless the match run reaches 30, and every other code's. -/
theorem countMatch_record (s : State) (sd : Side) :
    ((s.side sd).dlt.matchRun ≠ 29 → (countMatch sd s).table = s.table)
      ∧ (countMatch sd s).time = s.time
      ∧ ((s.side sd).dlt.matchRun = 29 →
          (countMatch sd s).table = tableClear s.table .dispSignature (faultSideOf sd) s.time) := by
  unfold countMatch
  dsimp only
  split
  · rename_i h; exact ⟨fun h2 => absurd h h2, by simp, fun _ => by simp [sendClear]⟩
  · rename_i h; exact ⟨fun _ => by simp, by simp, fun h2 => absurd h2 h⟩

/-- R96: the flags of a return decide MONITOR_FAULT's record and leave every other code's. -/
theorem monitorFlags_record (s : State) (sd : Side) (a b flags : BitVec 16) :
    (∀ c x, c ≠ .captureLost → c ≠ .monitorFault →
        findRecord (monitorFlags sd a b flags s).table c x = findRecord s.table c x)
      ∧ (flags ≠ 0 → findRecord (monitorFlags sd a b flags s).table .monitorFault (faultSideOf sd)
          = findRecord (tableRaise s.table .monitorFault (faultSideOf sd) flags s.time) .monitorFault (faultSideOf sd))
      ∧ (flags = 0 → (monitorFlags sd a b flags s).table = tableClear s.table .monitorFault (faultSideOf sd) s.time) := by
  unfold monitorFlags
  dsimp only
  split
  · rename_i h
    refine ⟨fun c x _ h2 => ?_, fun h2 => absurd h h2, fun _ => by simp [sendClear]⟩
    simp only [sendClear]
    rw [findRecord_clear_other _ _ _ _ _ _ (Ne.symm h2)]; simp
  · rename_i h
    refine ⟨fun c x h1 h2 => ?_, fun _ => ?_, fun h2 => absurd h2 h⟩
    · rw [sendRaise_find_other _ _ _ _ _ _ h1 (Ne.symm h2)]; simp
    · rw [sendRaise_find _ _ _ _ (by decide)]; simp

end Sys2Proof.Machine
end

