-- ==== Sys2Proof/Laws/Stages.lean ====
section
/-! SUPPORT. What each stage of a frame-completion operation can do (R23, R24): one lemma per stage, what no stage
touches, and an operation cut in pieces. -/

namespace Sys2Proof.Machine

/-! ### What no stage touches -/

/-- All that the stages of a side's operation leave: the queue, the pins, the clock, the vehicle state, the store, the
ports but for their notices, the other side but for its recorder, and of the side itself what is not the stages'. -/
def StageFrame (sd : Side) (s t : State) : Prop :=
  t.pending = s.pending ∧ t.pauses = s.pauses ∧ t.phase = s.phase ∧ t.supplyOk = s.supplyOk ∧ t.eventIn = s.eventIn
    ∧ t.time = s.time ∧ t.activePattern = s.activePattern ∧ t.vehicle = s.vehicle ∧ t.store = s.store
    ∧ (∀ p, { t.port p with notices := (s.port p).notices } = s.port p)
    ∧ { t.side (otherSide sd) with recorder := (s.side (otherSide sd)).recorder } = s.side (otherSide sd)
    ∧ (t.side sd).inputs = (s.side sd).inputs ∧ (t.side sd).testFlag = (s.side sd).testFlag
    ∧ (t.side sd).testNumber = (s.side sd).testNumber ∧ (t.side sd).dlt = (s.side sd).dlt

theorem StageFrame.refl (sd : Side) (s : State) : StageFrame sd s s :=
  ⟨rfl, rfl, rfl, rfl, rfl, rfl, rfl, rfl, rfl, fun _ => rfl, rfl, rfl, rfl, rfl, rfl⟩

theorem StageFrame.trans {sd : Side} {s t u : State} (h : StageFrame sd s t) (k : StageFrame sd t u) :
    StageFrame sd s u := by
  obtain ⟨a1, a2, a3, a4, a5, a6, a7, a8, a9, a10, a11, a12, a13, a14, a15⟩ := h
  obtain ⟨b1, b2, b3, b4, b5, b6, b7, b8, b9, b10, b11, b12, b13, b14, b15⟩ := k
  refine ⟨b1.trans a1, b2.trans a2, b3.trans a3, b4.trans a4, b5.trans a5, b6.trans a6, b7.trans a7, b8.trans a8,
    b9.trans a9, fun p => ?_, ?_, b12.trans a12, b13.trans a13, b14.trans a14, b15.trans a15⟩
  · rw [← a10 p, ← b10 p]
  · rw [← a11, ← b11]

theorem SameButReports.stageFrame {s t : State} (h : SameButReports s t) (sd : Side) : StageFrame sd s t := by
  have e := h.side_eq sd
  obtain ⟨a1, a2, a3, a4, a5, a6, a7, a8, a9, a10, a11⟩ := h
  exact ⟨a1, a2, a3, a4, a5, a6, a7, a8, a9, fun p => by rw [a10 p], a11 _, by rw [e], by rw [e], by rw [e], by rw [e]⟩

/-- A change of the side alone, but for what the stages leave of it. -/
theorem stageFrame_mod (s : State) (sd : Side) (f : SideState → SideState)
    (h : (f (s.side sd)).inputs = (s.side sd).inputs ∧ (f (s.side sd)).testFlag = (s.side sd).testFlag
      ∧ (f (s.side sd)).testNumber = (s.side sd).testNumber ∧ (f (s.side sd)).dlt = (s.side sd).dlt) :
    StageFrame sd s (s.modSide sd f) := by
  obtain ⟨h1, h2, h3, h4⟩ := h
  refine ⟨by simp, by simp, by simp, by simp, by simp, by simp, by simp, by simp, by simp, fun p => by simp, by simp, ?_,
    ?_, ?_, ?_⟩ <;> simpa

theorem stageFrame_notify (s : State) (sd : Side) (p : Port) (k : NoticeKind) : StageFrame sd s (notify p k s) := by
  refine ⟨by simp, by simp, by simp, by simp, by simp, by simp, by simp, by simp, by simp, fun q => ?_, ?_, ?_, ?_, ?_, ?_⟩
  · cases p <;> cases q <;> rfl
  all_goals cases p <;> cases sd <;> rfl

theorem stageFrame_changeView (s : State) (sd : Side) (v : ViewState) : StageFrame sd s (changeView sd v s) := by
  unfold changeView
  split
  · exact .refl _ _
  · exact (stageFrame_mod s sd _ ⟨rfl, rfl, rfl, rfl⟩).trans
      ((stageFrame_notify _ _ _ _).trans (stageFrame_notify _ _ _ _))

theorem stageFrame_activateView (s : State) (sd : Side) : StageFrame sd s (activateView sd s) := by
  unfold activateView
  split
  case h_4 => exact .refl _ _
  case h_5 => exact .refl _ _
  all_goals
    exact (stageFrame_changeView s sd _).trans
      ((stageFrame_mod _ _ _ ⟨rfl, rfl, rfl, rfl⟩).trans (stageFrame_mod _ _ _ ⟨rfl, rfl, rfl, rfl⟩))

theorem sidesOf_faultSideOf (sd : Side) : sidesOf (faultSideOf sd) = [sd] := by cases sd <;> rfl

/-- A raise on a side, of whatever severity (R114, R77, R128). -/
theorem stageFrame_raise (s : State) (sd : Side) (c : FaultCode) (d : BitVec 16) :
    StageFrame sd s (sendRaise c (faultSideOf sd) d s) := by
  unfold sendRaise
  split
  · unfold afterOnset
    rw [sidesOf_faultSideOf]
    have h1 := (sameButReports_table s (tableRaise s.table c (faultSideOf sd) d s.time)).stageFrame sd
    generalize ({ s with table := tableRaise s.table c (faultSideOf sd) d s.time } : State) = u at h1
    have h2 : StageFrame sd u (if severityOf c = .viewLoss then [sd].foldl (fun s x => activateView x s) u else u) := by
      split
      · exact stageFrame_activateView _ _
      · exact .refl _ _
    exact h1.trans (h2.trans ((faultTriggers_same _ _ _).stageFrame sd))
  · exact .refl _ _

/-! ### Stage 1: statistics (R27 to R29) -/

/-- What stage 1 leaves of the side beside its statistics. -/
theorem stageStatistics_rest (s : State) (sd : Side) (f : AcceptedFrame) :
    StageFrame sd s (stageStatistics sd f s) ∧ ∀ x,
      ((stageStatistics sd f s).side x).clr = (s.side x).clr ∧ ((stageStatistics sd f s).side x).expo = (s.side x).expo
      ∧ ((stageStatistics sd f s).side x).glare = (s.side x).glare
      ∧ ((stageStatistics sd f s).side x).running = (s.side x).running := by
  have h1 : ∀ u : State, StageFrame sd u (compareMeans sd u) ∧ ∀ x, ((compareMeans sd u).side x).clr = (u.side x).clr
      ∧ ((compareMeans sd u).side x).expo = (u.side x).expo ∧ ((compareMeans sd u).side x).glare = (u.side x).glare
      ∧ ((compareMeans sd u).side x).running = (u.side x).running := by
    intro u
    unfold compareMeans
    simp only
    split
    · exact ⟨stageFrame_mod _ _ _ ⟨rfl, rfl, rfl, rfl⟩, fun x => by simp⟩
    · split
      · exact ⟨(stageFrame_mod _ _ _ ⟨rfl, rfl, rfl, rfl⟩).trans (stageFrame_mod _ _ _ ⟨rfl, rfl, rfl, rfl⟩),
          fun x => by simp⟩
      · exact ⟨(stageFrame_mod _ _ _ ⟨rfl, rfl, rfl, rfl⟩).trans
          (((sendClear_same _ _ _).stageFrame sd).trans (stageFrame_mod _ _ _ ⟨rfl, rfl, rfl, rfl⟩)), fun x => by simp⟩
  have h2 : ∀ u : State, StageFrame sd u (raiseFrozen sd u) ∧ ∀ x, ((raiseFrozen sd u).side x).clr = (u.side x).clr
      ∧ ((raiseFrozen sd u).side x).expo = (u.side x).expo ∧ ((raiseFrozen sd u).side x).glare = (u.side x).glare
      ∧ ((raiseFrozen sd u).side x).running = (u.side x).running := by
    intro u
    unfold raiseFrozen
    split
    · exact ⟨stageFrame_raise _ _ _ _, fun x => by simp⟩
    · exact ⟨.refl _ _, fun x => by simp⟩
  have h0 : StageFrame sd s (s.modStats sd (takeStats s.cal.image.brightLevel f)) :=
    stageFrame_mod _ _ _ ⟨rfl, rfl, rfl, rfl⟩
  unfold stageStatistics
  simp only
  split
  · exact ⟨h0, fun x => by simp⟩
  · refine ⟨h0.trans ((h1 _).1.trans (h2 _).1), fun x => ?_⟩
    obtain ⟨a1, a2, a3, a4⟩ := (h2 (compareMeans sd (s.modStats sd (takeStats s.cal.image.brightLevel f)))).2 x
    obtain ⟨b1, b2, b3, b4⟩ := (h1 (s.modStats sd (takeStats s.cal.image.brightLevel f))).2 x
    exact ⟨by rw [a1, b1]; simp, by rw [a2, b2]; simp, by rw [a3, b3]; simp, by rw [a4, b4]; simp⟩

/-- The statistics after stage 1 (R27, R28). -/
theorem stageStatistics_stats (s : State) (sd : Side) (f : AcceptedFrame) :
    ((stageStatistics sd f s).side sd).stats =
      match f.image with
      | .synthetic _ => takeStats s.cal.image.brightLevel f (s.side sd).stats
      | .camera _ =>
        { takeStats s.cal.image.brightLevel f (s.side sd).stats with
          prevMeans := some (tileMeans (takeStats s.cal.image.brightLevel f (s.side sd).stats))
          identRun :=
            match (s.side sd).stats.prevMeans with
            | none => (s.side sd).stats.identRun
            | some prev =>
              if prev = tileMeans (takeStats s.cal.image.brightLevel f (s.side sd).stats) then
                min ((s.side sd).stats.identRun + 1) 65535
              else 0 } := by
  unfold stageStatistics
  simp only
  cases hi : f.image with
  | synthetic vs => simp
  | camera rows =>
    have hr : ∀ u : State, ((raiseFrozen sd u).side sd).stats = (u.side sd).stats := by
      intro u; unfold raiseFrozen; split <;> simp
    simp only [hr]
    unfold compareMeans
    simp only [modStats_side_stats]
    have hp : (takeStats s.cal.image.brightLevel f (s.side sd).stats).prevMeans = (s.side sd).stats.prevMeans := rfl
    have hn : (takeStats s.cal.image.brightLevel f (s.side sd).stats).identRun = (s.side sd).stats.identRun := rfl
    rw [hp]
    cases hq : (s.side sd).stats.prevMeans with
    | none => simp [hn]
    | some prev =>
      simp only
      split
      · simp [hn]
      · simp

/-- The records of the table after stage 1 (R28, R29): those of FROZEN_IMAGE of the side alone are touched. -/
theorem stageStatistics_find (s : State) (sd : Side) (f : AcceptedFrame) (c : FaultCode) (x : FaultSide)
    (h : c ≠ .captureLost) (hc : .frozenImage ≠ c) :
    findRecord (stageStatistics sd f s).table c x = findRecord s.table c x := by
  have h1 : ∀ u : State, findRecord (compareMeans sd u).table c x = findRecord u.table c x := by
    intro u
    unfold compareMeans
    simp only
    split
    · simp
    · split
      · simp
      · simp only [modStats_table]
        show findRecord (tableClear _ _ _ _) c x = _
        rw [findRecord_clear_other _ _ _ _ _ _ hc]; simp
  have h2 : ∀ u : State, findRecord (raiseFrozen sd u).table c x = findRecord u.table c x := by
    intro u
    unfold raiseFrozen
    split
    · exact sendRaise_find_other _ _ _ _ _ _ h hc
    · rfl
  unfold stageStatistics
  simp only
  split
  · simp
  · rw [h2, h1]; simp

/-- R28: whether a camera frame differs from the previous one. -/
def FrameDiffers (s : State) (sd : Side) (f : AcceptedFrame) : Prop :=
  ∃ p, (s.side sd).stats.prevMeans = some p ∧ p ≠ tileMeans ((stageStatistics sd f s).side sd).stats

/-- R29: whether FROZEN_IMAGE is raised at stage 1 of a camera frame. -/
def FrameFrozen (s : State) (sd : Side) (f : AcceptedFrame) : Prop :=
  s.cal.integrity.frozenFrames ≤ ((stageStatistics sd f s).side sd).stats.identRun
    ∧ ∃ v, presentedSpeed s = some v ∧ s.cal.integrity.frozenSpeed ≤ v

/-- The record of FROZEN_IMAGE after stage 1 (R28, R29). -/
theorem stageStatistics_frozen (s t : State) (sd : Side) (f : AcceptedFrame) (ht : t = stageStatistics sd f s) :
    ((∀ rows, f.image ≠ .camera rows) → findRecord t.table .frozenImage (faultSideOf sd)
        = findRecord s.table .frozenImage (faultSideOf sd))
      ∧ ((∃ rows, f.image = .camera rows) →
        (FrameFrozen s sd f → activeKey .frozenImage (faultSideOf sd) t.table)
        ∧ (¬ FrameDiffers s sd f → FrameFrozen s sd f → findRecord t.table .frozenImage (faultSideOf sd) = findRecord
            (tableRaise s.table .frozenImage (faultSideOf sd) (BitVec.ofNat 16 (t.side sd).stats.identRun) s.time)
            .frozenImage (faultSideOf sd))
        ∧ (FrameDiffers s sd f → ¬ FrameFrozen s sd f → quietKey .frozenImage (faultSideOf sd) t.table)
        ∧ (¬ FrameDiffers s sd f → ¬ FrameFrozen s sd f → findRecord t.table .frozenImage (faultSideOf sd)
            = findRecord s.table .frozenImage (faultSideOf sd))) := by
  refine ⟨fun h => ?_, ?_⟩
  · rw [ht]; unfold stageStatistics; simp only
    cases hi : f.image with
    | synthetic vs => simp
    | camera rows => exact absurd hi (h rows)
  · rintro ⟨rows, hi⟩
    generalize hu : compareMeans sd (s.modStats sd (takeStats s.cal.image.brightLevel f)) = u
    have htu : t = raiseFrozen sd u := by rw [ht, ← hu]; unfold stageStatistics; simp only [hi]
    have hst : (t.side sd).stats = (u.side sd).stats := by rw [htu]; unfold raiseFrozen; split <;> simp
    have hut : u.time = s.time := by rw [← hu]; unfold compareMeans; simp only; split <;> [skip; split] <;> simp
    have huc : u.cal = s.cal := by rw [← hu]; unfold compareMeans; simp only; split <;> [skip; split] <;> simp
    have hup : presentedSpeed u = presentedSpeed s := by
      have : u.vehicle = s.vehicle := by rw [← hu]; unfold compareMeans; simp only; split <;> [skip; split] <;> simp
      unfold presentedSpeed isFresh; rw [this, huc]
    have hum : (u.side sd).stats.tiles = (takeStats s.cal.image.brightLevel f (s.side sd).stats).tiles := by
      rw [← hu]; unfold compareMeans; simp only; split <;> [skip; split] <;> simp
    have hfz : frozenHolds sd u = true ↔ FrameFrozen s sd f := by
      unfold frozenHolds FrameFrozen
      rw [← ht, hst, huc, hup]
      cases presentedSpeed s <;> simp
    have hdf : FrameDiffers s sd f ↔ ∃ p, (s.side sd).stats.prevMeans = some p
        ∧ p ≠ tileMeans (takeStats s.cal.image.brightLevel f (s.side sd).stats) := by
      unfold FrameDiffers
      rw [← ht, hst]
      unfold tileMeans
      rw [hum]
    have hsame : ¬ FrameDiffers s sd f → u.table = s.table := by
      intro hd
      rw [hdf] at hd
      rw [← hu]; unfold compareMeans; simp only [modStats_side_stats, modStats_table]
      split
      · simp
      · rename_i prev hp
        split
        · simp
        · rename_i hne; exact absurd ⟨prev, hp, hne⟩ hd
    have hquiet : FrameDiffers s sd f → quietKey .frozenImage (faultSideOf sd) u.table := by
      intro hd
      obtain ⟨p, hp, hne⟩ := hdf.mp hd
      rw [← hu]; unfold compareMeans; simp only [modStats_side_stats, modStats_table]
      split
      · rename_i h
        have h' : (s.side sd).stats.prevMeans = none := h
        rw [hp] at h'; cases h'
      · rename_i prev h
        have h' : (s.side sd).stats.prevMeans = some prev := h
        rw [hp] at h'; injection h' with h'; subst h'
        rw [if_neg hne]
        exact tableClear_quiet _ _ _ _
    have hyes : FrameFrozen s sd f →
        t = sendRaise .frozenImage (faultSideOf sd) (BitVec.ofNat 16 (u.side sd).stats.identRun) u := by
      intro h; rw [htu]; unfold raiseFrozen; rw [if_pos (hfz.mpr h)]
    have hno : ¬ FrameFrozen s sd f → t = u := by
      intro h; rw [htu]; unfold raiseFrozen; rw [if_neg (fun k => h (hfz.mp k))]
    refine ⟨fun h => ?_, fun hd h => ?_, fun hd h => ?_, fun hd h => ?_⟩
    · rw [hyes h]; exact sendRaise_active _ _ _ _ (by decide)
    · rw [hst, hyes h, sendRaise_find _ _ _ _ (by decide), hsame hd, hut]
    · rw [hno h]; exact hquiet hd
    · rw [hno h, hsame hd]

/-! ### Stage 3: exposure (R30 to R35) -/

/-- The state after the metering of stage 3, before any command (R30). -/
def metered (sd : Side) (f : AcceptedFrame) (s : State) : State :=
  s.modExpo sd fun e =>
    { e with m := meteredLevel (weightsOf s.cal sd) (s.side sd).glare (s.side sd).stats
             l := sceneLevel (meteredLevel (weightsOf s.cal sd) (s.side sd).glare (s.side sd).stats) (f.tRep * f.gRep) }

/-- The pair that stage 3 issues, if any (R20, R31, R33). -/
def issued (sd : Side) (f : AcceptedFrame) (s : State) : Option (Nat × Nat) :=
  match f.image, (s.side sd).testFlag with
  | .camera _, false =>
    decideExposure s.cal.image (s.side sd).expo
      (meteredLevel (weightsOf s.cal sd) (s.side sd).glare (s.side sd).stats) (f.tRep * f.gRep)
  | _, _ => none

/-- Stage 3: the metering alone, or the metering and the issue of a command. -/
theorem stageExposure_spec (s : State) (sd : Side) (f : AcceptedFrame) :
    (issued sd f s = none → stageExposure sd f s = (metered sd f s, none))
      ∧ ∀ t g, issued sd f s = some (t, g) → stageExposure sd f s =
          ((issueCommand sd f.number t g ((metered sd f s).modExpo sd fun e =>
              if e.mode = .manual then { e with manualSend := false } else e)).1,
            some (issueCommand sd f.number t g ((metered sd f s).modExpo sd fun e =>
              if e.mode = .manual then { e with manualSend := false } else e)).2) := by
  unfold issued stageExposure metered
  cases f.image with
  | synthetic vs => exact ⟨fun _ => rfl, fun t g h => by cases h⟩
  | camera rows =>
    cases ht : (s.side sd).testFlag with
    | true => exact ⟨fun _ => by simp only [ht], fun t g h => by cases h⟩
    | false =>
      simp only [ht]
      refine ⟨fun h => by rw [h], fun t g h => by rw [h]⟩

/-- What stage 3 leaves beside the controller, the back channel and the record of EXPOSURE_TRACK. -/
theorem stageExposure_rest (s : State) (sd : Side) (f : AcceptedFrame) :
    StageFrame sd s (stageExposure sd f s).1 ∧ (((stageExposure sd f s).1).side sd).stats = (s.side sd).stats
      ∧ (((stageExposure sd f s).1).side sd).glare = (s.side sd).glare
      ∧ (((stageExposure sd f s).1).side sd).view = (s.side sd).view
      ∧ (((stageExposure sd f s).1).side sd).running = (s.side sd).running
      ∧ (((stageExposure sd f s).1).side sd).expo.dayNight = (s.side sd).expo.dayNight
      ∧ ∀ c x, c ≠ .captureLost → .exposureTrack ≠ c →
          findRecord ((stageExposure sd f s).1).table c x = findRecord s.table c x := by
  have hm : StageFrame sd s (metered sd f s) := stageFrame_mod _ _ _ ⟨rfl, rfl, rfl, rfl⟩
  cases hd : issued sd f s with
  | none =>
    rw [(stageExposure_spec s sd f).1 hd]
    exact ⟨hm, by simp [metered], by simp [metered], by simp [metered], by simp [metered],
      by simp [metered], fun c x _ _ => by simp [metered]⟩
  | some p =>
    obtain ⟨t, g⟩ := p
    rw [(stageExposure_spec s sd f).2 t g hd]
    generalize hu : (metered sd f s).modExpo sd (fun e => if e.mode = .manual then { e with manualSend := false } else e) = u
    have hsu : StageFrame sd s u := by
      rw [← hu]; refine hm.trans (stageFrame_mod _ _ _ ⟨rfl, rfl, rfl, rfl⟩)
    have hus : (u.side sd).stats = (s.side sd).stats ∧ (u.side sd).glare = (s.side sd).glare
        ∧ (u.side sd).view = (s.side sd).view ∧ (u.side sd).running = (s.side sd).running ∧ u.table = s.table
        ∧ (u.side sd).expo.dayNight = (s.side sd).expo.dayNight := by
      rw [← hu]; simp [metered]; split <;> rfl
    obtain ⟨e1, e2, e3, e4, e5, e6⟩ := hus
    obtain ⟨-, i2, i3⟩ := issueCommand_spec u sd f.number t g _ _ rfl rfl
    by_cases h4 : ((u.side sd).expo.commands
        ++ [({ tag := nextTag (u.side sd).expo, t := t, g := g, due := f.number + 3 } : PendingCommand)]).length = 4
    · obtain ⟨e, rest, -, hi⟩ := i3 h4
      rw [hi]
      generalize hw : u.modExpo sd (fun x => { x with lastIssued := nextTag x, commands := rest }) = w
      have hfr : StageFrame sd u w := by rw [← hw]; exact stageFrame_mod _ _ _ ⟨rfl, rfl, rfl, rfl⟩
      have huw : (w.side sd).stats = (u.side sd).stats ∧ (w.side sd).glare = (u.side sd).glare
          ∧ (w.side sd).view = (u.side sd).view ∧ (w.side sd).running = (u.side sd).running ∧ w.table = u.table := by
        rw [← hw]; simp
      obtain ⟨d1, d2, d3, d4, d5⟩ := huw
      have hcu : SameButReports (w.modExpo sd fun x => { x with confirmedRun := 0 }) (countUnconfirmed sd e.tag w) :=
        sendRaise_same _ _ _ _ (by decide)
      have hse := hcu.side_eq sd
      have hs1 : ((countUnconfirmed sd e.tag w).side sd).stats = (w.side sd).stats := by rw [hse]; simp
      have hs2 : ((countUnconfirmed sd e.tag w).side sd).glare = (w.side sd).glare := by rw [hse]; simp
      have hs3 : ((countUnconfirmed sd e.tag w).side sd).view = (w.side sd).view := by rw [hse]; simp
      have hs4 : ((countUnconfirmed sd e.tag w).side sd).running = (w.side sd).running := by rw [hse]; simp
      refine ⟨hsu.trans (hfr.trans (StageFrame.trans ((stageFrame_mod w sd (fun z =>
        { z with expo := { z.expo with confirmedRun := 0 } }) ⟨rfl, rfl, rfl, rfl⟩).trans
        (hcu.stageFrame sd)) (stageFrame_mod _ _ _ ⟨rfl, rfl, rfl, rfl⟩))), ?_, ?_, ?_, ?_, ?_, fun c x h1 h2 => ?_⟩
      · simp [hs1, d1, e1]
      · simp [hs2, d2, e2]
      · simp [hs3, d3, e3]
      · simp [hs4, d4, e4]
      · simp [countUnconfirmed_expo, ← hw, e6]
      · simp [countUnconfirmed_find _ _ _ _ _ h1 h2, d5, e5]
    · rw [i2 h4]
      refine ⟨hsu.trans ((stageFrame_mod _ _ _ ⟨rfl, rfl, rfl, rfl⟩).trans (stageFrame_mod _ _ _ ⟨rfl, rfl, rfl, rfl⟩)),
        ?_, ?_, ?_, ?_, ?_, fun c x h1 h2 => ?_⟩ <;> simp [e1, e2, e3, e4, e5, e6]

/-! ### Stages 2, 4 and 6 -/

/-- What stage 2 leaves beside the glare map (R44). -/
theorem stageGlare_spec (s : State) (sd : Side) (f : AcceptedFrame) :
    stageGlare sd f s = s.modGlare sd fun g =>
      if (s.side sd).expo.dayNight = .night then
        updateMap s.cal.image (s.side sd).expo.m f.number (s.side sd).stats g
      else g := by
  unfold stageGlare
  cases h : (s.side sd).expo.dayNight with
  | day => simp only [h]; exact (modSide_self s sd _ (by simp)).symm
  | night => simp [h]

/-- What stage 4 leaves (R39 to R41, R52). -/
theorem stageDayNight_rest (s t : State) (sd : Side) (f : AcceptedFrame) (ht : t = stageDayNight sd f s) :
    StageFrame sd s t ∧ t.table = s.table ∧ (t.side sd).stats = (s.side sd).stats ∧ (t.side sd).view = (s.side sd).view
      ∧ (t.side sd).clr = (s.side sd).clr ∧ (t.side sd).running = (s.side sd).running
      ∧ (t.side sd).expo = { (s.side sd).expo with dayNight := (t.side sd).expo.dayNight
                                                   nightRun := (t.side sd).expo.nightRun
                                                   dayRun := (t.side sd).expo.dayRun }
      ∧ (t.side sd).glare = if (s.side sd).expo.dayNight = .night ∧ (t.side sd).expo.dayNight = .day then unityMap
          else (s.side sd).glare := by
  let Ok (t : State) : Prop := StageFrame sd s t ∧ t.table = s.table ∧ (t.side sd).stats = (s.side sd).stats
      ∧ (t.side sd).view = (s.side sd).view ∧ (t.side sd).clr = (s.side sd).clr
      ∧ (t.side sd).running = (s.side sd).running
      ∧ (t.side sd).expo = { (s.side sd).expo with dayNight := (t.side sd).expo.dayNight
                                                   nightRun := (t.side sd).expo.nightRun
                                                   dayRun := (t.side sd).expo.dayRun }
      ∧ (t.side sd).glare = if (s.side sd).expo.dayNight = .night ∧ (t.side sd).expo.dayNight = .day then unityMap
          else (s.side sd).glare
  have keep : ∀ a b, Ok (s.modExpo sd fun x => { x with nightRun := a, dayRun := b }) := by
    intro a b
    refine ⟨stageFrame_mod _ _ _ ⟨rfl, rfl, rfl, rfl⟩, by simp, by simp, by simp, by simp, by simp, by simp, ?_⟩
    simp only [modExpo_side_glare, modExpo_side_expo]
    rw [if_neg]; rintro ⟨h1, h2⟩; rw [h1] at h2; cases h2
  have stay : Ok s := by
    refine ⟨.refl _ _, rfl, rfl, rfl, rfl, rfl, rfl, ?_⟩
    rw [if_neg]; rintro ⟨h1, h2⟩; rw [h1] at h2; cases h2
  have move : ∀ a b m, m ≠ (s.side sd).expo.dayNight →
      Ok (changeMode sd m (s.modExpo sd fun x => { x with nightRun := a, dayRun := b })) := by
    intro a b m hm
    unfold changeMode
    have fr : StageFrame sd s ((s.modExpo sd fun x => { x with nightRun := a, dayRun := b }).modExpo sd fun x =>
        { x with dayNight := m }) :=
      (stageFrame_mod _ _ _ ⟨rfl, rfl, rfl, rfl⟩).trans (stageFrame_mod _ _ _ ⟨rfl, rfl, rfl, rfl⟩)
    cases m with
    | day =>
      have hn : (s.side sd).expo.dayNight = .night := by
        cases h : (s.side sd).expo.dayNight with
        | day => exact absurd h.symm hm
        | night => rfl
      simp only [if_true]
      exact ⟨fr.trans ((stageFrame_mod _ _ _ ⟨rfl, rfl, rfl, rfl⟩).trans (stageFrame_notify _ _ _ _)), by simp,
        by simp, by simp, by simp, by simp, by simp, by simp [hn]⟩
    | night =>
      simp only [reduceCtorEq, if_false]
      exact ⟨fr.trans (stageFrame_notify _ _ _ _), by simp, by simp, by simp, by simp, by simp, by simp, by simp⟩
  have forced : ∀ m, Ok (forceMode sd m s) := by
    intro m
    unfold forceMode
    split
    · exact stay
    · rename_i h
      have := move (s.side sd).expo.nightRun (s.side sd).expo.dayRun m (fun e => h e.symm)
      rwa [show (s.modExpo sd fun x => { x with nightRun := (s.side sd).expo.nightRun
                                                dayRun := (s.side sd).expo.dayRun }) = s from
        modSide_self s sd _ rfl] at this
  have runs : ∀ (g : Exposure → Exposure) a b, g (s.side sd).expo = { (s.side sd).expo with nightRun := a, dayRun := b } →
      s.modExpo sd g = s.modExpo sd fun x => { x with nightRun := a, dayRun := b } := by
    intro g a b h
    exact modSide_congr _ _ _ _ (by show { s.side sd with expo := g (s.side sd).expo } = _; rw [h])
  rw [ht]
  show Ok (stageDayNight sd f s)
  unfold stageDayNight
  split
  · exact forced _
  · exact forced _
  · split
    · exact stay
    · unfold autoDayNight
      simp only
      cases hd : (s.side sd).expo.dayNight with
      | day =>
        simp only
        split
        · split
          · exact move _ _ _ (by rw [hd]; decide)
          · rw [runs _ ((s.side sd).expo.nightRun + 1) (s.side sd).expo.dayRun rfl]; exact keep _ _
        · rw [runs _ 0 (s.side sd).expo.dayRun rfl]; exact keep _ _
      | night =>
        simp only
        split
        · split
          · exact move _ _ _ (by rw [hd]; decide)
          · rw [runs _ (s.side sd).expo.nightRun ((s.side sd).expo.dayRun + 1) rfl]; exact keep _ _
        · rw [runs _ (s.side sd).expo.nightRun 0 rfl]; exact keep _ _

/-! ### Stage 5: the digest (R135 to R137, R140, R141, R146, R147) -/

/-- Nothing but the fault table, the recorders, the notices and the free choices drawn. -/
def OnlyRecorders (s t : State) : Prop :=
  t.pending = s.pending ∧ t.pauses = s.pauses ∧ t.phase = s.phase ∧ t.supplyOk = s.supplyOk ∧ t.eventIn = s.eventIn
    ∧ t.time = s.time ∧ t.activePattern = s.activePattern ∧ t.vehicle = s.vehicle ∧ t.store = s.store
    ∧ (∀ p, { t.port p with notices := (s.port p).notices } = s.port p)
    ∧ ∀ x, { t.side x with recorder := (s.side x).recorder } = s.side x

theorem OnlyRecorders.refl (s : State) : OnlyRecorders s s :=
  ⟨rfl, rfl, rfl, rfl, rfl, rfl, rfl, rfl, rfl, fun _ => rfl, fun _ => rfl⟩

theorem OnlyRecorders.trans {s t u : State} (h : OnlyRecorders s t) (k : OnlyRecorders t u) : OnlyRecorders s u := by
  obtain ⟨a1, a2, a3, a4, a5, a6, a7, a8, a9, a10, a11⟩ := h
  obtain ⟨b1, b2, b3, b4, b5, b6, b7, b8, b9, b10, b11⟩ := k
  refine ⟨b1.trans a1, b2.trans a2, b3.trans a3, b4.trans a4, b5.trans a5, b6.trans a6, b7.trans a7, b8.trans a8,
    b9.trans a9, fun p => ?_, fun x => ?_⟩
  · rw [← a10 p, ← b10 p]
  · rw [← a11 x, ← b11 x]

theorem SameButReports.onlyRecorders {s t : State} (h : SameButReports s t) : OnlyRecorders s t := by
  obtain ⟨a1, a2, a3, a4, a5, a6, a7, a8, a9, a10, a11⟩ := h
  exact ⟨a1, a2, a3, a4, a5, a6, a7, a8, a9, fun p => by rw [a10 p], a11⟩

theorem OnlyRecorders.side_eq {s t : State} (h : OnlyRecorders s t) (x : Side) :
    t.side x = { s.side x with recorder := (t.side x).recorder } := by
  rw [← h.2.2.2.2.2.2.2.2.2.2 x]

theorem OnlyRecorders.stageFrame {s t : State} (h : OnlyRecorders s t) (sd : Side) : StageFrame sd s t := by
  have e := h.side_eq sd
  obtain ⟨a1, a2, a3, a4, a5, a6, a7, a8, a9, a10, a11⟩ := h
  exact ⟨a1, a2, a3, a4, a5, a6, a7, a8, a9, a10, a11 _, by rw [e], by rw [e], by rw [e], by rw [e]⟩

theorem onlyRecorders_notifyBoth (s : State) (k : NoticeKind) : OnlyRecorders s (notifyBoth k s) :=
  ⟨by simp, by simp, by simp, by simp, by simp, by simp, by simp, by simp, by simp,
    fun q => by cases q <;> rfl, fun x => by cases x <;> rfl⟩

theorem drawOrder_onlyRecorders {α : Type} (s : State) (l : List α) : OnlyRecorders s (drawOrder s l).2 := by
  unfold drawOrder
  split
  · exact .refl s
  · exact (sameButReports_free s _).onlyRecorders

/-- R137, R146, R147: a digest write changes recorders, and beyond that reports CAPTURE_LOST and sets notices at most. -/
theorem writeDigest_onlyRecorders (s : State) (sd : Side) (d : Digest) : OnlyRecorders s (writeDigest sd d s) := by
  have one : ∀ (u : State) (f : Recorder → Recorder), OnlyRecorders u (u.modRec sd f) :=
    fun u f => (sameButReports_rec u sd f).onlyRecorders
  have accept : ∀ (u : State) n c, OnlyRecorders u (acceptWaiting sd n c u) := fun u n c =>
    (one u _).trans (acceptTriggers_same _ _ _ _ _ _).onlyRecorders
  have lose : ∀ u : State, OnlyRecorders u (loseWaiting sd u) := by
    intro u
    unfold loseWaiting
    exact (drawOrder_onlyRecorders u _).trans
      ((one _ _).trans (foldl_same _ (fun s a => loseTrigger_same s sd a) _ _).onlyRecorders)
  have freezes : ∀ (u : State) k, OnlyRecorders u (freeze sd k u) := by
    intro u k
    unfold freeze
    simp only
    have h := (one u (freezeBuffer k (presentedPermission u) u.time)).trans (onlyRecorders_notifyBoth _ .capture)
    split
    · exact h.trans ((one _ _).trans (lose _))
    · split
      · exact h.trans (one _ _)
      · exact h.trans ((one _ _).trans (accept _ _ _))
  have done : ∀ u : State, OnlyRecorders u (completeCapture sd u) := by
    intro u
    unfold completeCapture
    split
    · exact .refl _
    · split
      · exact freezes _ _
      · exact one _ _
  unfold writeDigest
  simp only
  split
  · exact .refl _
  · exact .refl _
  · split
    · split
      · exact (one _ _).trans (one _ _)
      · exact (one _ _).trans (accept _ _ _)
    · exact one _ _
  · exact one _ _
  · split
    · exact (one s _).trans (done _)
    · exact one _ _

/-- R54: the smallest applied gain of a map, or 256 where none is below. -/
theorem minGain_spec (g : GlareMap) : minGain g ≤ 256 ∧ (∀ t ∈ g.tiles, minGain g ≤ t.ga)
    ∧ (minGain g = 256 ∨ ∃ t ∈ g.tiles, t.ga = minGain g) := by
  have key : ∀ (l : List GlareTile) (n : Nat), l.foldl (fun acc t => min acc t.ga) n ≤ n
      ∧ (∀ t ∈ l, l.foldl (fun acc t => min acc t.ga) n ≤ t.ga)
      ∧ (l.foldl (fun acc t => min acc t.ga) n = n ∨ ∃ t ∈ l, t.ga = l.foldl (fun acc t => min acc t.ga) n) := by
    intro l
    induction l with
    | nil => intro n; exact ⟨Nat.le_refl n, by simp, .inl rfl⟩
    | cons a l ih =>
      intro n
      obtain ⟨h1, h2, h3⟩ := ih (min n a.ga)
      rw [List.foldl_cons]
      refine ⟨by omega, ?_, ?_⟩
      · intro t ht
        rcases List.mem_cons.mp ht with rfl | ht
        · omega
        · exact h2 t ht
      · rcases h3 with h3 | ⟨t, ht, h3⟩
        · by_cases hn : n ≤ a.ga
          · left; omega
          · right; exact ⟨a, by simp, by omega⟩
        · right; exact ⟨t, by simp [ht], h3⟩
  exact key g.tiles 256

/-! ### Stage 6: the offer (R65, R79) -/

/-- Stage 6 changes the composer of the side, and clears STALE_VIEW where the recover count reaches its limit. -/
theorem stageOffer_spec (s t : State) (sd : Side) (f : AcceptedFrame) (x y : Composer) (camera : Bool)
    (hx : x = (s.side sd).view) (ht : t = stageOffer sd f s) (hy : y = (t.side sd).view)
    (hc : camera = true ↔ ∃ rows, f.image = .camera rows) :
    y = { x with
        slot := if camera = decide (x.state ≠ .test) then some { image := f.image, number := f.number } else x.slot
        fresh := if camera = decide (x.state ≠ .test) then true else x.fresh
        lastRecovered := if camera then some f.number else x.lastRecovered
        recoverCount := if camera = false then x.recoverCount
          else if x.lastRecovered = some (f.number - 1) then min (x.recoverCount + 1) s.cal.integrity.recoverFrames
          else 1 }
      ∧ t = { s.modView sd (fun _ => y) with
          table := if camera = true ∧ x.recoverCount < s.cal.integrity.recoverFrames
                ∧ y.recoverCount = s.cal.integrity.recoverFrames then
              tableClear s.table .staleView (faultSideOf sd) s.time
            else s.table } := by
  have hcam : isCamera f.image = camera := by
    cases hi : f.image with
    | synthetic vs =>
      cases hb : camera with
      | false => rfl
      | true => obtain ⟨r, hr⟩ := hc.mp hb; rw [hi] at hr; cases hr
    | camera rows => exact (hc.mpr ⟨rows, hi⟩).symm
  have hof : offerFrame f x = { x with
      slot := if camera = decide (x.state ≠ .test) then some { image := f.image, number := f.number } else x.slot
      fresh := if camera = decide (x.state ≠ .test) then true else x.fresh } := by
    unfold offerFrame; rw [hcam]; split <;> rfl
  generalize hz : offerFrame f x = z at hof
  have hzr : z.lastRecovered = x.lastRecovered ∧ z.recoverCount = x.recoverCount := by rw [hof]; exact ⟨rfl, rfl⟩
  have hone : ∀ g : Composer → Composer, s.modView sd g = s.modView sd fun _ => g x := by
    intro g
    exact modSide_congr _ _ _ _ (by show { s.side sd with view := g (s.side sd).view } = _; rw [hx])
  unfold stageOffer at ht
  rw [hcam, hone, hz] at ht
  cases camera with
  | false =>
    simp only [Bool.false_eq_true, if_false] at ht
    have hyz : y = z := by rw [hy, ht, modView_side_view]
    refine ⟨by rw [hyz, hof]; simp, ?_⟩
    rw [ht, hyz]; cases sd <;> rfl
  | true =>
    simp only [if_true] at ht
    unfold countRecover at ht
    simp only [modView_side_view, modView_cal] at ht
    have htwo : ∀ g : Composer → Composer, (s.modView sd fun _ => z).modView sd g = s.modView sd fun _ => g z := by
      intro g; cases sd <;> rfl
    rw [htwo] at ht
    have hrun : nextRecover s.cal.integrity.recoverFrames f.number z
        = if x.lastRecovered = some (f.number - 1) then min (x.recoverCount + 1) s.cal.integrity.recoverFrames else 1 := by
      unfold nextRecover; rw [hzr.1, hzr.2]
    rw [hzr.2] at ht
    generalize hq : nextRecover s.cal.integrity.recoverFrames f.number z = q at ht hrun
    have hyz : y = { z with recoverCount := q, lastRecovered := some f.number } := by
      rw [hy, ht]; split <;> simp
    refine ⟨by rw [hyz, hof, hrun]; simp, ?_⟩
    have hyr : y.recoverCount = q := by rw [hyz]
    rw [ht, hyr, hyz]
    by_cases hh : x.recoverCount < s.cal.integrity.recoverFrames ∧ q = s.cal.integrity.recoverFrames
    · rw [if_pos hh, if_pos ⟨rfl, hh⟩]; cases sd <;> rfl
    · rw [if_neg hh, if_neg (fun h => hh h.2)]; cases sd <;> rfl

/-! ### An operation in pieces (R23, R24) -/

theorem runStages_none (sd : Side) (n : Nat) (s : State) (h : (s.side sd).running = none) : runStages sd n s = s := by
  cases n with
  | zero => rfl
  | succ n => simp [runStages, h]

theorem runStages_succ (sd : Side) (n : Nat) (s : State) (c : Completion) (h : (s.side sd).running = some c) :
    runStages sd (n + 1) s = runStages sd n (runStage sd c s) := by simp [runStages, h]

/-- An operation cut in two is the operation whole. -/
theorem runStages_add (sd : Side) (m n : Nat) (s : State) :
    runStages sd (m + n) s = runStages sd n (runStages sd m s) := by
  induction m generalizing s with
  | zero => simp [runStages]
  | succ m ih =>
    rw [Nat.succ_add]
    cases h : (s.side sd).running with
    | none => rw [runStages_none _ _ _ h, runStages_none _ _ _ h, runStages_none _ _ _ h]
    | some c => rw [runStages_succ _ _ _ _ h, runStages_succ _ _ _ _ h, ih]

/-- R24: an operation taken whole: the six stages in their order, each on the state that the one before left; u is
the state after four. -/
theorem runStages_whole (sd : Side) (f : AcceptedFrame) (v : State) (n : Nat) (hn : 6 ≤ n)
    (h : (v.side sd).running = some { frame := f, next := .statistics, command := none }) :
    ∃ (a b w u : State) (cmd : Option Command),
      a = (stageStatistics sd f v).modSide sd (fun z =>
        { z with running := some { frame := f, next := .glare, command := none } })
      ∧ b = (stageGlare sd f a).modSide sd (fun z =>
        { z with running := some { frame := f, next := .exposure, command := none } })
      ∧ cmd = (stageExposure sd f b).2
      ∧ w = (stageExposure sd f b).1.modSide sd (fun z =>
        { z with running := some { frame := f, next := .dayNight, command := cmd } })
      ∧ u = (stageDayNight sd f w).modSide sd (fun z =>
        { z with running := some { frame := f, next := .digest, command := cmd } })
      ∧ u = runStages sd 4 v
      ∧ runStages sd n v = (stageOffer sd f ((writeDigest sd (acceptedDigest sd f cmd u) u).modSide sd fun z =>
          { z with running := some { frame := f, next := .offer, command := cmd } })).modSide sd (fun z =>
            { z with running := none }) := by
  obtain ⟨m, rfl⟩ : ∃ m, n = 6 + m := ⟨n - 6, by omega⟩
  have stage : ∀ (c : Completion) (t : State) (st : Stage), nextStage c.next = some st →
      ((runStage sd c t).side sd).running = some { c with next := st, command := (stageWork sd c t).2 } := by
    intro c t st h; simp [runStage, moveOn, h]
  refine ⟨_, _, _, _, _, rfl, rfl, rfl, rfl, rfl, ?_, ?_⟩
  · rw [runStages_succ sd 3 v _ h, runStages_succ sd 2 _ _ (stage _ _ .glare rfl),
      runStages_succ sd 1 _ _ (stage _ _ .exposure rfl), runStages_succ sd 0 _ _ (stage _ _ .dayNight rfl)]
    rfl
  rw [runStages_add, runStages_succ sd 5 v _ h, runStages_succ sd 4 _ _ (stage _ _ .glare rfl),
    runStages_succ sd 3 _ _ (stage _ _ .exposure rfl), runStages_succ sd 2 _ _ (stage _ _ .dayNight rfl),
    runStages_succ sd 1 _ _ (stage _ _ .digest rfl), runStages_succ sd 0 _ _ (stage _ _ .offer rfl)]
  rw [runStages_none _ _ _ (by simp only [runStages, runStage, moveOn, nextStage, modSide_side]; rfl)]
  rfl

/-- The pause that a command takes (log 16). -/
theorem takePause_spec {s u : State} {n : Nat} (h : TakesPause s n u) : takePause s = (n, u) := by
  rcases h with ⟨h1, rfl, rfl⟩ | ⟨rest, h1, rfl⟩ <;> simp [takePause, h1]

end Sys2Proof.Machine
end

