-- ==== Sys2Proof/WellFormed.lean ====
section
/-! DEFINITION. The commands that a sender can send: field lengths that the layouts of 11 fix, and the conditions
that make a command the event it names. -/

namespace Sys2Proof

/-- The bound on a request's parameter bytes (R162 check 1). -/
def maxParams : Nat := 240

/-- The type bytes of the camera's forward link (11 section 11.6). -/
def cameraTypes : List Byte := [0xA1, 0xA2, 0xA3]

/-- Whether a command is well formed: a LINE has its 2880 pixel bytes (11 section 11.6), a discarded packet has none
of the three types (R1), a bad frame fails a check of R162, and a request has at most 240 parameter bytes. -/
def Instr.wellFormed : Instr → Bool
  | .line _ _ pixels _ => pixels.length == Config.linePixelBytes
  | .discardedPacket _ kind => !cameraTypes.contains kind
  | .badFrame _ received => (Machine.frameFault received).isSome
  | .noOperation _ _ ps | .getStatus _ _ ps | .readCounters _ _ ps | .readFault _ _ ps | .readFaultKey _ _ ps
  | .ackFault _ _ ps | .ackAll _ _ ps | .setVehicleState _ _ ps | .setTime _ _ ps | .setViewOffset _ _ ps
  | .setNightPolicy _ _ ps | .setBrightness _ _ ps | .setExposureMode _ _ ps | .testImage _ _ ps
  | .readTileMap _ _ ps | .triggerCapture _ _ ps | .captureControl _ _ ps | .setCaptureParams _ _ ps
  | .clearCapture _ _ ps | .releaseCapture _ _ ps | .getCaptureStatus _ _ ps | .readCaptureHeader _ _ ps
  | .readCaptureSlot _ _ ps | .readCaptureNext _ _ ps | .calStage _ _ ps | .calDiscard _ _ ps
  | .calProgram _ _ ps _ | .calProtect _ _ ps | .calRead _ _ ps | .restart _ _ ps =>
    decide (ps.length ≤ maxParams)
  | .powerOnReset | .load | .supplyFail | .timeTick | .cameraLockAcquired _ | .cameraLockLost _
  | .frameStart _ _ | .frameEnd _ _ | .commandTransmissionComplete _ | .testFrameEnd _ | .frameCompletion _
  | .droppedFrameCompletion _ | .outputFrameStart _ | .backChannelLockAcquired _ | .backChannelLockLost _
  | .monitorAbilityWord _ _ | .frameReturn _ _ _ _ _ _ | .negotiationTimerExpiry _ | .failedTimerExpiry _
  | .upDeadlineExpiry _ | .vehicleStateExpiry | .crossTrigger _ | .eventInEdge | .chipSelectFall _
  | .replyReady _ | .requestDiscarded _ | .protectWindowExpiry | .programmingPeriodEnd _ | .eventInFall => true

end Sys2Proof
end

