-- ==== Sys2Proof/Tests/Slice0.lean ====
section
/-! SUPPORT. Tests of the model, each on small data: the WellFormed checks, the check values of the CRCs, worked
examples of the spec, and for each obligation with hypotheses a witness that meets them, clause by clause. -/

namespace Sys2Proof.Tests

open Sys2Proof Sys2Proof.Machine

-- One proof at a time: kernel evaluations that wait on one another would each hold a thread.
set_option Elab.async false

/-! ### What WellFormed refuses -/

/-- 11 section 11.6: a LINE has 2880 pixel bytes. -/
theorem test_line_of_two_bytes_is_ill_formed : (Instr.line .left 0 [0, 0] 0).wellFormed = false := by decide +kernel

/-- R1: a packet of type 0xA2 is a LINE and not a packet of another kind. -/
theorem test_discarded_line_is_ill_formed : (Instr.discardedPacket .left 0xA2).wellFormed = false := by decide +kernel

/-- R162: a frame that passes every check is no bad frame. -/
theorem test_good_frame_is_no_bad_frame :
    (Instr.badFrame .v (requestBytes .noOperation 5 [])).wellFormed = false := by decide +kernel

/-- R162 check 1: more than 240 parameter bytes cannot be framed. -/
theorem test_long_request_is_ill_formed : (Instr.calStage .v 0 (List.replicate 241 0)).wellFormed = false := by decide +kernel

theorem test_other_commands_are_well_formed :
    ((Instr.discardedPacket .left 0xA4).wellFormed && (Instr.badFrame .v []).wellFormed
      && (Instr.calStage .v 0 (List.replicate 240 0)).wellFormed && Instr.powerOnReset.wellFormed) = true := by decide +kernel

/-! ### Check values of the CRCs (R183), over the ASCII digits 1 to 9 -/

def digits : List Byte := [0x31, 0x32, 0x33, 0x34, 0x35, 0x36, 0x37, 0x38, 0x39]

theorem test_crc8_check_value : crc8 digits = 0xFB := by decide +kernel

theorem test_crc16_check_value : crc16 digits = 0x29B1 := by decide +kernel

theorem test_crc32_check_value : crc32 digits = 0xFC891918 := by decide +kernel

/-! ### Bytes on the ports and links (11 sections 11.3 and 11.6) -/

/-- 11 section 11.3: code, tag, length, parameters, CRC-8, written out for TRIGGER_CAPTURE of both sides. -/
theorem test_request_frame_is_read :
    transactionInstr .c true [0x50, 0x07, 0x01, 0x03, crc8 [0x50, 0x07, 0x01, 0x03]] = .triggerCapture .c 7 [3] := by
  decide +kernel

/-- R162: the same with its parameter damaged. -/
theorem test_damaged_frame_is_bad :
    transactionInstr .c true [0x50, 0x07, 0x01, 0x02, crc8 [0x50, 0x07, 0x01, 0x03]]
      = .badFrame .c [0x50, 0x07, 0x01, 0x02, crc8 [0x50, 0x07, 0x01, 0x03]] := by decide +kernel

/-- 11 section 11.6: a FRAME_START of frame 0x1234 with T 600, G 32, tag 3, temperature -5. -/
theorem test_frame_start_bytes :
    cameraPacket .left [0xA1, 0x12, 0x34, 0x02, 0x58, 0x00, 0x20, 0x03, 0xFF, 0xFB, 0x00]
      = some (.frameStart .left { frameNumber := 0x1234, tRep := 600, gRep := 32, appliedTag := 3
                                  sensorTemp := BitVec.ofInt 16 (-5), sensorFlags := 0 }) := by decide +kernel

theorem test_frame_end_bytes : cameraPacket .right [0xA3, 0x05, 0xA0] = some (.frameEnd .right 1440) := by decide +kernel

theorem test_unknown_packet_is_discarded : cameraPacket .right [0xB1, 0, 0] = some (.discardedPacket .right 0xB1) := by
  decide +kernel

theorem test_frame_return_bytes :
    monitorMessage .left [0xD2, 0x09, 0xDE, 0xAD, 0xBE, 0xEF, 0x01, 0x00, 0x02, 0x00, 0x00, 0x01]
      = some (.frameReturn .left 9 0xDEADBEEF 256 512 1) := by decide +kernel

theorem test_ability_word_bytes : monitorMessage .left [0xC1, 0x0F] = some (.monitorAbilityWord .left 0x0F) := by decide +kernel

/-- The table gives no row bits. -/
theorem test_no_word_spells_a_command : decodeTableWord 8 0x50 = none := rfl

/-! ### Worked examples of the chapters -/

/-- 02 section 2.10: 38400 splits into T 1400 and G 27. -/
theorem test_split_of_38400 : splitExposure defaultImage 38400 = (1400, 27) := by decide +kernel

/-- R48: a glare tile of Gt 240 beside one of Gt 48 gets Ge 152. -/
theorem test_neighbour_half_wins : effectiveTarget [240, 48] 0 = 152 := by decide +kernel

/-- R57: pixel (10, 1430) takes the gain of tile (0, 11) alone. -/
theorem test_corner_pixel_takes_edge_tile : pixelGain ((List.replicate 192 256).set 176 48) 10 1430 = 48 := by decide +kernel

/-- R59: Yout 4095 gives 255. -/
theorem test_brightest_code : codeOf 4095 = 255 := by decide +kernel

/-- R57, R50, R49: halfway between gains 48 and 256 on one axis. -/
theorem test_gain_halfway : pixelGain ((List.replicate 192 256).set 0 48) 120 60 = 152 := by decide +kernel

/-! ### States of the witnesses -/

/-- A port in a transaction begun on READY. -/
def onReady (p : Port) (s : State) : State := s.modPort p fun x => { x with txn := .onReady }

/-- The state after reset, with both ports in such a transaction. -/
def open2 : State := onReady .v (onReady .c State.reset)

/-- The same with the vehicle at rest. -/
def resting : State :=
  { open2 with vehicle := { resetVehicle with held := true, speed := some 0, age := 299 } }

/-- The same with a region programmed whose stored bytes are damaged: GEOMETRY alone. -/
def programming : State :=
  { resting with store :=
      { defaultStore with stored := { defaultStored with geometry := { items := List.replicate 22 0, checksum := 0 } }
                          programming := some ⟨true, false, false, false, false⟩ } }

/-- A record of each state: DISP_LINK of the right side ACTIVE and marked by both masters, LINE_CRC of the left side
PASSIVE, SENSOR_TEMP of the left side ACTIVE and marked by V. -/
def threeRecords : FaultTable :=
  { records :=
      [{ code := .dispLink, side := .right, active := true, firstRaise := ⟨0, 5⟩, lastRaise := ⟨0, 9⟩
         lastClear := some ⟨0, 7⟩, onsets := 255, detail := 1, ackedBy := ⟨true, true⟩ },
       { code := .lineCrc, side := .left, active := false, firstRaise := ⟨0, 6⟩, lastRaise := ⟨0, 6⟩
         lastClear := some ⟨0, 8⟩, onsets := 1, detail := 33, ackedBy := ⟨false, false⟩ },
       { code := .sensorTemp, side := .left, active := true, firstRaise := ⟨0, 6⟩, lastRaise := ⟨0, 6⟩
         lastClear := none, onsets := 1, detail := 110, ackedBy := ⟨true, false⟩ }]
    generation := 65535 }

/-- A header in whose fields every value lies in its range, at the bounds of the ranges. -/
def someHeader : Header :=
  { frameNumber := 0, tRep := 1500, gRep := 16, appliedTag := 2, sensorTemp := 104, sensorFlags := 0 }

/-- A camera link that receives, one line before the end of the frame, with two bad lines. -/
def receiving : Clr :=
  { resetClr with
    locked := true
    frame := { state := .receiving, header := some someHeader, nextLine := 1439, badCount := 2, badLines := [0, 7]
               rows := List.replicate 1439 [] }
    lastAccepted := some 0xFFFF, contRun := 60, window := List.replicate 60 1 }

/-- A digest of nothing in particular. -/
def someDigest : Digest :=
  { frameNumber := 7, synthetic := false, time := ⟨0, 0⟩, status := .accepted, repairedLines := 0, exposure := none
    command := none, m := 0, l := 0, mode := .day, stale := false, glareTiles := 0, minGa := 256, view := .live
    originX := 0, originY := 0, speed := none, angle := none, activeCodes := [], tileMeans := none }

/-- A header of the capture frozen in buffer 7. -/
def someCapture : CaptureHeader :=
  { seq := 255, buffer := 7, triggerFrame := some 7, triggerTime := ⟨0, 0⟩, freezeTime := ⟨0, 0⟩, stopSlot := 255
    preCount := 180, postCount := 76, sources := { noSources with fault := true }, faultCodes := [.linkLoss]
    extraCodes := 0, continues := false, windowBypassed := false }

/-- A capture under way with four codes seen. -/
def underWay : Capture :=
  { sources := { noSources with fault := true }, faultCodes := [.linkLoss, .staleView, .frozenImage, .dispLink]
    seen := [.linkLoss, .staleView, .frozenImage, .dispLink], extraCodes := 0, triggerFrame := none
    triggerTime := ⟨0, 0⟩, preCount := 180, postCount := 76, continues := false }

/-- A recorder with buffer 7 frozen that writes the last digest of a capture into buffer 0. -/
def lastWrite : Recorder :=
  { resetRecorder defaultCalibration with
    state := .post, rp := 7, frozen := 1, w := 255, fill := 180, post := 1, current := some underWay
    headers := [someCapture], seq := 0, cursorV := 255, slots := [(255, someDigest), (2047, someDigest)] }

/-- A recorder with every buffer frozen but the last, which it writes. -/
def lastBuffer : Recorder :=
  { resetRecorder defaultCalibration with
    size := 1024, npre := 1, state := .post, rp := 1, frozen := 1, w := 1023, fill := 1, post := 1
    current := some { underWay with preCount := 1, postCount := 1023 }
    headers := [{ someCapture with buffer := 1, stopSlot := 0 }], waiting := { noSources with masterV := true } }

/-- A recorder that has frozen both its buffers. -/
def allFrozen : Recorder :=
  { resetRecorder defaultCalibration with
    size := 1024, npre := 1023, state := .full, rp := 1, frozen := 2
    headers := [{ someCapture with buffer := 1 }, { someCapture with buffer := 0 }] }

/-- A recorder in a state, with nothing frozen. -/
def inState (st : RecorderState) (fill : Nat) : Recorder :=
  { resetRecorder defaultCalibration with state := st, fill := fill }

/-- A display link in UP with two frames sent. -/
def upLink : Dlt :=
  { resetDlt defaultCalibration with
    locked := true, state := .up, confirmed := some ⟨true, true, true⟩, chosen := some .m60, upDeadline := false
    tagCounter := 9, sent := [⟨8, 1⟩, ⟨9, 2⟩], mismatchRun := 255, matchRun := 29 }

/-- A state in the middle of its work: the left side receives, holds its view at NIGHT with its display UP and a capture
under way; the right side is INVALID by DISP_LINK; programming runs. -/
def midWork : State :=
  { programming with
    table := threeRecords
    left := { resetSide defaultCalibration .left with
              clr := receiving, dlt := upLink, recorder := lastWrite
              expo := { resetExposure with dayNight := .night }
              glare := { unityMap with tiles := ⟨true, 48, 48, 152, 6⟩ :: List.replicate 191 unityTile }
              view := { resetComposer defaultCalibration .left with state := .holding, heldCount := 5, originX := 960 } }
    right := { resetSide defaultCalibration .right with
               view := { resetComposer defaultCalibration .right with state := .invalid } } }

/-! ### A valid IMAGE region, without evaluating its 1992 bytes -/

/-- Item bytes of an IMAGE region with all its weights 1 and black test patterns. -/
def plainImage : List Byte :=
  encodeImage { defaultImage with weights := [], patterns := [], curve := [], blMin := 0, blNightMax := 0, blRamp := 0 }
    |>.take 34

/-- The curve and the backlight items that end it. -/
def imageTail : List Byte := defaultCurve.flatMap (fun p => word16 p.lux ++ word16 p.level) ++ [0, 20, 1, 44, 0, 10]

/-- Its 1992 bytes. -/
def imageBytes : List Byte := plainImage ++ (List.replicate 384 1 ++ (List.replicate 1536 0 ++ imageTail))

theorem withChecksum_ok (items : List Byte) : checksumOk (withChecksum items) = true := by
  simp [checksumOk, withChecksum]

theorem field_one (b : List Byte) (o : Nat) : field b o 1 = (b.getD o 0).toNat := by
  simp [field, natOfBytes]

theorem field_two (b : List Byte) (o : Nat) : field b o 2 = (b.getD o 0).toNat * 256 + (b.getD (o + 1) 0).toNat := by
  simp [field, natOfBytes, List.range_succ]

theorem plain_length : plainImage.length = 34 := by decide +kernel

theorem getD_middle (a c : List Byte) (n i : Nat) (x : Byte) (h : i < n) :
    (a ++ (List.replicate n x ++ c)).getD (a.length + i) 0 = x := by
  rw [List.getD_append_right _ _ _ _ (Nat.le_add_right _ _), Nat.add_sub_cancel_left,
    List.getD_append _ _ _ _ (by simpa using h)]
  simp [List.getD_eq_getElem?_getD, h]

theorem map_const_range {α : Type} (n : Nat) (f : Nat → α) (x : α) (h : ∀ i < n, f i = x) :
    (List.range n).map f = List.replicate n x := by
  refine List.ext_getElem (by simp) fun i h1 _ => ?_
  simp only [List.getElem_map, List.getElem_range, List.getElem_replicate]
  exact h i (by simpa using h1)

theorem weights_one : (parseImage imageBytes).weights = List.replicate 384 1 := by
  unfold parseImage
  dsimp only
  apply map_const_range
  intro i h
  have h1 := getD_middle plainImage (List.replicate 1536 0 ++ imageTail) 384 i 1 h
  rw [plain_length] at h1
  rw [field_one, imageBytes, h1]
  decide

theorem at_pattern (i : Nat) (h : i < 1536) : imageBytes.getD (418 + i) 0 = 0 := by
  have := getD_middle (plainImage ++ List.replicate 384 1) imageTail 1536 i 0 h
  rwa [List.length_append, plain_length, List.length_replicate, List.append_assoc] at this

theorem patterns_black : (parseImage imageBytes).patterns = List.replicate 768 0 := by
  unfold parseImage
  dsimp only
  apply map_const_range
  intro i h
  rw [field_two, at_pattern _ (by omega), Nat.add_assoc, at_pattern _ (by omega)]
  decide

theorem curve_default : (parseImage imageBytes).curve = defaultCurve := by decide +kernel

theorem all_of_replicate {α : Type} (n : Nat) (x : α) (p : α → Bool) (h : p x = true) :
    (List.replicate n x).all p = true := by
  rw [List.all_eq_true]; intro y hy; rw [List.eq_of_mem_replicate hy]; exact h

theorem image_valid : itemsValid .image imageBytes = true := by
  have h1 : (parseImage imageBytes).weights.all (fun w => inRange w 0 15) = true := by
    rw [weights_one]; exact all_of_replicate _ _ _ rfl
  have h2 : (parseImage imageBytes).patterns.all (fun p => inRange p 0 4095) = true := by
    rw [patterns_black]; exact all_of_replicate _ _ _ rfl
  unfold itemsValid imageInRange
  dsimp only
  rw [h1, h2]
  decide +kernel

/-! ### Witnesses: resets and the load -/

/-- A statement over both sides from its two cases. -/
theorem both_sides {P : Side → Prop} (h : ∀ sd ∈ [Side.left, .right], P sd) : ∀ sd, P sd
  | .left => h .left (by simp)
  | .right => h .right (by simp)

/-- StepRunsFrontCommand. -/
theorem witness_empty_queue : State.reset.pending = [] := rfl

/-- PowerOnResetsEveryBlock: outside a period, and within one with a region programmed and one not. -/
theorem witness_power_on :
    State.reset.store.programming = none
      ∧ programming.store.programming = some ⟨true, false, false, false, false⟩
      ∧ perRegionGet (⟨true, false, false, false, false⟩ : RegionSet) .geometry = true
      ∧ perRegionGet (⟨true, false, false, false, false⟩ : RegionSet) .access = false := ⟨rfl, rfl, rfl, rfl⟩

/-- SideResetValues. -/
theorem witness_side_reset :
    defaultCalibration.capture.autostart = true
      ∧ ({ defaultCalibration with capture := { defaultCapture with autostart := false } }).capture.autostart = false :=
  ⟨rfl, rfl⟩

/-- A stored image whose regions pass, with RESET_N low. -/
def held : State :=
  { State.reset with
    phase := .resetHeld
    store := { defaultStore with stored := { defaultStored with image := withChecksum imageBytes } } }

/-- The same with a region that fails: ACCESS without its bytes. -/
def heldDamaged : State :=
  { held with store := { held.store with stored := { held.store.stored with access := ⟨[], 0⟩ } } }

/-- A state with the pauses of the operations to come. -/
def paused (l : List Nat) (s : State) : State := { s with pauses := l }

theorem takesPause_none (s : State) (h : s.pauses = []) : TakesPause s 6 s := .inl ⟨h, rfl, rfl⟩

theorem takesPause_first (s : State) (n : Nat) (rest : List Nat) : TakesPause (paused (n :: rest) s) n (paused rest s) :=
  .inr ⟨rest, rfl, rfl⟩

theorem all_valid (r : Region) : regionValid r (perRegionGet held.store.stored r) = true := by
  have h : checksumOk (perRegionGet held.store.stored r) = true := by cases r <;> exact withChecksum_ok _
  unfold regionValid
  rw [h, Bool.true_and]
  cases r
  case image => exact image_valid
  all_goals decide +kernel

/-- LoadAfterPowerOn: RESET_N low and risen, the load whole and with a pause after one, two and three parts; every
region valid, and one that is not. -/
theorem witness_load :
    held.phase = .resetHeld ∧ TakesPause held 6 held ∧ 3 ≤ 6 ∧ (∀ n, TakesPause (paused [n] held) n (paused [] held))
      ∧ ({ held with phase := .loading } : State).phase = .loading
      ∧ TakesPause { held with phase := .loading } 6 { held with phase := .loading }
      ∧ held.table = { records := [], generation := 0 }
      ∧ (∀ r, regionValid r (perRegionGet held.store.stored r) = true)
      ∧ heldDamaged.phase = .resetHeld ∧ heldDamaged.table = { records := [], generation := 0 }
      ∧ TakesPause heldDamaged 6 heldDamaged
      ∧ ∃ r, regionValid r (perRegionGet heldDamaged.store.stored r) = false :=
  ⟨rfl, takesPause_none _ rfl, by decide, fun n => takesPause_first _ n [], rfl, takesPause_none _ rfl, rfl, all_valid, rfl,
    rfl, takesPause_none _ rfl, .access, by decide +kernel⟩

/-- The same, for steps 6 and 7 alone: either cause, every region VALID at the load, and one DEFAULTED. -/
theorem witness_load_reports :
    (∀ cause, ({ resting with phase := .reporting cause } : State).phase = .reporting cause
        ∧ TakesPause { resting with phase := .reporting cause } 6 { resting with phase := .reporting cause })
      ∧ (∀ r, perRegionGet resting.store.defaulted r = false)
      ∧ ∃ r, perRegionGet ({ geometry := false, image := false, integrity := false, capture := false
                             access := true } : RegionSet) r = true :=
  ⟨fun _ => ⟨rfl, takesPause_none _ rfl⟩, fun r => (by cases r <;> decide), .access, rfl⟩

/-- A RESTART that waits for its load, with a recorder that holds a frozen capture and one that holds two. -/
def restartingState : State :=
  { resting with
    phase := .restarting
    left := { resetSide defaultCalibration .left with recorder := lastWrite }
    right := { resetSide defaultCalibration .right with recorder := allFrozen } }

/-- LoadAfterRestart: sound recorders, with a frozen buffer, and with S as loaded and not; a STOPPED recorder; the load
whole, and with a pause after its first part. -/
theorem witness_restart_load :
    restartingState.phase = .restarting ∧ TakesPause restartingState 6 restartingState
      ∧ TakesPause (paused [1] restartingState) 1 (paused [] restartingState)
      ∧ (∀ sd, RecorderSound (restartingState.side sd).recorder) ∧ bufferMark lastWrite 7 = .frozen
      ∧ lastWrite.size = defaultCapture.size ∧ allFrozen.size ≠ defaultCapture.size
      ∧ RecorderSound (inState .stopped 0) ∧ (inState .stopped 0).state = .stopped :=
  ⟨rfl, takesPause_none _ rfl, takesPause_first _ 1 [], fun sd => (by cases sd <;> decide +kernel), by decide +kernel,
    rfl, by decide, by decide +kernel, rfl⟩

/-- RestartTaken. -/
theorem witness_restart :
    Reaches open2 .v .restart ∧ open2.store.programming = none := by decide +kernel

/-- ValidRegionsKeepTheirBytes: a region that passes, and one of its length that does not. -/
theorem witness_region_bytes :
    imageBytes.length = regionLength .image ∧ regionValid .image (withChecksum imageBytes) = true
      ∧ (perRegionGet programming.store.stored .geometry).items.length = regionLength .geometry
      ∧ regionValid .geometry (perRegionGet programming.store.stored .geometry) = false := by
  refine ⟨by decide +kernel, ?_, by decide +kernel⟩
  unfold regionValid
  rw [withChecksum_ok, Bool.true_and]
  exact image_valid

/-! ### Witnesses: ports, vehicle state -/

/-- A port whose transaction is as given. -/
def txnOf (t : Transaction) : State := State.reset.modPort .v fun x => { x with txn := t }

/-- RequestDiscardedUnexamined: each of the four transactions. -/
theorem witness_discarded :
    SupplySound (txnOf .cut) ∧ ((txnOf .onPreparing).port .v).txn = .onPreparing ∧ ((txnOf .cut).port .v).txn = .cut
      ∧ ((txnOf .none).port .v).txn = .none ∧ ((txnOf .onReady).port .v).txn = .onReady := by decide +kernel

/-- RefusedRequestsChangeNothing: a port without authority, a length one short, a side beyond the two, and the default
ACCESS region. -/
theorem witness_refusals :
    SupplySound open2 ∧ (open2.port .c).txn = .onReady ∧ authorised open2 .c .restart = false
      ∧ authorised open2 .v .captureControl = true ∧ lengthOk .captureControl 1 = false
      ∧ 1 < (([2, 0] : List Byte).getD 0 0).toNat ∧ open2.cal.access = defaultAccess := by decide +kernel

/-- A reply that a slot holds. -/
def someReply : Reply := { status := .ok, code := 0x64, tag := 15, payload := [1] }

/-- A port with no transaction, by its slot and phase. -/
def slotOf (x : ReplySlot) (ph : Phase) : State := { State.reset.modPort .v (fun y => { y with slot := x }) with phase := ph }

/-- TransactionsAndReplies: each slot at a fall, also while a load runs, RESET_N low, a fall within a transaction, a
reply in the making and none. -/
theorem witness_transactions :
    ((slotOf (.ready someReply) .running).port .v).txn = .none
      ∧ (slotOf (.ready someReply) .running).phase ≠ .resetHeld
      ∧ ((slotOf (.ready someReply) .running).port .v).slot = .ready someReply
      ∧ ((slotOf (.preparing (some someReply)) .restarting).port .v).slot = .preparing (some someReply)
      ∧ (slotOf (.preparing none) .loading).phase ≠ .resetHeld
      ∧ ((slotOf (.preparing none) .loading).port .v).slot = .preparing none
      ∧ (slotOf (.preparing none) .resetHeld).phase = .resetHeld
      ∧ ((txnOf .onReady).port .v).txn ≠ .none
      ∧ ∀ r, ((slotOf (.ready someReply) .running).port .v).slot ≠ .preparing (some r) := by
  refine ⟨rfl, by decide, rfl, rfl, by decide, rfl, rfl, by decide, fun r h => by cases h⟩

/-- BadFrameReply: each check failing at the bound of its range: 2 bytes and P 241; P 240 with a byte missing; a CRC
that is wrong by one bit; a code that the table lacks. -/
theorem witness_bad_frames :
    (open2.port .v).txn = .onReady ∧ ([0x00, 0x00] : List Byte).length < 3
      ∧ 240 < (([0x60, 0x00, 0xF1] : List Byte).getD 2 0).toNat
      ∧ ([0x60, 0x00, 0xF0] ++ List.replicate 240 0 : List Byte).length < 4 + 240
      ∧ crc8 (([0x00, 0x00, 0x00, 0x00] : List Byte).take 3) ≠ ([0x00, 0x00, 0x00, 0x00] : List Byte).getD 3 0
      ∧ crc8 ([0xFF, 0x00, 0x00] ++ [crc8 [0xFF, 0x00, 0x00]] |>.take 3)
          = ([0xFF, 0x00, 0x00] ++ [crc8 [0xFF, 0x00, 0x00]] : List Byte).getD 3 0
      ∧ ∀ c ∈ requestCodes, codeByte c ≠ 0xFF := by decide +kernel

/-- FramedRequestReadsBack: 240 parameter bytes. -/
theorem witness_framed : (List.replicate 240 (0 : Byte)).length ≤ 240 := by decide +kernel

/-- StatusRequests. -/
theorem witness_status : (open2.port .c).txn = .onReady := rfl

/-- CountersFollowBaselines: the last counter of a side, and a rise across the end of the count. -/
theorem witness_counters :
    (open2.port .c).txn = .onReady ∧ (counterList (totalsOf (open2.side .left)))[7]? = some 0
      ∧ (counterList (baseOf (open2.port .c) .left))[7]? = some 0
      ∧ (2 ^ 32 + (65535 : BitVec 32).toNat - (0xFFFFFFFF : BitVec 32).toNat) % 2 ^ 32 = 65536 := by decide +kernel

/-- TimeBaseCounts: RESET_N low and not, the age one below the last step and at it, SET_TIME. -/
theorem witness_time :
    held.phase = .resetHeld ∧ open2.phase ≠ .resetHeld
      ∧ 298 + 1 < open2.cal.integrity.stateHold ∧ resting.cal.integrity.stateHold ≤ resting.vehicle.age + 1
      ∧ Reaches open2 .v .setTime := by decide +kernel

/-- SetVehicleStateReplacesRecord: booleans at 1 and at 2, each field present. -/
theorem witness_vehicle :
    Reaches open2 .v .setVehicleState ∧ (0x0F : Byte).getLsbD 2 = true ∧ (1 : Byte).toNat ≤ 1
      ∧ (0x0F : Byte).getLsbD 3 = true ∧ 1 < (2 : Byte).toNat := by decide +kernel

/-- The vehicle state one step after its expiry. -/
def expired : State := { resting with vehicle := { resting.vehicle with age := 300 } }

/-- FreshnessAndExpiry: the age one below STATE_HOLD, at it and at 0, a record held and none. -/
theorem witness_freshness :
    blocksRun resting.phase = true ∧ resting.vehicle.held = true
      ∧ resting.vehicle.age < resting.cal.integrity.stateHold ∧ open2.vehicle.held = false
      ∧ resting.vehicle.age + 1 = resting.cal.integrity.stateHold
      ∧ open2.vehicle.age + 1 ≠ open2.cal.integrity.stateHold
      ∧ expired.cal.integrity.stateHold ≤ expired.vehicle.age ∧ blocksRun expired.phase = true := by decide +kernel

/-! ### Witnesses: camera links -/

/-- A state whose left camera link is as given. -/
def withClr (c : Clr) : State := { resting with left := { resetSide defaultCalibration .left with clr := c } }

/-- CameraLockFollowsLink: UNLOCKED, LOCKED with a frame in progress and without. -/
theorem witness_camera_lock :
    blocksRun resting.phase = true ∧ (resting.side .left).clr.locked = false
      ∧ ((withClr receiving).side .left).clr.locked = true
      ∧ ((withClr receiving).side .left).clr.frame.state = .receiving
      ∧ ((withClr { resetClr with locked := true }).side .left).clr.locked = true
      ∧ ((withClr { resetClr with locked := true }).side .left).clr.frame.state ≠ .receiving := by decide +kernel

/-- A frame in progress on a full window of clean frames. -/
def dropping : State := withClr { receiving with window := List.replicate 60 0 }

/-- DropEvent: a full window and a sum at the limit, at half of it, and one below half; a header of each kind. -/
theorem witness_drop :
    (dropping.side .left).clr.frame.header = some someHeader ∧ (dropping.side .left).clr.window.length ≤ 60
      ∧ (pushed (List.replicate 60 0) 32).sum = dropping.cal.integrity.crcLimit
      ∧ (pushed (List.replicate 60 0) 16).sum = dropping.cal.integrity.crcLimit / 2
      ∧ (pushed (List.replicate 60 0) 15).sum < dropping.cal.integrity.crcLimit / 2
      ∧ WellFormedHeader someHeader ∧ ¬ WellFormedHeader { someHeader with gRep := 15 } := by decide +kernel

/-- FrameStartOpens: each lock state, and the temperature at the limit, one below it, 5 below it. -/
theorem witness_frame_start :
    blocksRun resting.phase = true ∧ (resting.side .left).clr.locked = false
      ∧ ((withClr receiving).side .left).clr.locked = true ∧ WellFormedHeader someHeader
      ∧ resting.cal.integrity.tempLimit ≤ (105 : BitVec 16).toInt
      ∧ resting.cal.integrity.tempLimit - 5 < (104 : BitVec 16).toInt
      ∧ (104 : BitVec 16).toInt < resting.cal.integrity.tempLimit
      ∧ (100 : BitVec 16).toInt ≤ resting.cal.integrity.tempLimit - 5
      ∧ ¬ WellFormedHeader { someHeader with sensorFlags := 1 } := by decide +kernel

theorem complement_differs (x : BitVec 16) : ~~~x ≠ x := by
  intro h
  have h0 := congrArg (·.getLsbD 0) h
  simp at h0

/-- LineTaken: the last line with a good CRC in order and out of order and with a bad CRC, and a line past the last. -/
theorem witness_line (px : List Byte) :
    blocksRun (withClr receiving).phase = true ∧ ((withClr receiving).side .left).clr.frame = receiving.frame
      ∧ receiving.locked = true ∧ receiving.frame.state = .receiving ∧ receiving.frame.nextLine < 1440
      ∧ ~~~(lineCrc 1439 px) ≠ lineCrc 1439 px ∧ (1439 : BitVec 16).toNat = receiving.frame.nextLine
      ∧ (0 : BitVec 16).toNat ≠ receiving.frame.nextLine
      ∧ 1440 ≤ ({ receiving.frame with nextLine := 1440 } : FrameInProgress).nextLine
      ∧ resetClr.locked = false ∧ resetClr.frame.state ≠ .receiving := by
  refine ⟨rfl, rfl, rfl, rfl, by decide +kernel, complement_differs _, by decide +kernel, by decide +kernel,
    Nat.le_refl _, rfl, by decide⟩

/-- The frame of receiving with all its lines and a number of bad ones. -/
def lastLine (bad : Nat) : Clr :=
  { receiving with frame := { receiving.frame with nextLine := 1440, badCount := bad, rows := List.replicate 1440 [] } }

/-- FrameEndDecides: UNLOCKED and each frame state in LOCKED; 4 bad lines accepted, 5 dropped; a line count of 1439; the number that follows,
one that does not, and none. -/
theorem witness_frame_end :
    blocksRun (withClr (lastLine 4)).phase = true ∧ (lastLine 4).locked = true ∧ (lastLine 4).frame.state = .receiving
      ∧ (lastLine 4).frame.header = some someHeader ∧ (lastLine 4).window.length ≤ 60 ∧ (lastLine 4).contRun ≤ 60
      ∧ ((lastLine 4).frame.nextLine = 1440 ∧ (1440 : BitVec 16).toNat = 1440
          ∧ (lastLine 4).frame.badCount ≤ (withClr (lastLine 4)).cal.integrity.lineRepairMax)
      ∧ ¬ ((lastLine 5).frame.badCount ≤ (withClr (lastLine 5)).cal.integrity.lineRepairMax)
      ∧ ¬ ((1439 : BitVec 16).toNat = 1440) ∧ (lastLine 4).lastAccepted = some (someHeader.frameNumber - 1)
      ∧ (0xFFFE : FrameNumber) ≠ someHeader.frameNumber - 1 ∧ resetClr.lastAccepted = none
      ∧ idleFrame.state = .idle ∧ resetClr.locked = false := by
  refine ⟨rfl, rfl, rfl, rfl, ?_⟩
  decide +kernel

/-- The pending commands of a header report of frame 0: tag 2 is found, tag 1 older, tag 3 newer. -/
def pendingThree (due : FrameNumber) : List PendingCommand := [⟨1, 1, 16, 0⟩, ⟨2, 1500, 16, 0⟩, ⟨3, 1, 16, due⟩]

/-- FrameEndDecides, the header report: an entry found, with the values asked for and with others; a newer one late by
two frames, at the last distance, one frame early of that, and past it; no entry found. -/
theorem witness_header_report :
    pendingThree 0 = [⟨1, 1, 16, 0⟩] ++ (some (⟨2, 1500, 16, 0⟩ : PendingCommand)).toList ++ [⟨3, 1, 16, 0⟩]
      ∧ (1 : BitVec 4).setWidth 8 ≠ someHeader.appliedTag ∧ (2 : BitVec 4).setWidth 8 = someHeader.appliedTag
      ∧ (1500 = someHeader.tRep.toNat ∧ 16 = someHeader.gRep.toNat) ∧ 1499 ≠ someHeader.tRep.toNat
      ∧ LateAt someHeader.frameNumber ⟨3, 1, 16, 0xFFFE⟩ ∧ LateAt someHeader.frameNumber ⟨3, 1, 16, 0x8001⟩
      ∧ ¬ LateAt someHeader.frameNumber ⟨3, 1, 16, 0xFFFF⟩ ∧ ¬ LateAt someHeader.frameNumber ⟨3, 1, 16, 0x8000⟩
      ∧ ([⟨3, 1, 16, 0⟩] : List PendingCommand) = [] ++ (none : Option PendingCommand).toList ++ [⟨3, 1, 16, 0⟩]
      ∧ (3 : BitVec 4).setWidth 8 ≠ someHeader.appliedTag ∧ (resetExposure.confirmedRun ≠ 29)
      ∧ ({ resetExposure with confirmedRun := 29 } : Exposure).confirmedRun = 29 := by decide +kernel

/-- FrameEndDecides, the window and the run: the sum after the push at the limit, at its half and below; a run that
reaches 60. -/
theorem witness_frame_end_counts :
    (pushed (List.replicate 28 1 ++ List.replicate 32 0) 4).sum < (withClr (lastLine 4)).cal.integrity.crcLimit
      ∧ (withClr (lastLine 4)).cal.integrity.crcLimit / 2 ≤ (pushed (List.replicate 28 0 ++ List.replicate 32 1) 0).sum
      ∧ (pushed (List.replicate 60 0) 4).sum < (withClr (lastLine 4)).cal.integrity.crcLimit / 2
      ∧ (withClr (lastLine 4)).cal.integrity.crcLimit ≤ (pushed (lastLine 4).window 4).sum
      ∧ ({ lastLine 4 with contRun := 59 } : Clr).contRun = 59 := by decide +kernel

/-- RepairTopToBottom: sixteen bad lines from line 0 on, and the last line. -/
theorem witness_repair :
    (List.range 15 ++ [1439]).Pairwise (· < ·) ∧ (∀ i ∈ List.range 15 ++ [1439], i < 1440)
      ∧ (List.range 15 ++ [1439]).length ≤ 16 ∧ (List.replicate 1440 ([] : List Pixel)).length = 1440
      ∧ 0 ∈ List.range 15 ++ [1439] := by
  refine ⟨by decide, by decide, by decide, List.length_replicate, by decide⟩

/-- BackChannelTransmitter: UNLOCKED, LOCKED and empty, LOCKED and sending. -/
theorem witness_transmitter :
    resetClr.locked = false ∧ ({ resetClr with locked := true } : Clr).sending = none
      ∧ ({ resetClr with locked := true, sending := some ⟨0, 1, 16⟩ } : Clr).sending.isSome = true
      ∧ blocksRun resting.phase = true := ⟨rfl, rfl, rfl, rfl⟩

/-- A side in TEST. -/
def testing : State :=
  { resting with left := { resetSide defaultCalibration .left with
                           testFlag := true
                           view := { resetComposer defaultCalibration .left with state := .test } } }

/-- TestFramesAndTestEnd: a side in TEST and one in none, with a header and without. -/
theorem witness_tests :
    blocksRun testing.phase = true ∧ (testing.side .left).testFlag = true ∧ TestSound testing .left
      ∧ (testing.side .right).testFlag = false ∧ TestSound testing .right
      ∧ (testing.side .left).clr.lastHeader = none
      ∧ ({ resetClr with lastHeader := some (1500, 256) } : Clr).lastHeader = some (1500, 256) := by decide +kernel

/-- TestImageRequest: at rest and not, a named side in no test and one in TEST, the last pattern and one beyond, ON, OFF and neither. -/
theorem witness_test_image :
    Reaches resting .v .testImage ∧ presentedSpeed resting = some 0 ∧ Reaches open2 .v .testImage
      ∧ presentedSpeed open2 ≠ some 0 ∧ (3 : Byte).toNat < 4 ∧ 3 < (4 : Byte).toNat ∧ 1 < (2 : Byte).toNat
      ∧ (2 : Byte).getLsbD (sideNumber .right) = true ∧ (2 : Byte).getLsbD (sideNumber .left) = false
      ∧ (resting.side .right).testFlag = false ∧ (resting.side .right).view.state ≠ .test
      ∧ Reaches testing .v .testImage ∧ presentedSpeed testing = some 0 ∧ (1 : Byte).getLsbD (sideNumber .left) = true
      ∧ (1 : Byte).getLsbD (sideNumber .right) = false ∧ (testing.side .left).testFlag = true := by decide +kernel

/-! ### Witnesses: frame completion, exposure, glare -/

/-- An accepted camera frame and a synthetic one. -/
def cameraFrame : AcceptedFrame :=
  { number := 0, status := .accepted, repairedLines := 0, tRep := 1500, gRep := 256, image := .camera [] }

def syntheticOne : AcceptedFrame := { cameraFrame with image := .synthetic [] }

/-- A left side with inputs. -/
def withInputs (l : List CompletionInput) : State :=
  { resting with left := { resetSide defaultCalibration .left with inputs := l } }

/-- An operation that has come to a stage. -/
def atStage (stage : Stage) : Completion := { frame := cameraFrame, next := stage, command := none }

/-- A left side with an operation running, and a frame and a report waiting. -/
def inStage (stage : Stage) : State :=
  { resting with left := { resetSide defaultCalibration .left with
                           inputs := [.accepted cameraFrame, .dropped ⟨0, none⟩], running := some (atStage stage) } }

/-- FrameCompletionRunsStages: no input, a report in front, and a frame of each kind, each with no operation running; an
operation running; no pause, and one after the last stage and before it. -/
theorem witness_completion :
    blocksRun resting.phase = true ∧ (resting.side .left).running = none
      ∧ (∀ f rest, ((withInputs []).side .left).inputs ≠ .accepted f :: rest)
      ∧ (∀ f rest, ((withInputs [.dropped ⟨0, none⟩]).side .left).inputs ≠ .accepted f :: rest)
      ∧ ((withInputs [.accepted cameraFrame]).side .left).running = none
      ∧ ((withInputs [.accepted cameraFrame]).side .left).inputs = .accepted cameraFrame :: []
      ∧ TakesPause (withInputs [.accepted cameraFrame]) 6 (withInputs [.accepted cameraFrame])
      ∧ TakesPause (paused [2, 6] (withInputs [.accepted cameraFrame])) 2
          (paused [6] (withInputs [.accepted cameraFrame]))
      ∧ ((inStage .exposure).side .left).running = some (atStage .exposure)
      ∧ TakesPause (inStage .exposure) 6 (inStage .exposure)
      ∧ (true = true ↔ ∃ rows, cameraFrame.image = .camera rows)
      ∧ ((withInputs [.accepted syntheticOne]).side .left).inputs = .accepted syntheticOne :: []
      ∧ (false = true ↔ ∃ rows, syntheticOne.image = .camera rows)
      ∧ presentedSpeed resting = some 0 := by
  refine ⟨rfl, rfl, nofun, nofun, rfl, rfl, takesPause_none _ rfl, takesPause_first _ 2 [6], rfl, takesPause_none _ rfl,
    ⟨fun _ => ⟨_, rfl⟩, fun _ => rfl⟩, rfl,
    ⟨fun h => (by cases h), fun h => (by obtain ⟨_, h⟩ := h; cases h)⟩, by decide +kernel⟩

/-- The same: a frame like the one before and another; the run at FROZEN_FRAMES and one below, the speed at FROZEN_SPEED
and one below; a list of pending commands one below its length and at it; the recover count one below its limit. -/
theorem witness_completion_stages :
    (tileMeans (resetSide defaultCalibration .left).stats).length = 192
      ∧ resting.cal.integrity.frozenFrames ≤ min ((resting.cal.integrity.frozenFrames - 1) + 1) 65535
      ∧ ¬ resting.cal.integrity.frozenFrames ≤ min ((resting.cal.integrity.frozenFrames - 2) + 1) 65535
      ∧ presentedSpeed { resting with vehicle := { resting.vehicle with speed := some 10 } } = some 10
      ∧ resting.cal.integrity.frozenSpeed ≤ 10 ∧ ¬ resting.cal.integrity.frozenSpeed ≤ 9
      ∧ (pendingThree 0 ++ [(⟨4, 1, 16, 3⟩ : PendingCommand)]).length = 4
      ∧ ((pendingThree 0).drop 1 ++ [(⟨4, 1, 16, 3⟩ : PendingCommand)]).length ≠ 4
      ∧ (resting.side .left).view.recoverCount < resting.cal.integrity.recoverFrames
      ∧ min ((resting.cal.integrity.recoverFrames - 1) + 1) resting.cal.integrity.recoverFrames
          = resting.cal.integrity.recoverFrames := by decide +kernel

/-- DayNightDecided: each policy and each mode, with the scene level at the bounds and past them. -/
theorem witness_day_night :
    resetExposure.policy = .auto ∧ resetExposure.dayNight = .day
      ∧ ({ resetExposure with policy := .forceDay } : Exposure).policy = .forceDay
      ∧ ({ resetExposure with policy := .forceNight } : Exposure).policy = .forceNight
      ∧ ((midWork.side .left).expo.policy = .auto ∧ (midWork.side .left).expo.dayNight = .night)
      ∧ (true = true ↔ ∃ rows, cameraFrame.image = .camera rows)
      ∧ (false = true ↔ ∃ rows, syntheticOne.image = .camera rows) :=
  ⟨rfl, rfl, rfl, rfl, ⟨rfl, rfl⟩, ⟨fun _ => ⟨_, rfl⟩, fun _ => rfl⟩,
    ⟨fun h => (by cases h), fun h => (by obtain ⟨_, h⟩ := h; cases h)⟩⟩

/-- DroppedReportWritesDigest: an operation running, no input, a frame in front, a report. -/
theorem witness_dropped :
    blocksRun resting.phase = true ∧ (∀ r rest, ((withInputs []).side .left).inputs ≠ .dropped r :: rest)
      ∧ (∀ r rest, ((withInputs [.accepted cameraFrame]).side .left).inputs ≠ .dropped r :: rest)
      ∧ ((withInputs [.dropped ⟨0, none⟩]).side .left).inputs = .dropped ⟨0, none⟩ :: []
      ∧ ((withInputs [.dropped ⟨0, none⟩]).side .left).running = none
      ∧ ((inStage .offer).side .left).running.isSome = true := ⟨rfl, nofun, nofun, rfl, rfl, rfl⟩

/-- CommandsInRange: the exposures at both ends of the range, and a full list of pending commands. -/
theorem witness_split :
    16 ≤ defaultImage.eMin ∧ defaultImage.eMin ≤ 256 ∧ 1 ≤ defaultImage.tMax
      ∧ defaultImage.eMax ≤ defaultImage.tMax * 256 ∧ defaultImage.eMin ≤ defaultImage.eMax
      ∧ splitExposure defaultImage 16 = (1, 16) ∧ splitExposure defaultImage 358400 = (1400, 256)
      ∧ (List.replicate 4 (⟨0, 1, 16, 3⟩ : PendingCommand)).length ≤ 4 := by decide +kernel

/-- The same: a whole camera frame and a flat tile, the last tile; weights that leave no tile and that leave all; the
step limits and the range of an exposure. -/
theorem witness_statistics :
    (191 < 192 ∧ (List.replicate 1440 (List.replicate 1920 (0 : Pixel))).length = 1440
        ∧ ∀ row ∈ List.replicate 1440 (List.replicate 1920 (0 : Pixel)), row.length = 1920)
      ∧ (List.replicate 192 4095)[191]? = some 4095
      ∧ (unityMap.tiles.length = 192 ∧ resetStats.tiles.length = 192 ∧ resetStats.fmean ≤ 4095
        ∧ (∀ o ∈ resetStats.tiles, o.mean ≤ 4095))
      ∧ (∀ weights : List Nat, ∀ t o, unityMap.tiles[t]? = some o →
          weights.getD t 0 = if o.ga = 256 then weights.getD t 0 else 0)
      ∧ ((List.range 192).map fun t => ([] : List Nat).getD t 0).sum = 0
      ∧ 1 ≤ ((List.range 192).map fun t => (List.replicate 192 1).getD t 0).sum
      ∧ defaultImage.eMin ≤ defaultImage.eMax := by
  refine ⟨⟨by decide, List.length_replicate, fun row h => ?_⟩, by decide +kernel, by decide +kernel, fun w t o h => ?_,
    by decide +kernel, by decide +kernel, by decide +kernel⟩
  · rw [List.eq_of_mem_replicate h]; exact List.length_replicate
  · have : o.ga = 256 := by rw [List.eq_of_mem_replicate (List.mem_of_getElem? h)]; rfl
    simp [this]

/-- GlareUpdateBounds, stage 2: a stored M at the floor of Bref and one above it, in either mode. -/
theorem witness_stage_glare :
    (resting.side .left).expo.m ≤ 16 ∧ (resting.side .left).expo.dayNight = .day
      ∧ 16 ≤ ({ resetExposure with m := 17, dayNight := .night } : Exposure).m
      ∧ 16 ≤ ({ resetExposure with m := 16 } : Exposure).m ∧ ({ resetExposure with m := 16 } : Exposure).m ≤ 16 := by
  decide +kernel

/-- GlareUpdateBounds: the default items and a map at the bounds of the gain. -/
theorem witness_glare :
    defaultImage.gmin ≤ 256 ∧ 1 ≤ defaultImage.attack ∧ defaultImage.attack ≤ 16
      ∧ defaultImage.kneeIn < defaultImage.kneeOut
      ∧ (∀ o ∈ [⟨true, 48, 48, 48, 6⟩, unityTile], defaultImage.gmin ≤ o.ga ∧ o.ga ≤ 256)
      ∧ (List.replicate 192 (⟨0, 0, 0⟩ : TileStat))[191]? = some ⟨0, 0, 0⟩
      ∧ (List.replicate 192 unityTile)[191]? = some unityTile
      ∧ (updateTiles defaultImage 16 [] [])[191]? = some unityTile := by decide +kernel

/-- OutputCodes: gains at the bounds, the last column and row, a gain of 256, a luminance at the knee and past it, the
last row of the far view and the first of the wide one, the last code of a raster, the last pixel of an image. -/
theorem witness_codes :
    (List.replicate 192 256).length = 192 ∧ (∀ g ∈ (List.replicate 192 256).set 0 48, 48 ≤ g ∧ g ≤ 256)
      ∧ 15 < 16 ∧ 11 < 12 ∧ 256 ≤ 256 ∧ 959 < 960 ∧ 1439 < 1440 ∧ 719 < 720 ∧ 720 ≤ 720 ∧ 1024 ≤ 1024 ∧ 1024 < 1025
      ∧ ([[1, 2]] : List (List Pixel))[0]? = some [1, 2] ∧ ([1, 2] : List Pixel)[1]? = some 2
      ∧ (List.replicate 192 7)[16 * (1439 / 120) + 1919 / 120]? = some 7 := by decide +kernel

/-- ExposureModeRequest: no side, beyond two sides, an unknown mode; both sides in each mode; products below, within and
above the range. -/
theorem witness_exposure_mode :
    Reaches open2 .v .setExposureMode ∧ (0 : Byte).toNat = 0 ∧ 3 < (4 : Byte).toNat ∧ 2 < (3 : Byte).toNat
      ∧ (3 : Byte).toNat ≤ 3 ∧ 1 ≤ (1 : Byte).toNat ∧ (2 : Byte).toNat ≤ 2 ∧ 1 ≤ defaultImage.tMax
      ∧ defaultImage.eMin ≤ 1 * 16 ∧ 1400 * 256 ≤ defaultImage.eMax
      ∧ 1 * 16 < ({ defaultImage with eMin := 17 } : ImageCal).eMin
      ∧ ({ defaultImage with eMax := 358399 } : ImageCal).eMax < 1400 * 256 := by decide +kernel

/-- TileMapRead: a side, a view, a first tile and a count past their ranges; the last tile; the entries of a tile at
unity and of one below it. -/
theorem witness_tile_map :
    Reaches open2 .c .readTileMap ∧ 1 < (2 : Byte).toNat ∧ 191 < (192 : Byte).toNat ∧ (191 : Byte).toNat ≤ 191
      ∧ (33 : Byte) ≠ 0 ∧ min (min (33 : Byte).toNat 32) (192 - (191 : Byte).toNat) = 1
      ∧ (open2.side .right).stats.tiles.length = 192 ∧ (open2.side .right).glare.tiles.length = 192
      ∧ (∀ t ∈ [unityTile, ⟨true, 48, 48, 48, 255⟩], t.gt ≤ 256 ∧ t.ge ≤ 256 ∧ t.ga ≤ 256 ∧ t.h ≤ 255) := by decide +kernel

/-! ### Witnesses: views and display links -/

/-- ViewGroupRequests: no side, beyond two sides, an unknown policy; both sides with each policy. -/
theorem witness_view_group :
    Reaches open2 .c .setViewOffset ∧ Reaches open2 .c .setNightPolicy ∧ Reaches open2 .c .setBrightness
      ∧ (0 : Byte).toNat = 0 ∧ 3 < (4 : Byte).toNat ∧ 2 < (3 : Byte).toNat ∧ 1 ≤ (3 : Byte).toNat
      ∧ (3 : Byte).toNat ≤ 3 := by decide +kernel

/-- A trailer at its widest angle, and an origin beside its target. -/
def swinging (x : Nat) (first : Bool) : State :=
  { resting with vehicle := { resting.vehicle with angle := some 180 }
                 right := { resetSide defaultCalibration .right with
                            view := { resetComposer defaultCalibration .right with originX := x, firstFrame := first } } }

/-- FarWindowMoves: an angle and none; the first frame and not; the origin below, at and above the target. -/
theorem witness_window :
    presentedAngle (swinging 0 false) = some 180 ∧ presentedAngle resting = none
      ∧ ((resting.side .right).view.firstFrame = true) ∧ ((swinging 0 false).side .right).view.firstFrame = false
      ∧ ((windowStep .right (swinging 0 false)).side .right).view.targetX = 960
      ∧ ((windowStep .right (swinging 0 false)).side .right).view.originX = 16
      ∧ ((windowStep .right (swinging 944 false)).side .right).view.originX = 960 := by decide +kernel

/-- A left view in a state, with a newer frame or none. -/
def withView (v : ViewState) (fresh : Bool) (start held : Nat) : State :=
  { resting with
    left := { resetSide defaultCalibration .left with
              view := { resetComposer defaultCalibration .left with
                        state := v, fresh := fresh, startCount := start, heldCount := held
                        slot := some { image := .synthetic [], number := 0 } } } }

/-- OutputStartDecides: each view state with a newer frame and none, the counts one below their limits and at them, a
VIEW_LOSS record ACTIVE and none. -/
theorem witness_output_start :
    blocksRun (withView .starting true 178 0).phase = true
      ∧ ((withView .starting true 178 0).side .left).view.fresh = true
      ∧ ((withView .starting true 178 0).side .left).view.slot.isSome = true
      ∧ ((withView .starting false 178 0).side .left).view.fresh = false
      ∧ 178 + 1 < (withView .starting false 178 0).cal.integrity.startLimit
      ∧ (withView .invalid false 179 0).cal.integrity.startLimit ≤ 179 + 1
      ∧ ((withView .live false 0 0).side .left).view.state = .live
      ∧ 0 + 1 < (withView .live false 0 0).cal.integrity.holdLimit
      ∧ ((withView .holding false 0 5).side .left).view.heldCount = 5
      ∧ (withView .holding false 0 5).cal.integrity.holdLimit ≤ 5 + 1
      ∧ ((withView .test true 0 0).side .left).view.state = .test
      ∧ ((windowStep .left (withView .test true 0 0)).side .left).view.state = .test
      ∧ viewLossActive resting.table .left = false ∧ viewLossActive threeRecords .right = true := by decide +kernel

/-- OutputFrameSent: each negotiation state and each mode, the list one below its length and at it, the level below the command and
above it. -/
theorem witness_sent :
    upLink.state = .up ∧ upLink.sent.length < 4
      ∧ (List.replicate 4 (⟨0, 0⟩ : SentFrame)).length = 4 ∧ upLink.blSent ≤ upLink.blCommand
      ∧ upLink.blCommand ≤ upLink.blSent ∧ (resetDlt defaultCalibration).state = .down
      ∧ ({ resetDlt defaultCalibration with retry := true } : Dlt).retry = true
      ∧ (resetDlt defaultCalibration).retry = false
      ∧ upLink.chosen ≠ some .m30 ∧ ({ upLink with chosen := some .m30 } : Dlt).chosen = some .m30
      ∧ NegState.offer ≠ .confirm ∧ NegState.failed ≠ .up := by decide +kernel

/-- A left display link put in place. -/
def withDlt (d : Dlt) : State := { resting with left := { resetSide defaultCalibration .left with dlt := d } }

/-- A display link in a state of negotiation, with its lock and timers. -/
def negotiating (st : NegState) (reference : Option Ability) (run : Nat) : Dlt :=
  { resetDlt defaultCalibration with
    locked := true, state := st, reference := reference, run := run, confirmed := reference
    negTimer := decide (st = .offer ∨ st = .confirm), failedTimer := decide (st = .failed) }

/-- NegotiationEvents: both lock states, UP and not, each timer running and idle. -/
theorem witness_negotiation :
    blocksRun (withDlt upLink).phase = true ∧ (resetDlt defaultCalibration).locked = false ∧ upLink.locked = true
      ∧ upLink.state = .up ∧ (negotiating .offer none 0).locked = true ∧ (negotiating .offer none 0).state ≠ .up
      ∧ (negotiating .offer none 0).negTimer = true ∧ (negotiating .failed none 0).failedTimer = true
      ∧ (negotiating .failed none 0).state = .failed ∧ upLink.negTimer = false ∧ upLink.failedTimer = false
      ∧ upLink.upDeadline = false ∧ (resetDlt defaultCalibration).upDeadline = true := by decide +kernel

/-- The word that offers both modes and signature support. -/
def wholeWord : Ability := ⟨true, true, true⟩

/-- AbilityWordTaken: each state; the reference absent, equal with a run of 1 and of 2; a word of each fault; the
confirmed word with ack and without, and another. -/
theorem witness_ability :
    wholeWord = { m60 := (0x07 : Byte).getLsbD 0, m30 := (0x07 : Byte).getLsbD 1, signature := (0x07 : Byte).getLsbD 2 }
      ∧ (negotiating .offer none 0).reference ≠ some wholeWord
      ∧ (negotiating .offer (some wholeWord) 1).run + 1 < 3 ∧ 3 ≤ (negotiating .offer (some wholeWord) 2).run + 1
      ∧ (negotiating .offer (some wholeWord) 2).reference = some wholeWord
      ∧ (0x03 : Byte).getLsbD 2 = false
      ∧ ((0x04 : Byte).getLsbD 2 = true ∧ (0x04 : Byte).getLsbD 0 = false ∧ (0x04 : Byte).getLsbD 1 = false)
      ∧ (negotiating .confirm (some wholeWord) 3).confirmed = some wholeWord
      ∧ (0x07 : Byte).getLsbD 3 = false ∧ (0x0F : Byte).getLsbD 3 = true
      ∧ (negotiating .confirm (some ⟨true, false, true⟩) 3).confirmed ≠ some wholeWord
      ∧ upLink.confirmed = some wholeWord ∧ upLink.state = .up
      ∧ (negotiating .failed none 0).state = .failed := by decide +kernel

/-- FrameReturnTaken: the first and the second entry, a tag not in the list; runs one below their limits and at them; a
flag and none; a reading at a point of the curve and past it. -/
theorem witness_return :
    blocksRun (withDlt upLink).phase = true ∧ ((withDlt upLink).side .left).dlt = upLink ∧ upLink.state = .up
      ∧ upLink.locked = true ∧ upLink.mismatchRun ≤ 255 ∧ (withDlt upLink).cal.integrity.sigLimit ≤ 255
      ∧ upLink.sent = [] ++ ⟨8, 1⟩ :: [⟨9, 2⟩] ∧ upLink.sent = [⟨8, 1⟩] ++ ⟨9, 2⟩ :: []
      ∧ (∀ e ∈ [(⟨8, 1⟩ : SentFrame)], e.tag ≠ 9) ∧ (∀ e ∈ upLink.sent, e.tag ≠ 7)
      ∧ (withDlt upLink).cal.integrity.sigLimit ≤ upLink.mismatchRun + 1 ∧ upLink.matchRun = 29
      ∧ 1 + 1 < (withDlt upLink).cal.integrity.sigLimit ∧ (withDlt upLink).cal.integrity.sigLimit ≤ 1 + 2
      ∧ ({ upLink with matchRun := 30 } : Dlt).matchRun ≠ 29
      ∧ (resetDlt defaultCalibration).state ≠ .up
      ∧ defaultCurve.Pairwise (fun p q => p.lux < q.lux) ∧ defaultCurve.head? = some ⟨0, 50⟩
      ∧ defaultCurve.getLast? = some ⟨60000, 1000⟩ ∧ defaultCurve[6]? = some ⟨20000, 950⟩
      ∧ defaultCurve[6 + 1]? = some ⟨60000, 1000⟩ := by decide +kernel

/-- 05 section 5.9: a reading of 30000 lux with a preference of 80 gives 962 and 769 in DAY. -/
theorem test_backlight_afternoon :
    curveLevel defaultCurve 30000 = 962 ∧ backlightCommand defaultImage .day 80 30000 = 769 := by decide +kernel

/-! ### Witnesses: fault table -/

/-- ReportsOnTheTable: no record of the key, an ACTIVE record marked whole, a PASSIVE one, an ACTIVE one that lacks a
mark. -/
theorem witness_reports :
    (threeRecords.records.map keyOf).Nodup ∧ (∀ r ∈ threeRecords.records, keyOf r ≠ (.linkLoss, .left))
      ∧ (threeRecords.records.map keyOf)[0]? = some (.dispLink, .right)
      ∧ (threeRecords.records.map fun r => (r.active, r.ackedBy.v, r.ackedBy.c)) =
          [(true, true, true), (false, false, false), (true, true, false)]
      ∧ severityOf .dispLink = .viewLoss ∧ severityOf .sensorTemp ≠ .viewLoss := by decide +kernel

/-- OnsetsReachViewAndRecorder: a record ACTIVE and none; each view state; codes in the trigger mask and not. -/
theorem witness_onsets :
    (findRecord threeRecords .dispLink .right).map (·.active) = some true
      ∧ (∀ r, findRecord resting.table .dispLink .right = some r → r.active = false)
      ∧ ((withView .live false 0 0).side .left).view.state = .live
      ∧ ((withView .test false 0 0).side .left).view.state = .test
      ∧ inTriggerMask resting.cal .monitorFault = true ∧ inTriggerMask resting.cal .seqError = false
      ∧ severityOf .monitorFault = .viewLoss ∧ severityOf .seqError ≠ .viewLoss := by
  refine ⟨by decide +kernel, fun r h => (by cases h), ?_⟩
  decide +kernel

/-- A calibration whose trigger mask holds every code it can. -/
def allTriggers : State :=
  { resting with store := { resting.store with
                            cal := { defaultCalibration with capture := { defaultCapture with triggerMask := 0x1FFF } } } }

/-- OnsetsReachViewAndRecorder, the COMMON codes: a condition and an event, in the mask and not. -/
theorem witness_common_onsets :
    sideAllowed .calDefaults .common = true ∧ isEvent .calDefaults = false
      ∧ (∀ r, findRecord allTriggers.table .calDefaults .common = some r → r.active = false)
      ∧ sideAllowed .calProgramFail .common = true ∧ isEvent .calProgramFail = true
      ∧ inTriggerMask allTriggers.cal .calDefaults = true ∧ inTriggerMask allTriggers.cal .calProgramFail = true
      ∧ inTriggerMask resting.cal .calDefaults = false ∧ inTriggerMask allTriggers.cal .captureLost = false := by
  refine ⟨rfl, rfl, fun r h => (by cases h), ?_⟩
  decide +kernel

/-- FaultRecordsRead: the last record and the position past it; each refused key; a record of 255 onsets. -/
theorem witness_fault_reads :
    TableSound threeRecords ∧ (open2.port .c).txn = .onReady ∧ threeRecords.records.length ≤ (3 : Byte).toNat
      ∧ (threeRecords.records[(2 : Byte).toNat]?).isSome = true
      ∧ (threeRecords.records.map fun r => (faultCodeNumber r.code, faultSideNumber r.side)) = [(3, 1), (7, 0), (9, 0)]
      ∧ sideAllowed .captureLost .common = true ∧ (13 : Byte).toNat = faultCodeNumber .captureLost
      ∧ 13 < (14 : Byte).toNat ∧ 2 < (3 : Byte).toNat ∧ ((9 : Byte).toNat < 10 ∧ (2 : Byte).toNat = 2)
      ∧ (10 ≤ (10 : Byte).toNat ∧ (1 : Byte).toNat < 2) := by
  refine ⟨⟨by decide +kernel, by decide +kernel⟩, ?_⟩
  decide +kernel

/-- The PASSIVE record of threeRecords marked by V: complete, since its audience is V alone. -/
def lineCrcMarked : FaultRecord :=
  { code := .lineCrc, side := .left, active := false, firstRaise := ⟨0, 6⟩, lastRaise := ⟨0, 6⟩
    lastClear := some ⟨0, 8⟩, onsets := 1, detail := 33, ackedBy := ⟨true, false⟩ }

/-- AcknowledgementsMarkAndRemove: a mark that completes, one that is there already, a key without a record. -/
theorem witness_acks :
    TableSound threeRecords ∧ (open2.port .c).txn = .onReady ∧ (open2.port .v).txn = .onReady
      ∧ complete lineCrcMarked = true ∧ complete { lineCrcMarked with active := true } = false
      ∧ (threeRecords.records[1]?).map (fun r => { r with ackedBy := { r.ackedBy with v := true } }) = some lineCrcMarked
      ∧ (threeRecords.records[2]?).map (fun r => { r with ackedBy := { r.ackedBy with v := true } })
          = threeRecords.records[2]?
      ∧ severityOf .lineCrc ≠ .viewLoss ∧ (∀ r ∈ threeRecords.records, keyOf r ≠ (.captureLost, .common)) := by
  refine ⟨⟨by decide +kernel, by decide +kernel⟩, ?_⟩
  decide +kernel

/-! ### Witnesses: incident recorder -/

/-- TriggersTakenByState: each state, each class, CROSS_LINK ON and OFF, four codes seen, a CROSS trigger on its way. -/
theorem witness_triggers :
    (inState .stopped 0).state = .stopped ∧ allFrozen.state = .full ∧ (inState .filling 0).state = .filling
      ∧ (inState .armed 180).state = .armed ∧ (inState .armed 180).crossLink = true
      ∧ ({ inState .armed 180 with crossLink := false } : Recorder).crossLink = false
      ∧ lastWrite.state = .post ∧ lastWrite.current = some underWay ∧ underWay.faultCodes.length = 4
      ∧ FaultCode.monitorFault ∉ underWay.seen ∧ FaultCode.linkLoss ∈ underWay.seen
      ∧ (True ↔ Trigger.eventIn = .masterV ∨ Trigger.eventIn = .masterC ∨ Trigger.eventIn = .eventIn)
      ∧ (False ↔ Trigger.cross = .masterV ∨ Trigger.cross = .masterC ∨ Trigger.cross = .eventIn)
      ∧ blocksRun resting.phase = true ∧ (resting.side .left).recorder.crossIncoming = 0
      ∧ 0 < ({ lastWrite with crossIncoming := 1 } : Recorder).crossIncoming := by decide +kernel

/-- OutsideTriggersHanded: the line low and high, running and not; no side, one side, both sides, beyond. -/
theorem witness_outside :
    State.reset.eventIn = false ∧ blocksRun State.reset.phase = true ∧ held.eventIn = false ∧ blocksRun held.phase = false
      ∧ ({ State.reset with eventIn := true } : State).eventIn = true ∧ Reaches open2 .c .triggerCapture
      ∧ (0 : Byte).toNat = 0 ∧ 3 < (4 : Byte).toNat ∧ (2 : Byte).toNat = sideNumber .right + 1 := by decide +kernel

/-- DigestsTakenByState, the pending set: accepted at NPRE, and at a completion that goes on in the next buffer. -/
theorem witness_digest_pending :
    RecorderSound { inState .filling 179 with waiting := { noSources with eventIn := true } }
      ∧ RecorderSound { lastWrite with waiting := { noSources with masterC := true } }
      ∧ noSource { noSources with masterC := true } = false
      ∧ (sourceList lastBuffer.waiting).Perm (sourceList lastBuffer.waiting) :=
  ⟨by decide +kernel, by decide +kernel, rfl, .refl _⟩

/-- DigestsTakenByState: each state; the fill count one below NPRE and before; the last write of a capture, kept in the
last buffer and in another, with pending triggers and without, and the one before. -/
theorem witness_digest :
    RecorderSound (inState .stopped 0) ∧ RecorderSound allFrozen ∧ RecorderSound (inState .armed 180)
      ∧ RecorderSound (inState .filling 179) ∧ (inState .filling 179).npre ≤ 179 + 1
      ∧ (inState .filling 178).fill + 1 < (inState .filling 178).npre ∧ RecorderSound lastWrite
      ∧ lastWrite.post = 1 ∧ lastWrite.current = some underWay ∧ noSource lastWrite.waiting = true
      ∧ lastWrite.frozen + 1 < bufferCount lastWrite ∧ RecorderSound lastBuffer
      ∧ lastBuffer.frozen + 1 = bufferCount lastBuffer ∧ noSource lastBuffer.waiting = false ∧ lastBuffer.post = 1
      ∧ 1 < ({ lastWrite with post := 2 } : Recorder).post ∧ hasBypass underWay.sources = false
      ∧ presentedPermission resting = true
      ∧ presentedPermission { resting with vehicle := { resting.vehicle with permitted := some false } } = false :=
  ⟨by decide +kernel, by decide +kernel, by decide +kernel, by decide +kernel, by decide +kernel, by decide +kernel,
    by decide +kernel, rfl, rfl, rfl, by decide +kernel, by decide +kernel, by decide +kernel, rfl, rfl,
    by decide +kernel, rfl, rfl, rfl⟩

/-- CapturesReadAndReleased: no header and one; the last slot and one past it; a cursor at its end; FULL and not. -/
theorem witness_readout :
    (inState .armed 180).headers = [] ∧ lastWrite.headers = someCapture :: []
      ∧ lastWrite.size ≤ ((0x01 : Byte) ++ (0x00 : Byte)).toNat ∧ ((0x00 : Byte) ++ (0xFF : Byte)).toNat < lastWrite.size
      ∧ 255 < lastWrite.size ∧ lastWrite.size ≤ 1024 ∧ lastWrite.cursorV = 255 ∧ allFrozen.state = .full
      ∧ (open2.port .v).txn = .onReady ∧ authorised open2 .v .releaseCapture = true
      ∧ (slotRead lastWrite.slots (7 * 256 + (255 + 1 + 255) % 256)).isSome = true
      ∧ slotRead lastWrite.slots (7 * 256 + (255 + 1 + 0) % 256) = none ∧ (0xFF : Byte) = someCapture.seq
      ∧ (0 : Byte) ≠ someCapture.seq := by decide +kernel

/-- RecorderControlled: each action and one beyond; STOPPED with a free buffer and with none; S as running, another of
the four, and none of them; CROSS_LINK beyond its values. -/
theorem witness_control :
    (open2.port .v).txn = .onReady ∧ authorised open2 .v .captureControl = true
      ∧ authorised open2 .v .setCaptureParams = true ∧ authorised open2 .v .clearCapture = true
      ∧ 1 < (2 : Byte).toNat ∧ hasActiveBuffer (inState .armed 180) = true
      ∧ ({ allFrozen with state := .stopped } : Recorder).frozen = bufferCount { allFrozen with state := .stopped }
      ∧ (inState .stopped 0).frozen < bufferCount (inState .stopped 0)
      ∧ ((0x01 : Byte) ++ (0x00 : Byte)).toNat = (inState .stopped 0).size
      ∧ ((0x04 : Byte) ++ (0x00 : Byte)).toNat ∈ [128, 256, 512, 1024]
      ∧ ((0x00 : Byte) ++ (0x40 : Byte)).toNat ∉ [128, 256, 512, 1024] := by decide +kernel

theorem witness_control_sound :
    RecorderSound { allFrozen with state := .stopped } ∧ RecorderSound (inState .armed 180) :=
  ⟨by decide +kernel, by decide +kernel⟩

/-! ### Witnesses: calibration store -/

/-- StagingAndReading: the last byte of a region and one past it; a source, a region and a count past their ranges. -/
theorem witness_staging :
    (open2.port .v).txn = .onReady ∧ ImagesSound open2.store ∧ authorised open2 .v .calStage = true
      ∧ authorised open2 .v .calDiscard = true ∧ open2.store.programming = none ∧ 4 < (5 : Byte).toNat
      ∧ (4 : Byte).toNat = regionNumber .access
      ∧ ((0 : Byte) ++ (6 : Byte)).toNat + ([0] : List Byte).length ≤ regionLength .access
      ∧ regionLength .access < ((0 : Byte) ++ (7 : Byte)).toNat + ([0] : List Byte).length
      ∧ regionLength .access ≤ ((0 : Byte) ++ (7 : Byte)).toNat ∧ (List.replicate 236 (0 : Byte)).length ≤ 236
      ∧ 1 < (2 : Byte).toNat ∧ min (min (225 : Byte).toNat 224) (regionLength .image - 0) = 224 := by decide +kernel

/-- ProtectionAndProgramming: BUSY, its window expiring with idle ports too; a lowering within the window, after it and after another; a mask beyond the five;
SUPPLY_OK low and high, at rest and not; regions with staged changes and without. -/
theorem witness_programming :
    SupplySound programming ∧ blocksRun programming.phase = true ∧ blocksRun State.reset.phase = true
      ∧ programming.store.programming.isSome = true ∧ (programming.port .v).txn = .onReady
      ∧ authorised programming .v .calProtect = true ∧ lengthOk .calProtect 1 = true
      ∧ resting.store.programming = none ∧ (resting.port .v).txn = .onReady ∧ authorised resting .v .calProgram = true
      ∧ presentedSpeed resting = some 0 ∧ presentedSpeed open2 ≠ some 0 ∧ 31 < (32 : Byte).toNat
      ∧ perRegionGet resting.store.mask .access = true ∧ (0x0F : Byte).getLsbD (regionNumber .access) = false
      ∧ resting.store.window = true ∧ resting.store.lowered = false := by decide +kernel

/-- The same: a store whose GEOMETRY has staged changes, and one without any. -/
theorem witness_staged :
    stagedChange { defaultStore with staging := { defaultStore.staging with geometry := [] } } .geometry = true
      ∧ ∀ r, stagedChange defaultStore r = false := by
  refine ⟨by decide +kernel, fun r => ?_⟩
  have h : checksumOk (perRegionGet defaultStore.stored r) = true := by cases r <;> exact withChecksum_ok _
  have same : perRegionGet defaultStore.staging r = (perRegionGet defaultStore.stored r).items := by cases r <;> rfl
  unfold stagedChange
  rw [h, same]
  simp

/-- ProgrammingPeriodEnds: no period; a period with a region that verifies, one that fails, and one not programmed. -/
theorem witness_period :
    resting.store.programming = none ∧ blocksRun programming.phase = true
      ∧ programming.store.programming = some ⟨true, false, false, false, false⟩
      ∧ (∀ r ∈ regions, perRegionGet (⟨true, false, false, false, false⟩ : RegionSet) r
          = (perRegionGet (⟨true, true, true, true, true⟩ : RegionSet) r
              && perRegionGet (⟨true, false, false, false, false⟩ : RegionSet) r))
      ∧ (∀ r ∈ regions, perRegionGet (⟨false, false, false, false, false⟩ : RegionSet) r
          = (perRegionGet (⟨false, true, true, true, true⟩ : RegionSet) r
              && perRegionGet (⟨true, false, false, false, false⟩ : RegionSet) r)) := by
  refine ⟨rfl, rfl, rfl, ?_⟩
  decide +kernel

/-- EventsDiscarded: a reset that waits for its load, one whose load runs, and a part that runs. -/
theorem witness_no_events :
    blocksRun held.phase = false ∧ blocksRun restartingState.phase = false
      ∧ blocksRun ({ held with phase := .loading } : State).phase = false ∧ resting.phase = .running :=
  ⟨rfl, rfl, rfl, rfl⟩

/-! ### Witnesses: invariants -/

/-- TableAndViewsStaySound, RecordersStaySound, SideBlocksStaySound, StoreAndAgeStaySound: a state in the middle of its
work has them, and answers a next state. -/
theorem witness_mid_work :
    TableSound midWork.table ∧ (∀ sd, ViewSound midWork sd ∧ TestSound midWork sd)
      ∧ CaptureSound midWork.cal.capture.size midWork.cal.capture.npre
      ∧ (∀ sd, RecorderSound (midWork.side sd).recorder)
      ∧ (∀ sd, ClrSound (midWork.side sd).clr ∧ DaySound (midWork.side sd) ∧ WindowSound (midWork.side sd).view
          ∧ DltSound (midWork.side sd).dlt)
      ∧ AgeSound midWork ∧ ImagesSound midWork.store ∧ SupplySound midWork
      ∧ ∃ t, step { midWork with pending := [.eventInFall] } = .next t := by
  refine ⟨⟨by decide +kernel, by decide +kernel⟩, both_sides (by decide +kernel), by decide +kernel, ?_, ?_,
    by decide +kernel, by decide +kernel, by decide +kernel, ⟨_, rfl⟩⟩
  · intro sd
    cases sd <;> decide +kernel
  · intro sd
    cases sd
    · refine ⟨by decide +kernel, fun h => (by cases h), by decide +kernel, by decide +kernel⟩
    · refine ⟨by decide +kernel, fun _ t h => ?_, by decide +kernel, by decide +kernel⟩
      rw [List.eq_of_mem_replicate h]
      decide

/-! ### One step, against the worked sequences of the chapters -/

/-- What a command leaves of one part of the state. -/
def after {α : Type} (c : Instr) (s : State) (f : State → α) : Option α :=
  match exec c s with
  | .next t => some (f t)
  | _ => none

/-- Status and payload of the reply in the making at a port. -/
def replyOf (p : Port) (s : State) : Option (Status × List Byte) :=
  match (s.port p).slot with
  | .preparing (some r) => some (r.status, r.payload)
  | _ => none

/-- 02 section 2.10: frames 5000 to 5003. -/
theorem test_exposure_correction :
    sceneLevel 600 19200 = 2048 ∧ requestedExposure defaultImage 602 19200 = 38272
      ∧ requestedExposure defaultImage 598 19200 = 38400 ∧ inDeadBand defaultImage 1181 = true
      ∧ sceneLevel 1181 37800 = 2047 ∧ sceneLevel 220 358400 = 40 := by decide +kernel

/-- 03 section 3.10, frame 1: the targets of tiles A, B, C and D. -/
theorem test_glare_targets :
    [(3900, 180), (2400, 30), (1700, 40), (4095, 3100)].map
        (fun p => targetGain defaultImage 220 { mean := 0, peak := p.1, bright := p.2 }) = [48, 95, 256, 256] := by
  decide +kernel

/-- 03 section 3.10: attack, partial release and hold of tiles A, C and B. -/
theorem test_glare_filter :
    filterTile defaultImage 48 256 0 = (152, 6) ∧ filterTile defaultImage 152 165 6 = (158, 6)
      ∧ filterTile defaultImage 134 48 6 = (52, 6) ∧ filterTile defaultImage 256 95 6 = (95, 5)
      ∧ filterTile defaultImage 256 95 0 = (99, 0) := by decide +kernel

/-- 03 section 3.10, the pixels at frame 8. -/
theorem test_glare_pixels :
    let ga := (((List.replicate 192 256).set 83 48).set 84 152).set 99 152
    pixelGain ga 420 660 = 48 ∧ pixelGain ga 480 660 = 100 ∧ pixelGain ga 421 661 = 50
      ∧ codeOf (compress 1024 3900 48) = 158 ∧ codeOf (compress 1024 2600 100) = 161
      ∧ codeOf (compress 1024 600 48) = 97 := by decide +kernel

/-- 04 section 4.9: the right origin at output frame 1 with a = +30, and the clamped target at a = +180. -/
theorem test_trailer_swing :
    let x := { resetComposer defaultCalibration .right with originX := 280, driverDx := 40, firstFrame := false }
    let y := stepWindow defaultCalibration .right (some 30) false x
    let z := stepWindow defaultCalibration .right (some 180) true x
    (y.trailer, y.targetX, y.originX, y.panLimited) = (120, 400, 296, false)
      ∧ (z.targetX, z.targetY, z.originY, z.panLimited) = (960, 540, 376, true) := by decide +kernel

/-- 05 section 5.8: the return of 42 with 41 and 42 listed. -/
theorem test_lost_return :
    after (.frameReturn .left 42 7 0 0 0)
        (withDlt { upLink with sent := [⟨41, 6⟩, ⟨42, 7⟩], mismatchRun := 0, matchRun := 30 })
        (fun t => (t.left.dlt.sent, t.left.dlt.mismatchRun, t.left.dlt.matchRun, t.left.dlt.sigMismatches))
      = some ([], 0, 1, 1) := by decide +kernel

/-- 05 section 5.7: the fifth word is examined. -/
theorem test_third_equal_word :
    after (.monitorAbilityWord .left 0x07) (withDlt (negotiating .offer (some wholeWord) 2))
        (fun t => (t.left.dlt.state, t.left.dlt.negTimer)) = some (.confirm, true) := by decide +kernel

/-- 06 section 6.5, at 280 ms: speed 300 and angle -200, the two booleans absent. -/
theorem test_clamped_vehicle_state :
    let c : Instr := .setVehicleState .v 1 [0x03, 0x01, 0x2C, 0xFF, 0x38, 0, 0]
    after c open2 (fun t => (t.vehicle.speed, t.vehicle.angle)) = some (some 250, some (-180))
      ∧ after c open2 (fun t => (t.vehicle.reverse, t.vehicle.permitted)) = some (none, none)
      ∧ after c open2 (fun t => replyOf .v t) = some (some (.okClamped, [])) := by
  refine ⟨?_, ?_, ?_⟩ <;> decide +kernel

/-- 06 section 6.5, at 700 ms. -/
theorem test_set_time :
    after (.setTime .v 0 [0x05, 0x26, 0x5C, 0x00]) { open2 with time := ⟨0, 700⟩ } (fun t => (t.time, replyOf .v t))
      = some (⟨1, 86400000⟩, some (.ok, [0, 0, 0, 2, 188, 1])) := by decide +kernel

/-- 07 section 7.9, step 11: the clear of a record marked whole. -/
theorem test_clear_removes :
    tableClear { records := [{ lineCrcMarked with active := true }], generation := 422 } .lineCrc .left ⟨3, 11500⟩
      = { records := [], generation := 424 } := by decide +kernel

/-- 07 section 7.9, step 5: Port C acknowledges LINE_CRC. -/
theorem test_ack_outside_audience :
    after (.ackFault .c 0 [7, 0]) { open2 with table := threeRecords } (fun t => (t.table, replyOf .c t))
      = some (threeRecords, some (.refusedAuthority, [])) := by decide +kernel

/-- 07 section 7.10: LINK_LOSS marked whole leaves, SEQ_ERROR stays PASSIVE, and the generation rises by 3. -/
theorem test_passivation :
    let r : FaultRecord := { lineCrcMarked with code := .linkLoss, active := true, ackedBy := ⟨true, true⟩ }
    let q : FaultRecord := { lineCrcMarked with code := .seqError, active := true, ackedBy := ⟨false, false⟩ }
    passivate { records := [r, q], generation := 7000 } ⟨5, 20000⟩
      = { records := [{ q with active := false, lastClear := some ⟨5, 20000⟩ }], generation := 7003 } := by decide +kernel

/-- 08 section 8.10, step 1: a FAULT trigger in ARMED, with CROSS_LINK ON. -/
theorem test_trigger_accepted :
    let s := takeTrigger .left (.fault .dispSignature) (resting.modRec .left fun _ => inState .armed 180)
    (s.left.recorder.state, s.left.recorder.post, s.left.recorder.current.map (·.faultCodes),
        s.right.recorder.crossIncoming) = (.post, 76, some [.dispSignature], 1) := by decide +kernel

/-- 08 section 8.11, release first: the head freed in POST, the queue empty. -/
theorem test_release_in_post :
    let r := releaseHead { lastBuffer with rp := 0, headers := [{ someCapture with seq := 9, buffer := 0 }] }
    (r.state, r.rp, r.frozen, r.headers, r.post) = (.post, 1, 0, [], 1) := by decide +kernel

/-- 09 section 9.10: a difference of 72000. -/
theorem test_saturated_delta : deltaOf 72000 = 65535 ∧ saturates 72000 = true ∧ saturates 65535 = false := by decide

/-- 09 section 9.9, T7: three bytes of a NO_OPERATION with tag 5. -/
theorem test_short_frame :
    after (.badFrame .c [0x00, 0x05, 0x00]) open2 (fun t => (t.portC.slot, t.portC.txn))
      = some (.preparing (some { status := .badFrame, code := 0, tag := 5, payload := [2] }), .none) := by decide +kernel

/-- 10 section 10.7, at 600 ms and at 900 ms: one lowering, and no second. -/
theorem test_one_lowering :
    after (.calProtect .v 0 [0x10]) open2 (fun t => (regionBits t.store.mask, t.store.lowered, replyOf .v t))
        = some (0x10, true, some (.ok, [0x10]))
      ∧ after (.calProtect .v 0 [0x00]) { open2 with store := { open2.store with lowered := true } }
          (fun t => (regionBits t.store.mask, replyOf .v t)) = some (0x14, some (.refusedState, [])) := by decide +kernel

/-- R20: a camera frame that was accepted before ON and comes to stage 3 in TEST issues no command; the same frame of a
side in no test does. -/
theorem test_no_command_in_test :
    let s := fun flag => inStage .exposure |>.modSide .left fun x =>
      { x with testFlag := flag, running := some { frame := { cameraFrame with tRep := 600, gRep := 32 }
                                                   next := .exposure, command := none } }
    let issued := fun t : State => t.left.running.map (·.command.isSome)
    issued (runStages .left 1 (s true)) = some false ∧ issued (runStages .left 1 (s false)) = some true := by
  decide +kernel

/-- R55, R62 with 03 section 3.7: a READ_TILE_MAP between stages of an operation finds the map that the stages so far
left, and the operation goes on where it stood. -/
theorem test_request_between_stages :
    after (.frameCompletion .left) (paused [1] (inStage .dayNight)) (fun t => t.left.running.map (·.next))
        = some (some .digest)
      ∧ after (.readTileMap .v 0 [0, 0, 0, 1]) (inStage .dayNight)
          (fun t => ((replyOf .v t).map (·.1), t.left.running.map (·.next))) = some (some .ok, some .dayNight) := by
  refine ⟨?_, ?_⟩ <;> decide +kernel

/-- R174, R165: after RESET_N has risen and before step 7 a transaction is sent NOT_READY with code and tag 0. -/
theorem test_not_ready_while_loading :
    let s := { slotOf (.preparing none) .loading with store := State.reset.store }
    after (.chipSelectFall .v) s (fun t => (t.portV.shiftOut, t.portV.txn))
        = some ([0, 0x21, 0, 0, crc8 [0, 0x21, 0, 0]], .onPreparing)
      ∧ after (.chipSelectFall .v) { s with phase := .resetHeld } (fun t => (t.portV.shiftOut, t.portV.txn))
          = some ([], .cut) := by
  refine ⟨?_, ?_⟩ <;> decide +kernel

/-- R102 step 5, R103: a request taken before the expiry cancels it. -/
theorem test_expiry_cancelled :
    let fresh := { resting with vehicle := { resting.vehicle with age := 0 } }
    after .vehicleStateExpiry fresh (fun t => (t.vehicle.age, t.table.records.length)) = some (0, 0)
      ∧ after .vehicleStateExpiry resting (fun t => (t.vehicle.age, t.table.records.map (·.code)))
          = some (300, [.vehicleStale]) := by
  refine ⟨?_, ?_⟩ <;> decide +kernel

/-- R86: in DOWN nothing is sent, from the loss of lock on. -/
theorem test_nothing_sent_in_down :
    after (.backChannelLockLost .left) (withDlt { negotiating .offer none 0 with forward := .abilityWord false })
        (fun t => (t.left.dlt.state, t.left.dlt.forward)) = some (.down, .nothing) := by decide +kernel
end Sys2Proof.Tests
end

/-! PROOF. Stage 4 (R39 to R41, R52) as one function of the controller, and O29 from it. -/

namespace Sys2Proof.Machine

/-- The controller that policy AUTO leaves after a camera frame (R39). -/
def autoDecision (k : ImageCal) (x : Exposure) : Exposure :=
  match x.dayNight with
  | .day =>
    if k.nightEnter ≤ x.l then { x with nightRun := 0 }
    else if x.nightRun + 1 < k.nightFrames then { x with nightRun := x.nightRun + 1 }
    else { x with dayNight := .night, nightRun := 0, dayRun := 0 }
  | .night =>
    if x.l ≤ k.nightExit then { x with dayRun := 0 }
    else if x.dayRun + 1 < k.dayFrames then { x with dayRun := x.dayRun + 1 }
    else { x with dayNight := .day, nightRun := 0, dayRun := 0 }

/-- The controller that stage 4 leaves, by its policy and the kind of the frame (R39, R41). -/
def dayNightDecision (k : ImageCal) (camera : Bool) (x : Exposure) : Exposure :=
  match x.policy with
  | .forceDay => { x with dayNight := .day }
  | .forceNight => { x with dayNight := .night }
  | .auto => if camera then autoDecision k x else x

theorem autoDecision_day (k : ImageCal) (x : Exposure) (h : x.dayNight = .day) :
    autoDecision k x = if k.nightEnter ≤ x.l then { x with nightRun := 0 }
      else if x.nightRun + 1 < k.nightFrames then { x with nightRun := x.nightRun + 1 }
      else { x with dayNight := .night, nightRun := 0, dayRun := 0 } := by simp only [autoDecision, h]

theorem autoDecision_night (k : ImageCal) (x : Exposure) (h : x.dayNight = .night) :
    autoDecision k x = if x.l ≤ k.nightExit then { x with dayRun := 0 }
      else if x.dayRun + 1 < k.dayFrames then { x with dayRun := x.dayRun + 1 }
      else { x with dayNight := .day, nightRun := 0, dayRun := 0 } := by simp only [autoDecision, h]

theorem dayNightDecision_forceDay (k : ImageCal) (camera : Bool) (x : Exposure) (h : x.policy = .forceDay) :
    dayNightDecision k camera x = { x with dayNight := .day } := by simp only [dayNightDecision, h]

theorem dayNightDecision_forceNight (k : ImageCal) (camera : Bool) (x : Exposure) (h : x.policy = .forceNight) :
    dayNightDecision k camera x = { x with dayNight := .night } := by simp only [dayNightDecision, h]

theorem dayNightDecision_synthetic (k : ImageCal) (x : Exposure) (h : x.policy = .auto) :
    dayNightDecision k false x = x := by simp [dayNightDecision, h]

theorem dayNightDecision_camera (k : ImageCal) (x : Exposure) (h : x.policy = .auto) :
    dayNightDecision k true x = autoDecision k x := by simp [dayNightDecision, h]

/-- A decision of stage 4 taken: where the mode changes, the map and the notice of Port C follow it (R40, R52). -/
def takeDecision (sd : Side) (y : Exposure) (s : State) : State :=
  if y.dayNight = (s.side sd).expo.dayNight then s.modExpo sd fun _ => y
  else (s.modSide sd fun z => { z with expo := y, glare := if y.dayNight = .day then unityMap else z.glare }).modPort
    .c fun p => { p with notices := { p.notices with night := true } }

theorem takeDecision_same (s : State) (sd : Side) (y : Exposure) (h : y.dayNight = (s.side sd).expo.dayNight) :
    takeDecision sd y s = s.modExpo sd fun _ => y := if_pos h

theorem takeDecision_change (s : State) (sd : Side) (y : Exposure) (h : y.dayNight ≠ (s.side sd).expo.dayNight) :
    takeDecision sd y s
      = (s.modSide sd fun z => { z with expo := y, glare := if y.dayNight = .day then unityMap else z.glare }).modPort
          .c fun p => { p with notices := { p.notices with night := true } } := if_neg h

/-- A change of the controller that keeps the mode is a decision taken. -/
theorem modExpo_eq_takeDecision (s : State) (sd : Side) (f : Exposure → Exposure)
    (h : (f (s.side sd).expo).dayNight = (s.side sd).expo.dayNight) :
    s.modExpo sd f = takeDecision sd (f (s.side sd).expo) s := by
  rw [takeDecision_same s sd _ h]
  rfl

/-- A decision for the controller as it stands changes nothing. -/
theorem takeDecision_self (s : State) (sd : Side) : takeDecision sd (s.side sd).expo s = s := by
  rw [takeDecision_same s sd _ rfl]
  exact modSide_self s sd _ rfl

@[simp] theorem takeDecision_expo (s : State) (sd : Side) (y : Exposure) :
    ((takeDecision sd y s).side sd).expo = y := by
  unfold takeDecision
  split <;> simp

/-- R40: a change of the mode is a decision taken, whatever was made of the runs before it. -/
theorem changeMode_modExpo (s : State) (sd : Side) (m : DayNight) (f : Exposure → Exposure)
    (h : m ≠ (s.side sd).expo.dayNight) :
    changeMode sd m (s.modExpo sd f) = takeDecision sd { f (s.side sd).expo with dayNight := m } s := by
  rw [takeDecision_change s sd _ h]
  cases m <;> cases sd <;> rfl

theorem forceMode_eq (s : State) (sd : Side) (m : DayNight) :
    forceMode sd m s = takeDecision sd { (s.side sd).expo with dayNight := m } s := by
  unfold forceMode
  split
  next h => rw [← h, takeDecision_self]
  next h =>
    have hs : s.modExpo sd id = s := modSide_self s sd _ rfl
    calc changeMode sd m s = changeMode sd m (s.modExpo sd id) := by rw [hs]
      _ = _ := changeMode_modExpo s sd m id (Ne.symm h)

theorem autoDayNight_eq (s : State) (sd : Side) :
    autoDayNight sd s = takeDecision sd (autoDecision s.cal.image (s.side sd).expo) s := by
  unfold autoDayNight
  dsimp only
  split
  next hd =>
    rw [autoDecision_day _ _ hd]
    simp only [← not_le, ite_not]
    split
    next => exact modExpo_eq_takeDecision s sd _ rfl
    next =>
      split
      next => exact changeMode_modExpo s sd .night _ (by simp [hd])
      next => exact modExpo_eq_takeDecision s sd _ rfl
  next hd =>
    rw [autoDecision_night _ _ hd]
    simp only [← not_le, ite_not]
    split
    next => exact modExpo_eq_takeDecision s sd _ rfl
    next =>
      split
      next => exact changeMode_modExpo s sd .day _ (by simp [hd])
      next => exact modExpo_eq_takeDecision s sd _ rfl

/-- What stage 4 does (R39, R41): the decision taken. -/
theorem stageDayNight_eq (s : State) (sd : Side) (f : AcceptedFrame) (camera : Bool)
    (hc : camera = true ↔ ∃ rows, f.image = .camera rows) :
    stageDayNight sd f s = takeDecision sd (dayNightDecision s.cal.image camera (s.side sd).expo) s := by
  unfold stageDayNight
  split
  next hp => rw [dayNightDecision_forceDay _ _ _ hp, forceMode_eq]
  next hp => rw [dayNightDecision_forceNight _ _ _ hp, forceMode_eq]
  next hp =>
    split
    next hi =>
      obtain rfl : camera = false := by simpa [hi] using hc
      rw [dayNightDecision_synthetic _ _ hp, takeDecision_self]
    next rows hi =>
      obtain rfl : camera = true := hc.2 ⟨rows, hi⟩
      rw [dayNightDecision_camera _ _ hp, autoDayNight_eq]

/-- Settles O29: stage 4 takes one decision, and each clause reads it off. -/
theorem dayNightDecided : Obligations.DayNightDecided := by
  intro s t sd f x y k camera hx ht hy hk hc
  have htd : t = takeDecision sd (dayNightDecision k camera x) s := by
    rw [ht, stageDayNight_eq s sd f camera hc, hx, hk]
  have hyd : y = dayNightDecision k camera x := by rw [hy, htd, takeDecision_expo]
  refine ⟨?forceDay, ?forceNight, ?synthetic, ?day, ?night, ?kept, ?changed⟩
  case forceDay => exact fun hp => hyd.trans (dayNightDecision_forceDay k camera x hp)
  case forceNight => exact fun hp => hyd.trans (dayNightDecision_forceNight k camera x hp)
  case synthetic => rintro hp rfl; rw [htd, dayNightDecision_synthetic k x hp, hx, takeDecision_self]
  case day => rintro hp rfl hd; rw [hyd, dayNightDecision_camera k x hp, autoDecision_day k x hd]
  case night => rintro hp rfl hd; rw [hyd, dayNightDecision_camera k x hp, autoDecision_night k x hd]
  case kept => intro h; rw [htd, ← hyd]; exact takeDecision_same s sd y (hx ▸ h)
  case changed => intro h; rw [htd, ← hyd]; exact takeDecision_change s sd y (hx ▸ h)

end Sys2Proof.Machine

/-! PROOF. The parameters of SET_EXPOSURE_MODE (R182), what each mode makes of a side (R34), and O34 from them. -/

namespace Sys2Proof.Machine

/-! ### Parameters -/

/-- Two bytes of a frame and the 16-bit word that they form hold the same number (11 intro). -/
theorem natOfBytes_pair (a b : Byte) : natOfBytes [a, b] = (a ++ b).toNat := by
  rw [natOfBytes_cons, natOfBytes_cons, BitVec.toNat_append, ← Nat.shiftLeft_add_eq_or_of_lt b.isLt, Nat.shiftLeft_eq]
  simp [natOfBytes]

theorem sidesOfParam_eq_none {v : Nat} (h : v = 0 ∨ 3 < v) : sidesOfParam v = none := by
  unfold sidesOfParam
  split
  case h_4 => rfl
  all_goals omega

theorem exposureModeOfParam_eq_none {v : Nat} (h : 2 < v) : exposureModeOfParam v = none := by
  unfold exposureModeOfParam
  split
  case h_4 => rfl
  all_goals omega

/-- The controllers changed on the sides of a side set (11 section 11.2). -/
def modExpoOn (sides : Byte) (f : Exposure → Exposure) (s : State) : State :=
  { s with left := if sides.getLsbD 0 then { s.left with expo := f s.left.expo } else s.left
           right := if sides.getLsbD 1 then { s.right with expo := f s.right.expo } else s.right }

/-- A valid side set names the sides of its bits. -/
theorem sidesOfParam_modExpo (sides : Byte) (h1 : 1 ≤ sides.toNat) (h3 : sides.toNat ≤ 3) :
    ∃ l, sidesOfParam sides.toNat = some l
      ∧ ∀ f s, l.foldl (fun s sd => s.modExpo sd f) s = modExpoOn sides f s := by
  have hs : sides = 1 ∨ sides = 2 ∨ sides = 3 := by bv_omega
  obtain rfl | rfl | rfl := hs
  · exact ⟨[.left], rfl, fun _ _ => rfl⟩
  · exact ⟨[.right], rfl, fun _ _ => rfl⟩
  · exact ⟨[.left, .right], rfl, fun _ _ => rfl⟩

/-! ### The manual pair (R34 step 2) -/

theorem clampNat_eq (x a b : Nat) (h : a ≤ b) : clampNat x a b = max a (min x b) := by
  unfold clampNat
  split_ifs <;> omega

/-- The pair as a split of the product clamped, or as clamped where the product is in range. -/
theorem manualPair_cases (k : ImageCal) (tSent gSent t g : Nat) (hk : 1 ≤ k.tMax)
    (ht : t = max 1 (min tSent k.tMax)) (hg : g = max 16 (min gSent 256)) :
    (k.eMin ≤ t * g ∧ t * g ≤ k.eMax → manualPair k tSent gSent = (t, g))
      ∧ (t * g < k.eMin → manualPair k tSent gSent = splitExposure k k.eMin)
      ∧ (k.eMin ≤ t * g → k.eMax < t * g → k.eMin ≤ k.eMax → manualPair k tSent gSent = splitExposure k k.eMax) := by
  unfold manualPair
  rw [clampNat_eq _ _ _ hk, clampNat_eq gSent _ _ (by decide), ← ht, ← hg]
  dsimp only
  refine ⟨fun h => if_neg (by omega), fun hlow => ?_, fun hmin hhigh _ => ?_⟩
  · rw [if_pos (.inl hlow), clampNat, if_pos hlow]
  · rw [if_pos (.inr hhigh), clampNat, if_neg (by omega), if_pos hhigh]

/-! ### One side (R34 step 3) -/

theorem takeMode_manual_held (pair : Nat × Nat) (x : Exposure) (hm : x.mode = .manual) (hp : x.manual = some pair) :
    takeMode .manual pair x = x := if_pos ⟨hm, hp⟩

theorem takeMode_manual_taken (pair : Nat × Nat) (x : Exposure) (h : x.mode ≠ .manual ∨ x.manual ≠ some pair) :
    takeMode .manual pair x = { x with mode := .manual, manual := some pair, manualSend := true } :=
  if_neg (by tauto)

/-! ### The request -/

/-- What a port takes of SET_EXPOSURE_MODE (R34, R163). -/
theorem exec_setExposureMode (s : State) (p : Port) (tag : BitVec 4) (sides mode t1 t0 g1 g0 : Byte)
    (h : Reaches s p .setExposureMode) :
    exec (.setExposureMode p tag [sides, mode, t1, t0, g1, g0]) s
      = .next (answered p .setExposureMode tag (setExposureMode [sides, mode, t1, t0, g1, g0] s).2.status
          (setExposureMode [sides, mode, t1, t0, g1, g0] s).2.payload
          (setExposureMode [sides, mode, t1, t0, g1, g0] s).1) :=
  congrArg Host.Outcome.next (takeRequest_reaches s p _ tag _ _ h rfl)

theorem setExposureMode_refused (s : State) (sides mode t1 t0 g1 g0 : Byte)
    (h : sides.toNat = 0 ∨ 3 < sides.toNat ∨ 2 < mode.toNat) :
    setExposureMode [sides, mode, t1, t0, g1, g0] s = (s, plain .refusedParam) := by
  have hnone : sidesOfParam sides.toNat = none ∨ exposureModeOfParam mode.toNat = none := by
    obtain h | h | h := h
    · exact .inl (sidesOfParam_eq_none (.inl h))
    · exact .inl (sidesOfParam_eq_none (.inr h))
    · exact .inr (exposureModeOfParam_eq_none h)
  unfold setExposureMode
  split
  next hs hm =>
    obtain h | h := hnone
    · exact absurd (h.symm.trans hs) nofun
    · exact absurd (h.symm.trans hm) nofun
  next => rfl

/-- A request with a valid side set and mode: each named side takes the mode and the pair. -/
theorem setExposureMode_accepted (s : State) (sides mode t1 t0 g1 g0 : Byte) (m : ExposureMode) (pair : Nat × Nat)
    (h1 : 1 ≤ sides.toNat) (h3 : sides.toNat ≤ 3) (hm : exposureModeOfParam mode.toNat = some m)
    (hp : pair = manualPair s.cal.image (t1 ++ t0).toNat (g1 ++ g0).toNat) :
    setExposureMode [sides, mode, t1, t0, g1, g0] s
      = (modExpoOn sides (takeMode m pair) s,
          plain (okIf (decide (m = .manual ∧ pair ≠ ((t1 ++ t0).toNat, (g1 ++ g0).toNat))))) := by
  obtain ⟨l, hl, hfold⟩ := sidesOfParam_modExpo sides h1 h3
  have hsides : sidesOfParam (param [sides, mode, t1, t0, g1, g0] 0) = some l := hl
  have hmode : exposureModeOfParam (param [sides, mode, t1, t0, g1, g0] 1) = some m := hm
  have ht : field [sides, mode, t1, t0, g1, g0] 2 2 = (t1 ++ t0).toNat :=
    (field_eq _ _ _ (by simp)).trans (natOfBytes_pair t1 t0)
  have hg : field [sides, mode, t1, t0, g1, g0] 4 2 = (g1 ++ g0).toNat :=
    (field_eq _ _ _ (by simp)).trans (natOfBytes_pair g1 g0)
  simp only [setExposureMode, hsides, hmode, ht, hg, ← hp, hfold]

/-- Settles O34: the clauses of each mode, from what a port takes of the request. -/
theorem exposureModeRequest : Obligations.ExposureModeRequest := by
  intro s p tag sides mode t1 t0 g1 g0 hr
  rw [exec_setExposureMode s p tag sides mode t1 t0 g1 g0 hr]
  refine ⟨fun h => by rw [setExposureMode_refused s sides mode t1 t0 g1 g0 h]; rfl, fun h1 h3 h2 => ?_⟩
  have accepted := fun m hm => setExposureMode_accepted s sides mode t1 t0 g1 g0 m _ h1 h3 hm rfl
  have hmode : mode = 0 ∨ mode = 1 ∨ mode = 2 := by bv_omega
  obtain rfl | rfl | rfl := hmode
  · rw [accepted .auto rfl]
    exact ⟨.ok, _, _, _, _, rfl, rfl, rfl, rfl, fun _ => ⟨rfl, fun _ => rfl⟩, nofun, nofun⟩
  · rw [accepted .hold rfl]
    exact ⟨.ok, _, _, _, _, rfl, rfl, rfl, rfl, nofun, fun _ => ⟨rfl, fun _ => rfl⟩, nofun⟩
  · rw [accepted .manual rfl]
    refine ⟨_, _, _, _, _, rfl, rfl, rfl, rfl, nofun, nofun,
      fun _ hk => ⟨manualPair s.cal.image (t1 ++ t0).toNat (g1 ++ g0).toNat, ?_⟩⟩
    obtain ⟨hin, hlow, hhigh⟩ := manualPair_cases s.cal.image (t1 ++ t0).toNat (g1 ++ g0).toNat _ _ hk rfl rfl
    exact ⟨hin, hlow, hhigh, by simp [plain, okIf], fun x => ⟨takeMode_manual_held _ x, takeMode_manual_taken _ x⟩⟩

end Sys2Proof.Machine

/-! PROOF. The update of the glare map tile by tile (R44 to R51), and O32 from it. -/

namespace Sys2Proof.Machine

/-! ### The least of a fold -/

theorem le_foldl_min_iff {α : Type} (f : α → Nat) (l : List α) (a c : Nat) :
    c ≤ l.foldl (fun acc n => min acc (f n)) a ↔ c ≤ a ∧ ∀ n ∈ l, c ≤ f n := by
  induction l generalizing a with
  | nil => simp
  | cons x l ih => simp [ih, and_assoc]

theorem foldl_min_attained {α : Type} (f : α → Nat) (l : List α) (a : Nat) :
    l.foldl (fun acc n => min acc (f n)) a = a ∨ ∃ n ∈ l, l.foldl (fun acc n => min acc (f n)) a = f n := by
  induction l generalizing a with
  | nil => exact .inl rfl
  | cons x l ih =>
    obtain h | ⟨n, hn, h⟩ := ih (min a (f x))
    · obtain hm | hm := min_choice a (f x)
      · exact .inl (h.trans hm)
      · exact .inr ⟨x, List.mem_cons_self, h.trans hm⟩
    · exact .inr ⟨n, List.mem_cons_of_mem x hn, h⟩

/-! ### The glare test, the target and the spread (R46 to R48) -/

theorem isGlare_iff (k : ImageCal) (bref : Nat) (st : TileStat) :
    isGlare k bref st = true ↔ k.glarePixMin ≤ st.bright ∧ st.bright ≤ k.glarePixMax ∧ k.kneeOut ≤ st.peak
      ∧ k.glareRatio * bref ≤ st.peak * 16 := by
  simp [isGlare, and_assoc]

theorem targetGain_clear {k : ImageCal} {bref : Nat} {st : TileStat} (h : isGlare k bref st = false) :
    targetGain k bref st = 256 := by simp [targetGain, h]

/-- A glare tile peaks at KNEE_OUT or above, so the quotient of R47 is at most 256 and only GMIN clamps it. -/
theorem targetGain_glare {k : ImageCal} {bref : Nat} {st : TileStat} (hg : k.gmin ≤ 256) (hk : k.kneeIn < k.kneeOut)
    (h : isGlare k bref st = true) :
    targetGain k bref st = max k.gmin (256 * (k.kneeOut - k.kneeIn) / (st.peak - k.kneeIn)) := by
  obtain ⟨-, -, hpeak, -⟩ := (isGlare_iff k bref st).1 h
  have hq : 256 * (k.kneeOut - k.kneeIn) / (st.peak - k.kneeIn) ≤ 256 :=
    Nat.div_le_of_le_mul (by rw [Nat.mul_comm]; exact Nat.mul_le_mul_right _ (by omega))
  rw [targetGain, if_pos h, clampNat_eq _ _ _ hg, min_eq_left hq]

theorem targetGain_bounds (k : ImageCal) (bref : Nat) (st : TileStat) (hg : k.gmin ≤ 256) :
    k.gmin ≤ targetGain k bref st ∧ targetGain k bref st ≤ 256 := by
  unfold targetGain
  split
  · rw [clampNat_eq _ _ _ hg]; omega
  · exact ⟨hg, le_rfl⟩

theorem mem_neighbours {t n : Nat} (ht : t < 192) :
    n ∈ neighbours t
      ↔ n < 192 ∧ ((n + 1 = t ∧ 0 < t % 16) ∨ (n = t + 1 ∧ t % 16 < 15) ∨ n + 16 = t ∨ n = t + 16) := by
  have mem_guarded (p : Prop) [Decidable p] (m : Nat) : n ∈ (if p then [m] else []) ↔ p ∧ n = m := by
    split <;> simp [*]
  simp only [neighbours, List.mem_append, mem_guarded]
  omega

theorem le_effectiveTarget_iff (gts : List Nat) (t c : Nat) :
    c ≤ effectiveTarget gts t ↔ c ≤ gts.getD t 256 ∧ ∀ n ∈ neighbours t, c ≤ (gts.getD n 256 + 256) / 2 :=
  le_foldl_min_iff _ _ _ _

theorem effectiveTarget_attained (gts : List Nat) (t : Nat) :
    effectiveTarget gts t = gts.getD t 256 ∨ ∃ n ∈ neighbours t, effectiveTarget gts t = (gts.getD n 256 + 256) / 2 :=
  foldl_min_attained _ _ _

/-! ### The temporal filter (R49, R50) -/

/-- The ceiling of an attack step rounds the sixteenths up, by less than one step. -/
theorem filterTile_attack {k : ImageCal} {ge ga h : Nat} (ha : 1 ≤ k.attack) (ha' : k.attack ≤ 16) (hge : ge < 256)
    (hga : ge < ga) :
    ge ≤ (filterTile k ge ga h).1 ∧ (filterTile k ge ga h).1 < ga
      ∧ (ga - ge) * k.attack ≤ (ga - (filterTile k ge ga h).1) * 16
      ∧ (ga - (filterTile k ge ga h).1) * 16 < (ga - ge) * k.attack + 16 := by
  have hval : (filterTile k ge ga h).1 = ga - ((ga - ge) * k.attack + 15) / 16 := by simp [filterTile, hge, hga]
  have hlow : (ga - ge) * 1 ≤ (ga - ge) * k.attack := Nat.mul_le_mul_left _ ha
  have hhigh : (ga - ge) * k.attack ≤ (ga - ge) * 16 := Nat.mul_le_mul_left _ ha'
  rw [hval]
  generalize (ga - ge) * k.attack = step at hlow hhigh ⊢
  omega

theorem filterTile_partial {k : ImageCal} {ge ga : Nat} (h : Nat) (hge : ge < 256) (hga : ga ≤ ge) :
    (filterTile k ge ga h).1 = min ge (ga + k.releaseStep) := by
  simp only [filterTile, if_pos hge, if_neg (Nat.not_lt.2 hga)]
  omega

theorem filterTile_load {k : ImageCal} {ge : Nat} (ga h : Nat) (hge : ge < 256) :
    (filterTile k ge ga h).2 = k.holdFrames := by
  simp only [filterTile, if_pos hge]
  split <;> rfl

theorem filterTile_hold {k : ImageCal} {h : Nat} (ga : Nat) (hh : 0 < h) : filterTile k 256 ga h = (ga, h - 1) := by
  simp [filterTile, hh]

theorem filterTile_release {k : ImageCal} {ga : Nat} (hga : ga ≤ 256) :
    filterTile k 256 ga 0 = (min 256 (ga + k.releaseStep), 0) := by
  simp only [filterTile, lt_irrefl, if_false]
  congr 1
  omega

/-- R51: the filter keeps a gain within GMIN..256. -/
theorem filterTile_bounds {k : ImageCal} {ge ga : Nat} (h : Nat) (ha : 1 ≤ k.attack) (ha' : k.attack ≤ 16)
    (hmin : k.gmin ≤ ge) (hmax : ge ≤ 256) (hga : k.gmin ≤ ga ∧ ga ≤ 256) :
    k.gmin ≤ (filterTile k ge ga h).1 ∧ (filterTile k ge ga h).1 ≤ 256 := by
  obtain hge | rfl := Nat.lt_or_eq_of_le hmax
  · obtain hlt | hle := Nat.lt_or_ge ge ga
    · obtain ⟨hfrom, hto, -⟩ := filterTile_attack (h := h) ha ha' hge hlt
      omega
    · rw [filterTile_partial h hge hle]
      omega
  · obtain rfl | hh := Nat.eq_zero_or_pos h
    · rw [filterTile_release hga.2]
      omega
    · rw [filterTile_hold ga hh]
      exact hga

/-! ### One tile of an update (R44) -/

/-- The targets of an update, tile by tile. -/
def targets (k : ImageCal) (bref : Nat) (stats : List TileStat) : List Nat :=
  (List.range 192).map fun t => targetGain k bref (stats.getD t ⟨0, 0, 0⟩)

/-- Tile t of an update, from the tile that stood there. -/
def updatedTile (k : ImageCal) (bref : Nat) (stats : List TileStat) (t : Nat) (o : GlareTile) : GlareTile :=
  { flag := isGlare k bref (stats.getD t ⟨0, 0, 0⟩)
    gt := (targets k bref stats).getD t 256
    ge := effectiveTarget (targets k bref stats) t
    ga := (filterTile k (effectiveTarget (targets k bref stats) t) o.ga o.h).1
    h := (filterTile k (effectiveTarget (targets k bref stats) t) o.ga o.h).2 }

theorem updateTiles_eq (k : ImageCal) (bref : Nat) (stats : List TileStat) (old : List GlareTile) :
    updateTiles k bref stats old
      = (List.range 192).map fun t => updatedTile k bref stats t (old.getD t unityTile) := rfl

theorem updateTiles_getElem? {k : ImageCal} {bref : Nat} {stats : List TileStat} {old : List GlareTile} {t : Nat}
    (ht : t < 192) :
    (updateTiles k bref stats old)[t]? = some (updatedTile k bref stats t (old.getD t unityTile)) := by
  simp [updateTiles_eq, ht]

theorem updateTiles_length (k : ImageCal) (bref : Nat) (stats : List TileStat) (old : List GlareTile) :
    (updateTiles k bref stats old).length = 192 := by
  simp [updateTiles_eq]

theorem targets_getD (k : ImageCal) (bref : Nat) (stats : List TileStat) {t : Nat} (ht : t < 192) :
    (targets k bref stats).getD t 256 = targetGain k bref (stats.getD t ⟨0, 0, 0⟩) := by
  simp [targets, List.getD_eq_getElem?_getD, ht]

theorem targets_bounds (k : ImageCal) (bref : Nat) (stats : List TileStat) {t : Nat} (hg : k.gmin ≤ 256)
    (ht : t < 192) :
    k.gmin ≤ (targets k bref stats).getD t 256 ∧ (targets k bref stats).getD t 256 ≤ 256 := by
  rw [targets_getD k bref stats ht]
  exact targetGain_bounds k bref _ hg

/-- R48: every half of a neighbour's target is at least GMIN, so the effective target is. -/
theorem gmin_le_effectiveTarget (k : ImageCal) (bref : Nat) (stats : List TileStat) {t : Nat} (hg : k.gmin ≤ 256)
    (ht : t < 192) : k.gmin ≤ effectiveTarget (targets k bref stats) t := by
  refine (le_effectiveTarget_iff _ t _).2 ⟨(targets_bounds k bref stats hg ht).1, fun n hn => ?_⟩
  have := targets_bounds k bref stats hg ((mem_neighbours ht).1 hn).1
  omega

/-- The tile at j of an updated map holds the target of tile j. -/
theorem gt_of_updateTiles_getElem? {k : ImageCal} {bref : Nat} {stats : List TileStat} {old : List GlareTile} {j : Nat}
    {m : GlareTile} (hm : (updateTiles k bref stats old)[j]? = some m) :
    j < 192 ∧ m.gt = (targets k bref stats).getD j 256 := by
  have hj : j < 192 := by
    rw [← updateTiles_length k bref stats old]
    exact (List.getElem?_eq_some_iff.1 hm).1
  rw [updateTiles_getElem? hj, Option.some.injEq] at hm
  exact ⟨hj, hm ▸ rfl⟩

/-! ### Stage 2 -/

theorem stageGlare_day (s : State) (sd : Side) (f : AcceptedFrame) (h : (s.side sd).expo.dayNight = .day) :
    stageGlare sd f s = s := by
  rw [stageGlare_spec]
  exact modSide_self s sd _ (by simp [h])

theorem stageGlare_night (s : State) (sd : Side) (f : AcceptedFrame) (h : (s.side sd).expo.dayNight = .night) :
    stageGlare sd f s
      = s.modGlare sd (updateMap s.cal.image (s.side sd).expo.m f.number (s.side sd).stats) := by
  simp [stageGlare_spec, h]

/-- Settles O32: stage 2 by the mode, and each clause of an update from the lemma about its part of a tile. -/
theorem glareUpdateBounds : Obligations.GlareUpdateBounds := by
  refine ⟨fun s t sd f x bref hx hlow hhigh ht => ?_, fun k bref stats old new hg ha ha' hk hold hnew => ?_⟩
  · subst hx
    have hb : bref = max (s.side sd).expo.m 16 := by omega
    refine ⟨fun hd => ht.trans (stageGlare_day s sd f hd), fun hn => ?_⟩
    rw [ht, stageGlare_night s sd f hn, hb]
    cases sd <;> rfl
  subst hnew
  refine ⟨updateTiles_length k bref stats old, fun t o n st ht ho hn hst => ?_⟩
  have hstD : stats.getD t ⟨0, 0, 0⟩ = st := by simp [hst]
  have hoD : old.getD t unityTile = o := by simp [ho]
  rw [updateTiles_getElem? ht, hoD, Option.some.injEq] at hn
  have hoga := hold o (List.mem_of_getElem? ho)
  have hflag : n.flag = isGlare k bref st := by rw [← hn, updatedTile, hstD]
  have hgt : n.gt = targetGain k bref st := by rw [← hn, updatedTile, targets_getD k bref stats ht, hstD]
  have hge : n.ge = effectiveTarget (targets k bref stats) t := hn ▸ rfl
  have hown : n.gt = (targets k bref stats).getD t 256 := hn ▸ rfl
  have hga : n.ga = (filterTile k n.ge o.ga o.h).1 := hn ▸ rfl
  have hh : n.h = (filterTile k n.ge o.ga o.h).2 := hn ▸ rfl
  have hgtBounds : k.gmin ≤ n.gt ∧ n.gt ≤ 256 := hgt ▸ targetGain_bounds k bref st hg
  have hgmin : k.gmin ≤ n.ge := hge ▸ gmin_le_effectiveTarget k bref stats hg ht
  obtain ⟨hleOwn, hleNear⟩ := (le_effectiveTarget_iff (targets k bref stats) t n.ge).1 hge.le
  rw [← hown] at hleOwn
  have hgaBounds := filterTile_bounds o.h ha ha' hgmin (hleOwn.trans hgtBounds.2) hoga
  refine ⟨?flag, ?clear, ?glare, hgtBounds.1, hgtBounds.2, hgmin, hleOwn, hga ▸ hgaBounds.1, hga ▸ hgaBounds.2,
    ?near, ?attained, ?below, ?unity⟩
  case flag => exact hflag ▸ isGlare_iff k bref st
  case clear => exact fun h => hgt.trans (targetGain_clear (hflag ▸ h))
  case glare => exact fun h => hgt.trans (targetGain_glare hg hk (hflag ▸ h))
  case near =>
    intro j m hm hj
    obtain ⟨hlt, hmgt⟩ := gt_of_updateTiles_getElem? hm
    exact hmgt ▸ hleNear j ((mem_neighbours ht).2 ⟨hlt, hj⟩)
  case attained =>
    rw [hge, hown]
    refine (effectiveTarget_attained (targets k bref stats) t).imp_right fun ⟨j, hj, hval⟩ => ?_
    obtain ⟨hlt, hnear⟩ := (mem_neighbours ht).1 hj
    exact ⟨j, _, updateTiles_getElem? hlt, hval, hnear⟩
  case below =>
    intro hlt
    rw [hga, hh]
    exact ⟨filterTile_load o.ga o.h hlt, filterTile_attack ha ha' hlt, filterTile_partial o.h hlt⟩
  case unity =>
    intro h256
    rw [hga, hh, h256]
    refine ⟨fun hpos => ?_, fun hzero => ?_⟩
    · rw [filterTile_hold o.ga hpos]
      exact ⟨rfl, rfl⟩
    · rw [hzero, filterTile_release hoga.2]
      exact ⟨rfl, rfl⟩

end Sys2Proof.Machine

/-! PROOF. Pixel gains, codes and rasters (R57 to R60, R67, R68), and O33 from them. -/

namespace Sys2Proof.Machine

/-! ### Pixel gains (R57) -/

/-- The mean of four gains by weights that sum to 14,400, rounded, lies between the least and the greatest. -/
theorem weightedMean_bounds {lo hi wa wb wc wd a b c d : Nat} (hw : wa + wb + wc + wd = 14400)
    (ha : lo ≤ a ∧ a ≤ hi) (hb : lo ≤ b ∧ b ≤ hi) (hc : lo ≤ c ∧ c ≤ hi) (hd : lo ≤ d ∧ d ≤ hi) :
    lo ≤ (wa * a + wb * b + wc * c + wd * d + 7200) / 14400
      ∧ (wa * a + wb * b + wc * c + wd * d + 7200) / 14400 ≤ hi := by
  have hlow : 14400 * lo ≤ wa * a + wb * b + wc * c + wd * d := by
    calc 14400 * lo = wa * lo + wb * lo + wc * lo + wd * lo := by rw [← hw]; ring
      _ ≤ _ := by gcongr <;> tauto
  have hhigh : wa * a + wb * b + wc * c + wd * d ≤ 14400 * hi := by
    calc wa * a + wb * b + wc * c + wd * d ≤ wa * hi + wb * hi + wc * hi + wd * hi := by gcongr <;> tauto
      _ = 14400 * hi := by rw [← hw]; ring
  omega

/-- The weights of the four tiles around a pixel are the parts of a square of 120 by 120. -/
theorem weights_sum {dx dy : Nat} (hx : dx ≤ 120) (hy : dy ≤ 120) :
    (120 - dx) * (120 - dy) + dx * (120 - dy) + (120 - dx) * dy + dx * dy = 14400 := by
  obtain ⟨ex, hex⟩ := Nat.exists_eq_add_of_le hx
  obtain ⟨ey, hey⟩ := Nat.exists_eq_add_of_le hy
  have hsquare : (dx + ex) * (dy + ey) = 14400 := by rw [← hex, ← hey]
  rw [show 120 - dx = ex by omega, show 120 - dy = ey by omega]
  linarith

theorem getD_mem {ga : List Nat} {i : Nat} (hi : i < ga.length) (d : Nat) : ga.getD i d ∈ ga := by
  rw [List.getD_eq_getElem _ _ hi]
  exact List.getElem_mem hi

theorem pixelGain_bounds {ga : List Nat} {lo hi : Nat} (x y : Nat) (hlen : ga.length = 192)
    (hga : ∀ g ∈ ga, lo ≤ g ∧ g ≤ hi) : lo ≤ pixelGain ga x y ∧ pixelGain ga x y ≤ hi := by
  have gain (c r : Nat) (hc : c < 16) (hr : r < 12) :
      lo ≤ ga.getD (16 * r + c) 256 ∧ ga.getD (16 * r + c) 256 ≤ hi := hga _ (getD_mem (by omega) 256)
  simp only [pixelGain, clampNat_eq _ 60 1860 (by decide), clampNat_eq _ 60 1380 (by decide)]
  refine weightedMean_bounds (weights_sum ?_ ?_) (gain _ _ ?_ ?_) (gain _ _ ?_ ?_) (gain _ _ ?_ ?_) (gain _ _ ?_ ?_)
    <;> omega

/-- At a tile's centre one weight is 14,400. In the last column and row the centre is that of the right and the lower
of the four tiles. -/
theorem pixelGain_centre {ga : List Nat} {c r : Nat} (hlen : ga.length = 192) (hc : c < 16) (hr : r < 12) :
    ga[16 * r + c]? = some (pixelGain ga (120 * c + 60) (120 * r + 60)) := by
  have hgain : ga[16 * r + c]? = some (ga.getD (16 * r + c) 256) := by
    rw [List.getD_eq_getElem _ _ (by omega), List.getElem?_eq_getElem]
  have hx : clampNat (120 * c + 60) 60 1860 = 120 * c + 60 := by rw [clampNat_eq _ _ _ (by decide)]; omega
  have hy : clampNat (120 * r + 60) 60 1380 = 120 * r + 60 := by rw [clampNat_eq _ _ _ (by decide)]; omega
  rw [hgain, Option.some.injEq]
  simp only [pixelGain, hx, hy, Nat.add_sub_cancel, Nat.mul_div_cancel_left _ (show 0 < 120 by decide)]
  have hcol : (min c 14 = c ∧ 120 * c + 60 - (120 * min c 14 + 60) = 0)
      ∨ (min c 14 + 1 = c ∧ 120 * c + 60 - (120 * min c 14 + 60) = 120) := by omega
  have hrow : (min r 10 = r ∧ 120 * r + 60 - (120 * min r 10 + 60) = 0)
      ∨ (min r 10 + 1 = r ∧ 120 * r + 60 - (120 * min r 10 + 60) = 120) := by omega
  generalize 120 * c + 60 - (120 * min c 14 + 60) = dx at hcol ⊢
  generalize min c 14 = c0 at hcol ⊢
  generalize 120 * r + 60 - (120 * min r 10 + 60) = dy at hrow ⊢
  generalize min r 10 = r0 at hrow ⊢
  obtain ⟨rfl, rfl⟩ | ⟨rfl, rfl⟩ := hcol <;> obtain ⟨rfl, rfl⟩ | ⟨rfl, rfl⟩ := hrow <;> omega

/-! ### Compression and codes (R58, R59) -/

theorem compress_below {kneeIn y : Nat} (gp : Nat) (h : y ≤ kneeIn) : compress kneeIn y gp = y := if_pos h

theorem compress_above {kneeIn y : Nat} (gp : Nat) (h : kneeIn < y) :
    compress kneeIn y gp = kneeIn + (y - kneeIn) * gp / 256 := if_neg (Nat.not_le.2 h)

theorem knee_le_compress {kneeIn y : Nat} (gp : Nat) (h : kneeIn ≤ y) : kneeIn ≤ compress kneeIn y gp := by
  unfold compress
  split <;> omega

theorem compress_unity (kneeIn y : Nat) : compress kneeIn y 256 = y := by
  unfold compress
  split <;> omega

theorem compress_le {gp : Nat} (kneeIn y : Nat) (hg : gp ≤ 256) : compress kneeIn y gp ≤ y := by
  have : (y - kneeIn) * gp ≤ (y - kneeIn) * 256 := Nat.mul_le_mul_left _ hg
  unfold compress
  split <;> omega

theorem rootUpTo_eq (bound n : Nat) : rootUpTo bound n = min bound (Nat.sqrt n) := by
  induction bound with
  | zero => simp [rootUpTo]
  | succ d ih =>
    rw [rootUpTo, ih]
    split
    next h => exact (min_eq_left (Nat.le_sqrt.2 h)).symm
    next h =>
      have : Nat.sqrt n < d + 1 := Nat.sqrt_lt.2 (Nat.not_le.1 h)
      omega

theorem codeOf_eq (y : Nat) : codeOf y = min 255 (Nat.sqrt (16 * y)) := rootUpTo_eq 255 (16 * y)

/-! ### Rasters (R67, R68) -/

theorem length_flatMap_rows {α : Type} (f : Nat → Nat → α) (n m : Nat) :
    ((List.range m).flatMap fun v => (List.range n).map (f v)).length = n * m := by
  simp [List.length_flatMap, Nat.mul_comm]

/-- The element at place u of row v of rows of equal length. -/
theorem getElem?_flatMap_rows {α : Type} (f : Nat → Nat → α) {n u : Nat} (hu : u < n) (m : Nat) {v : Nat} (hv : v < m) :
    ((List.range m).flatMap fun v => (List.range n).map (f v))[n * v + u]? = some (f v u) := by
  induction m with
  | zero => omega
  | succ m ih =>
    have hlen := length_flatMap_rows f n m
    rw [List.range_succ, List.flatMap_append, List.flatMap_singleton]
    obtain hlt | rfl := Nat.lt_succ_iff_lt_or_eq.1 hv
    · have hin : n * v + u < n * m := by
        calc n * v + u < n * (v + 1) := by rw [Nat.mul_succ]; omega
          _ ≤ n * m := Nat.mul_le_mul_left n hlt
      rw [List.getElem?_append_left (hlen ▸ hin), ih hlt]
    · rw [List.getElem?_append_right (by omega), hlen, Nat.add_sub_cancel_left]
      simp [hu]

theorem raster_length (code : Nat → Nat → Nat) : (raster code).length = 1382400 :=
  length_flatMap_rows (fun v u => BitVec.ofNat 8 (code u v)) 960 1440

theorem raster_getElem? (code : Nat → Nat → Nat) {u v : Nat} (hu : u < 960) (hv : v < 1440) :
    (raster code)[960 * v + u]? = some (BitVec.ofNat 8 (code u v)) :=
  getElem?_flatMap_rows (fun v u => BitVec.ofNat 8 (code u v)) hu 1440 hv

theorem composedCode_far {kneeIn : Nat} {ga : List Nat} {img : Image} {ox oy u v : Nat} (hv : v < 720) :
    composedCode kneeIn ga img ox oy u v = min 255 (Nat.sqrt (16 * dimmed kneeIn ga img (ox + 959 - u) (oy + v))) := by
  rw [composedCode, if_pos hv, farCode, codeOf_eq]

theorem composedCode_wide {kneeIn : Nat} {ga : List Nat} {img : Image} {ox oy u v i j : Nat} (hv : 720 ≤ v)
    (hi : i = 2 * (959 - u)) (hj : j = 2 * (v - 720)) :
    composedCode kneeIn ga img ox oy u v = min 255 (Nat.sqrt (16 * ((dimmed kneeIn ga img i j
      + dimmed kneeIn ga img (i + 1) j + dimmed kneeIn ga img i (j + 1) + dimmed kneeIn ga img (i + 1) (j + 1)) / 4))) := by
  rw [composedCode, if_neg (Nat.not_lt.2 hv), wideCode, codeOf_eq, ← hi, ← hj]

/-! ### Luminances -/

theorem luminance_camera {rows : List (List Pixel)} {row : List Pixel} {p : Pixel} {x y : Nat} (hrow : rows[y]? = some row)
    (hp : row[x]? = some p) : luminance (.camera rows) x y = p.toNat := by
  simp [luminance, hrow, hp]

theorem luminance_synthetic {values : List Nat} {x y p : Nat} (hp : values[16 * (y / 120) + x / 120]? = some p) :
    luminance (.synthetic values) x y = p := by
  simp [luminance, hp]

/-- Settles O33: a clause for each step from the gains of the map to the codes of a raster. -/
theorem outputCodes : Obligations.OutputCodes := by
  refine ⟨?gain, ?centre, ?compressed, codeOf_eq, ?raster, ?composed, ?patterns, ?camera, ?synthetic⟩
  case gain => exact fun ga lo hi x y hlen hga => pixelGain_bounds x y hlen hga
  case centre => exact fun ga c r hlen hc hr => pixelGain_centre hlen hc hr
  case compressed =>
    refine fun kneeIn y gp hg => ⟨compress_le kneeIn y hg, ?_, knee_le_compress gp, compress_above gp⟩
    rintro (h | rfl)
    · exact compress_below gp h
    · exact compress_unity kneeIn y
  case raster => exact fun code => ⟨raster_length code, fun u v hu hv => raster_getElem? code hu hv⟩
  case composed =>
    intro kneeIn ga img ox oy u v yout hyout hu
    obtain rfl : yout = dimmed kneeIn ga img := funext fun x => funext fun y => hyout x y
    refine ⟨fun hv => ?_, fun hv hv' i j hi hj => ?_⟩
    · rw [composeCodes, raster_getElem? _ hu (by omega), composedCode_far hv]
    · rw [composeCodes, raster_getElem? _ hu hv', composedCode_wide hv hi hj]
  case patterns =>
    refine fun u v hu hv => ⟨raster_getElem? _ hu hv, ?_⟩
    rw [invalidCodes, raster_getElem? _ hu hv, patternCode]
    push_cast
    split <;> rfl
  case camera => exact fun rows row p x y hrow hp => luminance_camera hrow hp
  case synthetic => exact fun values x y p hp => luminance_synthetic hp

end Sys2Proof.Machine

/-! PROOF. Step 1 of an output frame start (R69 to R72) axis by axis, and O37 from it. -/

namespace Sys2Proof.Machine

/-! ### The trailer term (R70) -/

theorem computedTrailer_eq (k : Calibration) (sd : Side) (a : Int) :
    computedTrailer k sd a = (geometryOf k sd).panGain * (match sd with | .right => a | .left => -a).toNat / 2 := by
  cases sd <;> rfl

/-! ### One axis: its clamp (R69, R71) and its motion (R72) -/

theorem clampInt_eq (x a b : Int) (h : a ≤ b) : clampInt x a b = max a (min x b) := by
  unfold clampInt
  split_ifs <;> omega

theorem clampInt_toNat (x : Int) {b : Int} (h : 0 ≤ b) : ((clampInt x 0 b).toNat : Int) = max 0 (min x b) := by
  rw [clampInt_eq x 0 b h]
  exact Int.toNat_of_nonneg (le_max_left 0 _)

/-- The clamp changes exactly the values out of range (R71). -/
theorem clampInt_toNat_ne_iff (x : Int) {b : Int} (h : 0 ≤ b) : ((clampInt x 0 b).toNat : Int) ≠ x ↔ x < 0 ∨ b < x := by
  rw [clampInt_toNat x h]
  omega

theorem slewAxis_of_le {cur target : Nat} (slew : Nat) (h : cur ≤ target) :
    slewAxis slew cur target = min target (cur + slew) := by
  rw [slewAxis, if_pos h]
  split_ifs <;> omega

theorem slewAxis_of_ge {cur target : Nat} (slew : Nat) (h : target ≤ cur) :
    slewAxis slew cur target = max target (cur - slew) := by
  unfold slewAxis
  split_ifs <;> omega

/-! ### Both axes -/

section
variable (k : Calibration) (sd : Side) (angle : Option Int) (reverse : Bool) (x : Composer)

theorem stepWindow_targetX {tx : Int}
    (h : tx = rawTargetX k sd x (stepWindow k sd angle reverse x).trailer) :
    ((stepWindow k sd angle reverse x).targetX : Int) = max 0 (min tx 960) :=
  h ▸ clampInt_toNat _ (by decide)

theorem stepWindow_targetY {ty : Int} (h : ty = rawTargetY k sd x reverse) :
    ((stepWindow k sd angle reverse x).targetY : Int) = max 0 (min ty 720) :=
  h ▸ clampInt_toNat _ (by decide)

/-- PAN_LIMITED says that one of the clamps changed its value (R71). -/
theorem stepWindow_panLimited {tx ty : Int}
    (hx : tx = rawTargetX k sd x (stepWindow k sd angle reverse x).trailer) (hy : ty = rawTargetY k sd x reverse) :
    (stepWindow k sd angle reverse x).panLimited = true ↔ tx < 0 ∨ 960 < tx ∨ ty < 0 ∨ 720 < ty := by
  have hlim : (stepWindow k sd angle reverse x).panLimited
      = (decide (((clampInt tx 0 960).toNat : Int) ≠ tx) || decide (((clampInt ty 0 720).toNat : Int) ≠ ty)) := by
    rw [hx, hy]; rfl
  rw [hlim, Bool.or_eq_true, decide_eq_true_iff, decide_eq_true_iff, clampInt_toNat_ne_iff tx (by decide),
    clampInt_toNat_ne_iff ty (by decide), or_assoc]

theorem stepWindow_origin_first (h : x.firstFrame = true) :
    (stepWindow k sd angle reverse x).originX = (stepWindow k sd angle reverse x).targetX
      ∧ (stepWindow k sd angle reverse x).originY = (stepWindow k sd angle reverse x).targetY :=
  ⟨if_pos h, if_pos h⟩

theorem stepWindow_originX (h : x.firstFrame = false) :
    (stepWindow k sd angle reverse x).originX
      = slewAxis (geometryOf k sd).panSlew x.originX (stepWindow k sd angle reverse x).targetX :=
  if_neg (Bool.eq_false_iff.1 h)

theorem stepWindow_originY (h : x.firstFrame = false) :
    (stepWindow k sd angle reverse x).originY
      = slewAxis (geometryOf k sd).panSlew x.originY (stepWindow k sd angle reverse x).targetY :=
  if_neg (Bool.eq_false_iff.1 h)

end

/-! ### The state -/

theorem modView_congr (s : State) (sd : Side) {f g : Composer → Composer} (h : f (s.side sd).view = g (s.side sd).view) :
    s.modView sd f = s.modView sd g :=
  modSide_congr s sd _ _ (congrArg (fun v => { s.side sd with view := v }) h)

@[simp] theorem windowStep_side_view (s : State) (sd : Side) :
    ((windowStep sd s).side sd).view
      = stepWindow s.cal sd (presentedAngle s) (presentedReverse s) (s.side sd).view :=
  modView_side_view s sd _

/-- Settles O37: the trailer term, the target, PAN_LIMITED and the origin of one step, and what it leaves. -/
theorem farWindowMoves : Obligations.FarWindowMoves := by
  rintro s sd x y g tx ty rfl hy rfl htx hty
  rw [windowStep_side_view] at hy
  subst hy
  refine ⟨fun a ha => ?angle, fun hnone => ?noAngle, stepWindow_targetX _ _ _ _ _ htx, stepWindow_targetY _ _ _ _ _ hty,
    stepWindow_panLimited _ _ _ _ _ htx hty, stepWindow_origin_first _ _ _ _ _, rfl, fun hnext => ?moved, ?frame⟩
  case angle => rw [ha]; exact computedTrailer_eq s.cal sd a
  case noAngle => rw [hnone]; rfl
  case moved =>
    rw [stepWindow_originX _ _ _ _ _ hnext, stepWindow_originY _ _ _ _ _ hnext]
    exact ⟨slewAxis_of_le _, slewAxis_of_ge _, slewAxis_of_le _, slewAxis_of_ge _⟩
  case frame => exact modView_congr s sd rfl

end Sys2Proof.Machine

/-! PROOF. A frame return step by step (R94 to R97), the backlight curve between its points, and O42 from them. -/

namespace Sys2Proof.Machine

/-! ### What a frame return leaves -/

/-- A raise for one side leaves the other side's view (R77). -/
theorem sendRaise_view_other (s : State) (c : FaultCode) (d : BitVec 16) {sd x : Side} (h : x ≠ sd) :
    ((sendRaise c (faultSideOf sd) d s).side x).view = (s.side x).view := by
  unfold sendRaise afterOnset
  split
  · rw [faultTriggers_view, sidesOf_faultSideOf]
    split
    · exact activateView_other _ _ _ h
    · rfl
  · rfl

/-- A reading of the state that neither a change of a side's DLT nor a raise or a clear for that side changes. -/
structure DltBlind {α : Type} (sd : Side) (g : State → α) : Prop where
  dlt : ∀ s f, g (s.modDlt sd f) = g s
  raise : ∀ s c d, g (sendRaise c (faultSideOf sd) d s) = g s
  clear : ∀ s c, g (sendClear c (faultSideOf sd) s) = g s

namespace DltBlind

variable {α : Type} {sd : Side} {g : State → α}

theorem countMismatch (h : DltBlind sd g) (s : State) : g (countMismatch sd s) = g s := by
  unfold Machine.countMismatch
  dsimp only
  split
  · exact (h.raise _ _ _).trans (h.dlt s _)
  · exact h.dlt s _

theorem countMatch (h : DltBlind sd g) (s : State) : g (countMatch sd s) = g s := by
  unfold Machine.countMatch
  dsimp only
  split
  · exact (h.clear _ _).trans (h.dlt s _)
  · exact h.dlt s _

theorem matchReturn (h : DltBlind sd g) (tag : Byte) (sig : BitVec 32) (s : State) :
    g (matchReturn sd tag sig s) = g s := by
  unfold Machine.matchReturn
  dsimp only
  split
  · exact h.countMismatch s
  · have older : ∀ (l : List SentFrame) (u : State), g (l.foldl (fun s _ => Machine.countMismatch sd s) u) = g u :=
      foldl_reading g _ fun s _ => h.countMismatch s
    split
    · exact (h.countMatch _).trans ((older _ _).trans (h.dlt s _))
    · exact (h.countMismatch _).trans ((older _ _).trans (h.dlt s _))

theorem monitorFlags (h : DltBlind sd g) (a b flags : BitVec 16) (s : State) :
    g (monitorFlags sd a b flags s) = g s := by
  unfold Machine.monitorFlags
  dsimp only
  split
  · exact (h.clear _ _).trans (h.dlt s _)
  · exact (h.raise _ _ _).trans (h.dlt s _)

theorem setBacklight (h : DltBlind sd g) (a : BitVec 16) (s : State) : g (setBacklight sd a s) = g s := by
  unfold Machine.setBacklight
  exact h.dlt s _

theorem takeReturn (h : DltBlind sd g) (tag : Byte) (sig : BitVec 32) (a b flags : BitVec 16) (s : State) :
    g (takeReturn sd tag sig a b flags s) = g s := by
  unfold Machine.takeReturn
  dsimp only
  split
  · exact (h.setBacklight a _).trans ((h.monitorFlags a b flags _).trans (h.matchReturn tag sig s))
  · rfl

end DltBlind

theorem dltBlind_inputs (sd x : Side) : DltBlind sd fun s => (s.side x).inputs :=
  ⟨fun _ _ => by simp, fun _ _ _ => by simp, fun _ _ => by simp⟩

theorem dltBlind_other {sd x : Side} (h : x ≠ sd) : DltBlind sd fun s => ((s.side x).dlt, (s.side x).view) :=
  ⟨fun s f => by simp [modDlt_side_ne s sd x f h], fun s c d => by simp [sendRaise_view_other s c d h],
    fun _ _ => by simp⟩

/-- What a frame return leaves: the blocks that no act of a display link touches, the inputs, and of the other side
the DLT and the composer. -/
theorem takeReturn_frame (s : State) (sd x : Side) (tag : Byte) (sig : BitVec 32) (a b flags : BitVec 16) {t : State}
    (ht : takeReturn sd tag sig a b flags s = t) :
    (t.side x).clr = (s.side x).clr ∧ (t.side x).stats = (s.side x).stats
      ∧ (t.side x).expo = (s.side x).expo ∧ (t.side x).glare = (s.side x).glare
      ∧ (t.side x).inputs = (s.side x).inputs ∧ t.store = s.store ∧ t.vehicle = s.vehicle ∧ t.time = s.time
      ∧ (x ≠ sd → (t.side x).dlt = (s.side x).dlt ∧ (t.side x).view = (s.side x).view) := by
  subst ht
  have acts : Acts displayTouch s (takeReturn sd tag sig a b flags s) := takeReturn_acts sd tag sig a b flags
  exact ⟨acts.clr_eq rfl x, acts.stats_eq rfl x, acts.expo_eq rfl x, acts.glare_eq rfl x,
    (dltBlind_inputs sd x).takeReturn tag sig a b flags s, acts.store_eq rfl, acts.vehicle_eq rfl, acts.time_eq rfl,
    fun hx => Prod.mk.inj ((dltBlind_other hx).takeReturn tag sig a b flags s)⟩

/-! ### The match (R94, R95) -/

/-- R95: mismatches counted one after another, one for each listed frame, and after them a match on a hit. -/
def countReturn (sd : Side) (missed : List SentFrame) (hit : Bool) (s : State) : State :=
  let u := missed.foldl (fun s _ => countMismatch sd s) s
  if hit then countMatch sd u else u

/-- R94, a tag in the list: the older entries are mismatches, and the signature of the found one decides. -/
theorem matchReturn_found {s : State} {sd : Side} {older rest : List SentFrame} {e : SentFrame} (sig : BitVec 32)
    (hsent : (s.side sd).dlt.sent = older ++ e :: rest) (hold : ∀ f ∈ older, f.tag ≠ e.tag) :
    matchReturn sd e.tag sig s = countReturn sd (if e.signature = sig then older else older ++ [e])
      (decide (e.signature = sig)) (s.modDlt sd fun d => { d with sent := rest }) := by
  have hdrop : (older ++ e :: rest).dropWhile (fun f => !(f.tag == e.tag)) = e :: rest := by
    rw [List.dropWhile_append_of_pos (by simpa using hold)]; simp
  have htake : (older ++ e :: rest).takeWhile (fun f => !(f.tag == e.tag)) = older := by
    rw [List.takeWhile_append_of_pos (by simpa using hold)]; simp
  by_cases h : e.signature = sig <;> simp [matchReturn, countReturn, hsent, hdrop, htake, h]

/-- R94, a tag that is not in the list: one mismatch. -/
theorem matchReturn_absent {s : State} {sd : Side} {tag : Byte} (sig : BitVec 32)
    (habs : ∀ f ∈ (s.side sd).dlt.sent, f.tag ≠ tag) : matchReturn sd tag sig s = countMismatch sd s := by
  have hdrop : (s.side sd).dlt.sent.dropWhile (fun f => !(f.tag == tag)) = [] :=
    List.dropWhile_eq_nil_iff.2 (by simpa using habs)
  simp only [matchReturn, hdrop]

/-- R94: what a return finds in a list of sent signatures: the older entries and its own, or no entry of its tag. -/
def Finds (sent older rest : List SentFrame) (tag : Byte) (sig : BitVec 32) (misses : Nat) (hit : Bool) : Prop :=
  (∃ e, sent = older ++ e :: rest ∧ e.tag = tag ∧ hit = decide (e.signature = sig)
      ∧ misses = older.length + (if hit then 0 else 1))
    ∨ (sent = rest ∧ older = [] ∧ (∀ e ∈ rest, e.tag ≠ tag) ∧ hit = false ∧ misses = 1)

/-- R94: either way a return counts its misses, then its hit. -/
theorem matchReturn_eq_countReturn {s : State} {sd : Side} {older rest : List SentFrame} {tag : Byte}
    {sig : BitVec 32} {misses : Nat} {hit : Bool} (hold : ∀ e ∈ older, e.tag ≠ tag)
    (hf : Finds (s.side sd).dlt.sent older rest tag sig misses hit) :
    ∃ missed, missed.length = misses ∧ (hit = false → 1 ≤ misses)
      ∧ matchReturn sd tag sig s = countReturn sd missed hit (s.modDlt sd fun d => { d with sent := rest }) := by
  obtain ⟨e, hsent, rfl, rfl, rfl⟩ | ⟨rfl, -, habs, rfl, rfl⟩ := hf
  · refine ⟨_, ?_, fun h => by simp [h], matchReturn_found sig hsent hold⟩
    by_cases h : e.signature = sig <;> simp [h]
  · refine ⟨[⟨tag, sig⟩], rfl, fun _ => le_rfl, ?_⟩
    rw [matchReturn_absent sig habs]
    exact congrArg (countMismatch sd) (modSide_self s sd _ rfl).symm

/-! ### The runs and counts (R95) -/

theorem countMismatch_dlt (s : State) (sd : Side) :
    ((countMismatch sd s).side sd).dlt =
      { (s.side sd).dlt with sigMismatches := (s.side sd).dlt.sigMismatches + 1
                             mismatchRun := min ((s.side sd).dlt.mismatchRun + 1) 255, matchRun := 0 } := by
  unfold countMismatch
  dsimp only
  split <;> simp

theorem countMatch_dlt (s : State) (sd : Side) :
    ((countMatch sd s).side sd).dlt =
      { (s.side sd).dlt with mismatchRun := 0, matchRun := min ((s.side sd).dlt.matchRun + 1) 30 } := by
  unfold countMatch
  dsimp only
  split <;> simp

theorem mismatches_dlt {α : Type} (sd : Side) (l : List α) (s : State) (hr : (s.side sd).dlt.mismatchRun ≤ 255) :
    ((l.foldl (fun s _ => countMismatch sd s) s).side sd).dlt =
      { (s.side sd).dlt with
        sigMismatches := (s.side sd).dlt.sigMismatches + BitVec.ofNat 32 l.length
        mismatchRun := min ((s.side sd).dlt.mismatchRun + l.length) 255
        matchRun := if l.length = 0 then (s.side sd).dlt.matchRun else 0 } := by
  induction l generalizing s with
  | nil => simp [hr]
  | cons a l ih =>
    have hrun : min (min ((s.side sd).dlt.mismatchRun + 1) 255 + l.length) 255
        = min ((s.side sd).dlt.mismatchRun + (l.length + 1)) 255 := by omega
    have hcount : (s.side sd).dlt.sigMismatches + 1 + BitVec.ofNat 32 l.length
        = (s.side sd).dlt.sigMismatches + BitVec.ofNat 32 (l.length + 1) := by
      rw [BitVec.ofNat_add, BitVec.add_assoc, BitVec.add_comm 1]; rfl
    rw [List.foldl_cons, ih _ (by rw [countMismatch_dlt]; exact min_le_right _ _), countMismatch_dlt,
      List.length_cons]
    simp only [hrun, hcount, ite_self, Nat.add_one_ne_zero, if_false]

section
variable {s : State} {sd : Side} {missed : List SentFrame} {hit : Bool} (hr : (s.side sd).dlt.mismatchRun ≤ 255)
include hr

theorem countReturn_dlt (hmiss : hit = false → 1 ≤ missed.length) :
    ((countReturn sd missed hit s).side sd).dlt =
      { (s.side sd).dlt with
        sigMismatches := (s.side sd).dlt.sigMismatches + BitVec.ofNat 32 missed.length
        mismatchRun := if hit then 0 else min ((s.side sd).dlt.mismatchRun + missed.length) 255
        matchRun := if hit then (if missed.length = 0 then min ((s.side sd).dlt.matchRun + 1) 30 else 1) else 0 } := by
  cases hit with
  | true =>
    simp only [countReturn, if_true, countMatch_dlt, mismatches_dlt sd missed s hr]
    by_cases h : missed.length = 0 <;> simp [h]
  | false =>
    have hne : missed.length ≠ 0 := Nat.one_le_iff_ne_zero.1 (hmiss rfl)
    simp [countReturn, mismatches_dlt sd missed s hr, hne]

/-! ### DISP_SIGNATURE (R95) -/

/-- Unless a hit takes the match run to 30, the mismatches alone decide the table. -/
theorem countReturn_table (h : hit = true → missed.length = 0 → (s.side sd).dlt.matchRun ≠ 29) :
    (countReturn sd missed hit s).table = (missed.foldl (fun s _ => countMismatch sd s) s).table := by
  cases hit with
  | false => rfl
  | true =>
    obtain ⟨kept, -, -⟩ := countMatch_record (missed.foldl (fun s _ => countMismatch sd s) s) sd
    refine kept ?_
    rw [mismatches_dlt sd missed s hr]
    dsimp only
    split
    next h0 => exact h rfl h0
    next => decide

theorem countReturn_record (h : hit = true → missed.length = 0 → (s.side sd).dlt.matchRun ≠ 29)
    (hl : s.cal.integrity.sigLimit ≤ 255) :
    findRecord (countReturn sd missed hit s).table .dispSignature (faultSideOf sd) =
      if 1 ≤ missed.length ∧ s.cal.integrity.sigLimit ≤ (s.side sd).dlt.mismatchRun + missed.length then
        findRecord (tableRaise s.table .dispSignature (faultSideOf sd)
          (BitVec.ofNat 16 (min 255 (max s.cal.integrity.sigLimit ((s.side sd).dlt.mismatchRun + 1)))) s.time)
          .dispSignature (faultSideOf sd)
      else findRecord s.table .dispSignature (faultSideOf sd) := by
  rw [countReturn_table hr h, mismatches_record sd missed s hr hl]

/-- The match leaves every record but those of DISP_SIGNATURE and CAPTURE_LOST. -/
theorem countReturn_record_other {c : FaultCode} (x : FaultSide) (h1 : c ≠ .captureLost) (h2 : c ≠ .dispSignature) :
    findRecord (countReturn sd missed hit s).table c x = findRecord s.table c x := by
  obtain ⟨-, -, -, kept⟩ := mismatches_rest sd missed s hr
  obtain ⟨same, -, cleared⟩ := countMatch_record (missed.foldl (fun s _ => countMismatch sd s) s) sd
  rw [← kept c x h1 h2]
  cases hit with
  | false => rfl
  | true =>
    by_cases h : ((missed.foldl (fun s _ => countMismatch sd s) s).side sd).dlt.matchRun = 29
    · exact (congrArg (findRecord · c x) (cleared h)).trans (findRecord_clear_other _ _ _ _ _ _ h2.symm)
    · exact congrArg (findRecord · c x) (same h)

end

/-- A hit without mismatches that takes the match run to 30 clears the record. -/
theorem countReturn_cleared {s : State} {sd : Side} {missed : List SentFrame} {hit : Bool} (hhit : hit = true)
    (h0 : missed.length = 0) (h29 : (s.side sd).dlt.matchRun = 29) :
    quietKey .dispSignature (faultSideOf sd) (countReturn sd missed hit s).table := by
  obtain rfl := List.length_eq_zero_iff.1 h0
  obtain ⟨-, -, cleared⟩ := countMatch_record s sd
  have htable : (countReturn sd [] hit s).table = tableClear s.table .dispSignature (faultSideOf sd) s.time := by
    rw [hhit]; exact cleared h29
  exact htable ▸ tableClear_quiet _ _ _ _

/-! ### The match from the state before it -/

section
variable {s : State} {sd : Side} {older rest : List SentFrame} {tag : Byte} {sig : BitVec 32} {misses : Nat}
  {hit : Bool} (hold : ∀ e ∈ older, e.tag ≠ tag) (hf : Finds (s.side sd).dlt.sent older rest tag sig misses hit)
include hold hf

theorem matchReturn_cleared (hhit : hit = true) (h0 : misses = 0) (h29 : (s.side sd).dlt.matchRun = 29) :
    quietKey .dispSignature (faultSideOf sd) (matchReturn sd tag sig s).table := by
  obtain ⟨missed, rfl, -, hmatch⟩ := matchReturn_eq_countReturn hold hf
  exact hmatch ▸ countReturn_cleared hhit h0 (by simpa using h29)

variable (hr : (s.side sd).dlt.mismatchRun ≤ 255)
include hr

theorem matchReturn_dlt :
    ((matchReturn sd tag sig s).side sd).dlt =
      { (s.side sd).dlt with
        sent := rest, sigMismatches := (s.side sd).dlt.sigMismatches + BitVec.ofNat 32 misses
        mismatchRun := if hit then 0 else min ((s.side sd).dlt.mismatchRun + misses) 255
        matchRun := if hit then (if misses = 0 then min ((s.side sd).dlt.matchRun + 1) 30 else 1) else 0 } := by
  obtain ⟨missed, rfl, hmiss, hmatch⟩ := matchReturn_eq_countReturn hold hf
  rw [hmatch, countReturn_dlt (by simpa using hr) hmiss, modDlt_side_dlt]

/-- R95: unless the match run reaches 30, DISP_SIGNATURE is raised where the run reaches SIG_LIMIT, and else left. -/
theorem matchReturn_record (h : hit = true → misses = 0 → (s.side sd).dlt.matchRun ≠ 29)
    (hl : s.cal.integrity.sigLimit ≤ 255) :
    findRecord (matchReturn sd tag sig s).table .dispSignature (faultSideOf sd) =
      if 1 ≤ misses ∧ s.cal.integrity.sigLimit ≤ (s.side sd).dlt.mismatchRun + misses then
        findRecord (tableRaise s.table .dispSignature (faultSideOf sd)
          (BitVec.ofNat 16 (min 255 (max s.cal.integrity.sigLimit ((s.side sd).dlt.mismatchRun + 1)))) s.time)
          .dispSignature (faultSideOf sd)
      else findRecord s.table .dispSignature (faultSideOf sd) := by
  obtain ⟨missed, rfl, -, hmatch⟩ := matchReturn_eq_countReturn hold hf
  rw [hmatch, countReturn_record (by simpa using hr) (by simpa using h) (by simpa using hl)]
  simp

theorem matchReturn_record_other {c : FaultCode} (x : FaultSide) (h1 : c ≠ .captureLost) (h2 : c ≠ .dispSignature) :
    findRecord (matchReturn sd tag sig s).table c x = findRecord s.table c x := by
  obtain ⟨missed, rfl, -, hmatch⟩ := matchReturn_eq_countReturn hold hf
  rw [hmatch, countReturn_record_other (by simpa using hr) x h1 h2, modDlt_table]

end

/-! ### A return in UP (R94, R96, R97) -/

theorem takeReturn_not_up {s : State} {sd : Side} (tag : Byte) (sig : BitVec 32) (a b flags : BitVec 16)
    (hu : (s.side sd).dlt.state ≠ .up) : takeReturn sd tag sig a b flags s = s := if_neg fun h => hu h.2

theorem takeReturn_up {s : State} {sd : Side} (tag : Byte) (sig : BitVec 32) (a b flags : BitVec 16)
    (hl : (s.side sd).dlt.locked = true) (hu : (s.side sd).dlt.state = .up) :
    takeReturn sd tag sig a b flags s = setBacklight sd a (monitorFlags sd a b flags (matchReturn sd tag sig s)) :=
  if_pos ⟨hl, hu⟩

theorem exec_frameReturn (sd : Side) (tag : Byte) (sig : BitVec 32) (a b flags : BitVec 16) (s : State) :
    exec (.frameReturn sd tag sig a b flags) s = .next (whileRunning (takeReturn sd tag sig a b flags) s) := rfl

theorem monitorFlags_dlt (s : State) (sd : Side) (a b flags : BitVec 16) :
    ((monitorFlags sd a b flags s).side sd).dlt = { (s.side sd).dlt with ambient := some a, actual := some b } := by
  unfold monitorFlags
  dsimp only
  split <;> simp

theorem setBacklight_dlt (s : State) (sd : Side) (a : BitVec 16) :
    ((setBacklight sd a s).side sd).dlt =
      { (s.side sd).dlt with blCommand := backlightCommand s.cal.image (s.side sd).expo.dayNight (s.side sd).dlt.pref
                               a.toNat } := modDlt_side_dlt _ _ _

@[simp] theorem setBacklight_table (s : State) (sd : Side) (a : BitVec 16) : (setBacklight sd a s).table = s.table :=
  modDlt_table _ _ _

section
variable {s : State} {sd : Side} (tag : Byte) (sig : BitVec 32) (a b flags : BitVec 16)
  (hl : (s.side sd).dlt.locked = true) (hu : (s.side sd).dlt.state = .up)
include hl hu

/-- The DLT after the match takes the readings and the command, by the mode and the calibration of before. -/
theorem takeReturn_dlt :
    ((takeReturn sd tag sig a b flags s).side sd).dlt =
      { ((matchReturn sd tag sig s).side sd).dlt with
        ambient := some a, actual := some b
        blCommand := backlightCommand s.cal.image (s.side sd).expo.dayNight
                       ((matchReturn sd tag sig s).side sd).dlt.pref a.toNat } := by
  have acts : Acts displayTouch s (monitorFlags sd a b flags (matchReturn sd tag sig s)) :=
    monitorFlags_acts rfl sd a b flags (matchReturn_acts rfl sd tag sig .refl)
  rw [takeReturn_up tag sig a b flags hl hu, setBacklight_dlt, acts.cal_eq, acts.expo_eq rfl, monitorFlags_dlt]

/-- After the match nothing touches DISP_SIGNATURE. -/
theorem takeReturn_signature (x : FaultSide) :
    findRecord (takeReturn sd tag sig a b flags s).table .dispSignature x
      = findRecord (matchReturn sd tag sig s).table .dispSignature x := by
  obtain ⟨others, -, -⟩ := monitorFlags_record (matchReturn sd tag sig s) sd a b flags
  rw [takeReturn_up tag sig a b flags hl hu, setBacklight_table]
  exact others _ x (by decide) (by decide)

theorem takeReturn_monitor_raised (h : flags ≠ 0) :
    findRecord (takeReturn sd tag sig a b flags s).table .monitorFault (faultSideOf sd)
      = findRecord (tableRaise (matchReturn sd tag sig s).table .monitorFault (faultSideOf sd) flags s.time)
          .monitorFault (faultSideOf sd) := by
  obtain ⟨-, raised, -⟩ := monitorFlags_record (matchReturn sd tag sig s) sd a b flags
  have acts : Acts displayTouch s (matchReturn sd tag sig s) := matchReturn_acts rfl sd tag sig .refl
  rw [takeReturn_up tag sig a b flags hl hu, setBacklight_table, raised h, acts.time_eq rfl]

theorem takeReturn_monitor_cleared (h : flags = 0) :
    quietKey .monitorFault (faultSideOf sd) (takeReturn sd tag sig a b flags s).table := by
  obtain ⟨-, -, cleared⟩ := monitorFlags_record (matchReturn sd tag sig s) sd a b flags
  rw [takeReturn_up tag sig a b flags hl hu, setBacklight_table, cleared h]
  exact tableClear_quiet _ _ _ _

end

/-- R97: the command is the level that preference and night cap give, and at least the floor. -/
theorem backlightCommand_eq (k : ImageCal) (mode : DayNight) (pref a : Nat) :
    backlightCommand k mode pref a =
      max (if mode = .night then min (curveLevel k.curve a * pref / 100) k.blNightMax
        else curveLevel k.curve a * pref / 100) k.blMin := rfl

/-! ### The curve (R97) -/

theorem curveLevel_cons (p : CurvePoint) (pts : List CurvePoint) (a : Nat) :
    curveLevel (p :: pts) a = if a ≤ p.lux then p.level else curveSegment a (p :: pts) := rfl

/-- The level between two points as R97 computes it, with its division toward minus infinity. -/
def interpolate (p q : CurvePoint) (a : Nat) : Int :=
  p.level + (((q.level : Int) - p.level) * ((a : Int) - p.lux)) / ((q.lux : Int) - p.lux)

theorem interpolate_left {p : CurvePoint} (q : CurvePoint) {a : Nat} (h : a = p.lux) : interpolate p q a = p.level := by
  simp [interpolate, h]

theorem interpolate_bounds {p q : CurvePoint} {a : Nat} (hp : p.lux ≤ a) (hq : a < q.lux) :
    min (p.level : Int) q.level ≤ interpolate p q a ∧ interpolate p q a ≤ max (p.level : Int) q.level := by
  have hpos : (0 : Int) < (q.lux : Int) - p.lux := by omega
  have hn : (0 : Int) ≤ (a : Int) - p.lux := by omega
  have hnd : (a : Int) - p.lux ≤ (q.lux : Int) - p.lux := by omega
  unfold interpolate
  generalize (a : Int) - p.lux = n at *
  generalize (q.lux : Int) - p.lux = d at *
  obtain h | h := le_total (p.level : Int) q.level
  · have hlow : 0 ≤ ((q.level : Int) - p.level) * n / d :=
      Int.ediv_nonneg (mul_nonneg (by omega) hn) hpos.le
    have hhigh : ((q.level : Int) - p.level) * n / d ≤ (q.level : Int) - p.level :=
      Int.ediv_le_of_le_mul hpos (mul_le_mul_of_nonneg_left hnd (by omega))
    omega
  · have hlow : (q.level : Int) - p.level ≤ ((q.level : Int) - p.level) * n / d :=
      Int.le_ediv_of_mul_le hpos (mul_le_mul_of_nonpos_left hnd (by omega))
    have hhigh : ((q.level : Int) - p.level) * n / d ≤ 0 :=
      Int.ediv_le_of_le_mul hpos (by rw [zero_mul]; exact mul_nonpos_of_nonpos_of_nonneg (by omega) hn)
    omega

theorem curveSegment_here {p q : CurvePoint} (rest : List CurvePoint) {a : Nat} (hp : p.lux ≤ a) (hq : a < q.lux) :
    (curveSegment a (p :: q :: rest) : Int) = interpolate p q a := by
  have hnonneg : 0 ≤ interpolate p q a := by
    have := (interpolate_bounds hp hq).1
    omega
  rw [curveSegment, if_pos ⟨hp, hq⟩, Int.fdiv_eq_ediv_of_nonneg _ (by omega)]
  exact Int.toNat_of_nonneg hnonneg

theorem curveSegment_later {p q : CurvePoint} (rest : List CurvePoint) {a : Nat} (hq : q.lux ≤ a) :
    curveSegment a (p :: q :: rest) = curveSegment a (q :: rest) := by
  rw [curveSegment, if_neg fun h => absurd h.2 (Nat.not_lt.2 hq)]

theorem head_lux_le {x : CurvePoint} {tail : List CurvePoint} (h : (x :: tail).Pairwise fun p q => p.lux < q.lux)
    {p : CurvePoint} (hp : p ∈ x :: tail) : x.lux ≤ p.lux := by
  obtain rfl | hmem := List.mem_cons.1 hp
  · exact le_rfl
  · exact ((List.pairwise_cons.1 h).1 p hmem).le

/-- Along rising points the segment is the one that holds the reading. -/
theorem curveSegment_between {pts : List CurvePoint} (hpts : pts.Pairwise fun p q => p.lux < q.lux) {i a : Nat}
    {p q : CurvePoint} (hi : pts[i]? = some p) (hi' : pts[i + 1]? = some q) (hp : p.lux ≤ a) (hq : a < q.lux) :
    (curveSegment a pts : Int) = interpolate p q a := by
  induction pts generalizing i with
  | nil => simp at hi
  | cons x tail ih =>
    obtain ⟨-, htail⟩ := List.pairwise_cons.1 hpts
    cases tail with
    | nil => simp at hi'
    | cons y rest =>
      cases i with
      | zero =>
        obtain rfl : x = p := by simpa using hi
        obtain rfl : y = q := by simpa using hi'
        exact curveSegment_here rest hp hq
      | succ i =>
        have hi : (y :: rest)[i]? = some p := by simpa using hi
        rw [curveSegment_later rest ((head_lux_le htail (List.mem_of_getElem? hi)).trans hp)]
        exact ih htail hi (by simpa using hi')

theorem curveSegment_past {pts : List CurvePoint} (hpts : pts.Pairwise fun p q => p.lux < q.lux) {p : CurvePoint}
    {a : Nat} (hlast : pts.getLast? = some p) (hp : p.lux ≤ a) : curveSegment a pts = p.level := by
  induction pts with
  | nil => simp at hlast
  | cons x tail ih =>
    obtain ⟨-, htail⟩ := List.pairwise_cons.1 hpts
    cases tail with
    | nil =>
      obtain rfl : x = p := by simpa using hlast
      rfl
    | cons y rest =>
      have hlast : (y :: rest).getLast? = some p := by simpa using hlast
      rw [curveSegment_later rest ((head_lux_le htail (List.mem_of_getLast? hlast)).trans hp)]
      exact ih htail hlast

theorem curveLevel_first {pts : List CurvePoint} {p : CurvePoint} {a : Nat} (hhead : pts.head? = some p)
    (ha : a ≤ p.lux) : curveLevel pts a = p.level := by
  obtain ⟨tail, rfl⟩ := List.head?_eq_some_iff.1 hhead
  rw [curveLevel_cons, if_pos ha]

theorem curveLevel_last {pts : List CurvePoint} (hpts : pts.Pairwise fun p q => p.lux < q.lux) {p : CurvePoint}
    {a : Nat} (hlast : pts.getLast? = some p) (ha : p.lux ≤ a) : curveLevel pts a = p.level := by
  cases pts with
  | nil => simp at hlast
  | cons x tail =>
    rw [curveLevel_cons, curveSegment_past hpts hlast ha]
    split
    next h =>
      obtain rfl | hmem := List.mem_cons.1 (List.mem_of_getLast? hlast)
      · rfl
      · exact absurd ((List.pairwise_cons.1 hpts).1 p hmem) (Nat.not_lt.2 (ha.trans h))
    next => rfl

theorem curveLevel_between {pts : List CurvePoint} (hpts : pts.Pairwise fun p q => p.lux < q.lux) {i a : Nat}
    {p q : CurvePoint} (hi : pts[i]? = some p) (hi' : pts[i + 1]? = some q) (hp : p.lux ≤ a) (hq : a < q.lux) :
    (curveLevel pts a : Int) = interpolate p q a := by
  cases pts with
  | nil => simp at hi
  | cons x tail =>
    rw [curveLevel_cons]
    split
    next h =>
      obtain rfl | hmem := List.mem_cons.1 (List.mem_of_getElem? hi)
      · exact (interpolate_left q (le_antisymm h hp)).symm
      · exact absurd ((List.pairwise_cons.1 hpts).1 p hmem) (Nat.not_lt.2 (hp.trans h))
    next => exact curveSegment_between hpts hi hi' hp hq

/-- Settles O42: the return outside UP, the DLT and the two records after one in UP, and the curve by its points. -/
theorem frameReturnTaken : Obligations.FrameReturnTaken := by
  refine ⟨?discarded, ?taken, ?curve⟩
  case discarded =>
    intro s sd tag sig a b flags hu
    rw [exec_frameReturn, whileRunning, takeReturn_not_up tag sig a b flags hu, ite_self]
  case curve =>
    intro pts a hpts
    refine ⟨fun p => curveLevel_first, fun p => curveLevel_last hpts, fun i p q hi hi' hp hq => ?_⟩
    have hlevel := curveLevel_between hpts hi hi' hp hq
    obtain ⟨hlow, hhigh⟩ := interpolate_bounds hp hq
    exact ⟨hlevel, by omega, by omega⟩
  case taken =>
    rintro s sd tag sig a b flags d older rest k misses hit hrun rfl hu hl hr rfl hsig hold hf
    have signature := takeReturn_signature tag sig a b flags hl hu (faultSideOf sd)
    have record := fun h => signature.trans (matchReturn_record hold hf hr h hsig)
    rw [exec_frameReturn, whileRunning_running _ _ hrun]
    refine ⟨_, _, rfl, ?dlt, rfl, ?raised, ?left, ?cleared, ?steady, ?flagged, ?unflagged,
      fun x => takeReturn_frame s sd x tag sig a b flags rfl⟩
    case dlt =>
      rw [takeReturn_dlt tag sig a b flags hl hu, matchReturn_dlt hold hf hr, backlightCommand_eq]
    case raised =>
      intro h1 hlim
      rw [record fun _ h0 => by omega, if_pos ⟨h1, hlim⟩]
      exact ⟨findRecord_raise_some _ _ _ _ _, rfl⟩
    case left =>
      intro h1 hlim
      rw [record fun _ h0 => by omega, if_neg (by omega)]
    case cleared =>
      intro hhit h0 h29
      rw [signature]
      exact matchReturn_cleared hold hf hhit h0 h29
    case steady =>
      intro hhit h0 h29
      rw [record fun _ _ => h29, if_neg (by omega)]
    case flagged =>
      intro hflags
      have monitor := (takeReturn_monitor_raised tag sig a b flags hl hu hflags).trans
        (findRecord_raise_congr _ _ _ _ _ _ (matchReturn_record_other hold hf hr _ (by decide) (by decide)))
      rw [monitor]
      exact ⟨findRecord_raise_some _ _ _ _ _, rfl⟩
    case unflagged => exact takeReturn_monitor_cleared tag sig a b flags hl hu

end Sys2Proof.Machine

/-! PROOF. The fields of SET_VEHICLE_STATE as sent and as clamped (R102, 11 section 11.3), and O17 from them. -/

namespace Sys2Proof.Machine

/-! ### The fields as sent -/

theorem flagOfParam_byte {b : Byte} (h : b.toNat ≤ 1) : flagOfParam b.toNat = some (decide (b = 1)) := by
  have hb : b = 0 ∨ b = 1 := by bv_omega
  obtain rfl | rfl := hb <;> rfl

theorem flagOfParam_eq_none {v : Nat} (h : 1 < v) : flagOfParam v = none := by
  unfold flagOfParam
  split
  case h_3 => rfl
  all_goals omega

theorem signedOf16_toNat (w : BitVec 16) : signedOf16 w.toNat = w.toInt := by
  rw [signedOf16, BitVec.ofNat_toNat, BitVec.setWidth_eq]

section
variable (m v0 v1 a0 a1 rev per : Byte)

theorem present_cons (ps : List Byte) (bit : Nat) : present (m :: ps) bit = m.getLsbD bit := rfl

theorem sentSpeed_eq :
    sentSpeed [m, v0, v1, a0, a1, rev, per] = if m.getLsbD 0 then some (v0 ++ v1).toNat else none := by
  have hword : field [m, v0, v1, a0, a1, rev, per] 1 2 = (v0 ++ v1).toNat :=
    (field_eq _ _ _ (by simp)).trans (natOfBytes_pair v0 v1)
  rw [sentSpeed, present_cons, hword]

theorem sentAngle_eq :
    sentAngle [m, v0, v1, a0, a1, rev, per] = if m.getLsbD 1 then some (a0 ++ a1).toInt else none := by
  have hword : field [m, v0, v1, a0, a1, rev, per] 3 2 = (a0 ++ a1).toNat :=
    (field_eq _ _ _ (by simp)).trans (natOfBytes_pair a0 a1)
  rw [sentAngle, present_cons, hword, signedOf16_toNat]

variable {m} {ps : List Byte} {bit place : Nat} {b : Byte} (hb : param (m :: ps) place = b.toNat)
include hb

/-- A boolean field that is absent, or coded as FALSE or TRUE. -/
theorem sentFlag_valid (h : m.getLsbD bit = true → b.toNat ≤ 1) :
    sentFlag (m :: ps) bit place = some (if m.getLsbD bit then some (decide (b = 1)) else none) := by
  rw [sentFlag, present_cons, hb]
  split
  next hp => rw [flagOfParam_byte (h hp)]; rfl
  next => rfl

theorem sentFlag_invalid (hp : m.getLsbD bit = true) (h : 1 < b.toNat) : sentFlag (m :: ps) bit place = none := by
  rw [sentFlag, present_cons, if_pos hp, hb, flagOfParam_eq_none h]; rfl

end

/-! ### The fields as clamped -/

/-- A clamp of an optional field changes it where the field is present and its value changes. -/
theorem map_ite_some_ne_iff {α : Type} (c : Bool) (x : α) (f : α → α) :
    (if c then some x else none).map f ≠ (if c then some x else none) ↔ c = true ∧ f x ≠ x := by
  cases c <;> simp

theorem speedClamp_ne_iff (c : Bool) (x : Nat) :
    (if c then some x else none).map (min · 250) ≠ (if c then some x else none) ↔ c = true ∧ 250 < x := by
  rw [map_ite_some_ne_iff, ne_eq, min_eq_left_iff, not_le]

theorem angleClamp_ne_iff (c : Bool) (a : Int) :
    (if c then some a else none).map (clampInt · (-180) 180) ≠ (if c then some a else none)
      ↔ c = true ∧ (a < -180 ∨ 180 < a) := by
  have hclamp : clampInt a (-180) 180 ≠ a ↔ a < -180 ∨ 180 < a := by
    rw [clampInt_eq a _ _ (by decide)]
    omega
  rw [map_ite_some_ne_iff, hclamp]

theorem okIf_decide {P Q : Prop} [Decidable P] [Decidable Q] (h : P ↔ Q) :
    okIf (decide P) = if Q then .okClamped else .ok := by
  simp only [okIf, decide_eq_true_iff, h]

/-! ### The request -/

section
variable (m v0 v1 a0 a1 rev per : Byte)

/-- The record that the seven bytes of a request without a wrong boolean make (R102 steps 2 to 5). -/
def recordOfBytes : Vehicle :=
  takenRecord
    (if m.getLsbD 0 then some (v0 ++ v1).toNat else none) (if m.getLsbD 1 then some (a0 ++ a1).toInt else none)
    (if m.getLsbD 2 then some (decide (rev = 1)) else none) (if m.getLsbD 3 then some (decide (per = 1)) else none)

theorem recordOfBytes_speed :
    (recordOfBytes m v0 v1 a0 a1 rev per).speed = if m.getLsbD 0 then some (min (v0 ++ v1).toNat 250) else none :=
  apply_ite (Option.map (min · 250)) _ _ _

theorem recordOfBytes_angle :
    (recordOfBytes m v0 v1 a0 a1 rev per).angle
      = if m.getLsbD 1 then some (max (-180) (min (a0 ++ a1).toInt 180)) else none := by
  rw [← clampInt_eq _ _ _ (by decide)]
  exact apply_ite (Option.map (clampInt · (-180) 180)) _ _ _

theorem recordOfBytes_lastPermission :
    (recordOfBytes m v0 v1 a0 a1 rev per).lastPermission = (!m.getLsbD 3 || decide (per = 1)) := by
  unfold recordOfBytes
  cases m.getLsbD 3 <;> rfl

variable {m rev per}

/-- R102 steps 2 to 8: OK_CLAMPED tells of a present speed or angle out of its range. -/
theorem setVehicleState_accepted (s : State) (hrev : m.getLsbD 2 = true → rev.toNat ≤ 1)
    (hper : m.getLsbD 3 = true → per.toNat ≤ 1) :
    setVehicleState [m, v0, v1, a0, a1, rev, per] s
      = (storeRecord (recordOfBytes m v0 v1 a0 a1 rev per) s,
          plain (if (m.getLsbD 0 = true ∧ 250 < (v0 ++ v1).toNat)
              ∨ (m.getLsbD 1 = true ∧ ((a0 ++ a1).toInt < -180 ∨ 180 < (a0 ++ a1).toInt))
            then .okClamped else .ok)) := by
  have hreverse := sentFlag_valid (ps := [v0, v1, a0, a1, rev, per]) (place := 5) rfl hrev
  have hpermitted := sentFlag_valid (ps := [v0, v1, a0, a1, rev, per]) (place := 6) rfl hper
  simp only [setVehicleState, hreverse, hpermitted, sentSpeed_eq, sentAngle_eq]
  rw [← okIf_decide (or_congr (speedClamp_ne_iff _ _) (angleClamp_ne_iff _ _))]
  rfl

/-- R102 step 1. -/
theorem setVehicleState_refused (s : State)
    (h : (m.getLsbD 2 = true ∧ 1 < rev.toNat) ∨ (m.getLsbD 3 = true ∧ 1 < per.toNat)) :
    setVehicleState [m, v0, v1, a0, a1, rev, per] s = (s, plain .refusedParam) := by
  unfold setVehicleState
  split
  next hr hp =>
    obtain ⟨hm, hbad⟩ | ⟨hm, hbad⟩ := h
    · exact absurd ((sentFlag_invalid (b := rev) rfl hm hbad).symm.trans hr) nofun
    · exact absurd ((sentFlag_invalid (b := per) rfl hm hbad).symm.trans hp) nofun
  next => rfl

end

theorem storeRecord_eq (v : Vehicle) (s : State) :
    storeRecord v s = (fun u : State => if v.speed = some 0 then u else clearTest .right (clearTest .left u))
      { s with vehicle := v, table := tableClear s.table .vehicleStale .common s.time } := rfl

/-- What a port takes of SET_VEHICLE_STATE (R102, R163). -/
theorem exec_setVehicleState {s t : State} {p : Port} {ps : List Byte} {st : Status} (tag : BitVec 4)
    (h : Reaches s p .setVehicleState) (hl : lengthOk .setVehicleState ps.length = true)
    (hset : setVehicleState ps s = (t, plain st)) :
    exec (.setVehicleState p tag ps) s = .next (answered p .setVehicleState tag st [] t) := by
  have htake := takeRequest_reaches s p .setVehicleState tag ps (setVehicleState ps) h hl
  rw [hset] at htake
  exact congrArg Host.Outcome.next htake

/-- Settles O17: the record is the one that the request's bytes make, and a boolean of neither value refuses them. -/
theorem setVehicleStateReplacesRecord : Obligations.SetVehicleStateReplacesRecord := by
  intro s p tag m v0 v1 a0 a1 rev per hreach
  refine ⟨fun ⟨hrev, hper⟩ => ?accepted, fun h => ?refused⟩
  case accepted =>
    refine ⟨recordOfBytes m v0 v1 a0 a1 rev per, rfl, rfl, recordOfBytes_speed .., recordOfBytes_angle .., rfl, rfl,
      recordOfBytes_lastPermission .., ?_⟩
    rw [← storeRecord_eq]
    exact exec_setVehicleState tag hreach rfl (setVehicleState_accepted v0 v1 a0 a1 s hrev hper)
  case refused => exact exec_setVehicleState tag hreach rfl (setVehicleState_refused v0 v1 a0 a1 s h)

end Sys2Proof.Machine

/-! PROOF. The checks of a received frame one by one (R162, 11 section 11.3), and O12 from them. -/

namespace Sys2Proof.Machine

/-! ### The checks -/

theorem requestOfByte_eq_none_iff {b : Byte} : requestOfByte b = none ↔ ∀ c ∈ requestCodes, codeByte c ≠ b := by
  simp [requestOfByte]

section
variable {bs : List Byte} {n : Nat}

theorem frameFault_length (hn : n = (bs.getD 2 0).toNat) (h : bs.length < 3 ∨ 240 < n) :
    frameFault bs = some .length := by
  subst hn
  exact if_pos h

theorem frameFault_short (hn : n = (bs.getD 2 0).toNat) (h3 : 3 ≤ bs.length) (hle : n ≤ 240)
    (h : bs.length < 4 + n) : frameFault bs = some .short := by
  subst hn
  exact (if_neg (by omega)).trans (if_pos h)

/-- A frame whose bytes are all there passes LENGTH and SHORT; its CRC and its code decide. -/
theorem frameFault_complete (hn : n = (bs.getD 2 0).toNat) (hlen : 4 + n ≤ bs.length) (hle : n ≤ 240) :
    frameFault bs =
      if crc8 (bs.take (3 + n)) ≠ bs.getD (3 + n) 0 then some .crc
      else if (requestOfByte (bs.getD 0 0)).isNone then some .code else none := by
  subst hn
  exact (if_neg (by omega)).trans (if_neg (by omega))

theorem frameFault_crc (hn : n = (bs.getD 2 0).toNat) (hlen : 4 + n ≤ bs.length) (hle : n ≤ 240)
    (h : crc8 (bs.take (3 + n)) ≠ bs.getD (3 + n) 0) : frameFault bs = some .crc :=
  (frameFault_complete hn hlen hle).trans (if_pos h)

theorem frameFault_code (hn : n = (bs.getD 2 0).toNat) (hlen : 4 + n ≤ bs.length) (hle : n ≤ 240)
    (hcrc : crc8 (bs.take (3 + n)) = bs.getD (3 + n) 0) (h : ∀ c ∈ requestCodes, codeByte c ≠ bs.getD 0 0) :
    frameFault bs = some .code := by
  have hnone : requestOfByte (bs.getD 0 0) = none := requestOfByte_eq_none_iff.mpr h
  rw [frameFault_complete hn hlen hle, if_neg (not_not.mpr hcrc), hnone]
  rfl

end

/-! ### The reply -/

/-- What a port takes of a frame that fails a check (R162). -/
theorem exec_badFrame {s : State} {p : Port} {bs : List Byte} {reason : BadReason} (htxn : (s.port p).txn = .onReady)
    (hfault : frameFault bs = some reason) :
    exec (.badFrame p bs) s = .next (s.modPort p fun x =>
      { x with txn := .none, shiftOut := [], slot := .preparing (some (badFrameReply reason bs)) }) := by
  have htake : takeBadFrame p bs s = prepareReply p (badFrameReply reason bs) (endTransaction p s) := by
    simp only [takeBadFrame, htxn, hfault]
  exact congrArg Host.Outcome.next (htake.trans (modPort_modPort ..))

/-- Settles O12: each range of its hypothesis is the failure of one check, those before it passed. (The name
`badFrameReply` is the model's, for the reply itself.) -/
theorem badFrameReply_of_firstFailure : Obligations.BadFrameReply := by
  intro s p bs n htxn hn reason hcheck
  obtain ⟨hlength, rfl⟩ | ⟨h3, hle, hshort, rfl⟩ | ⟨hlen, hle, hcrc, rfl⟩ | ⟨hlen, hle, hcrc, hcode, rfl⟩ := hcheck
  · exact exec_badFrame htxn (frameFault_length hn hlength)
  · exact exec_badFrame htxn (frameFault_short hn h3 hle hshort)
  · exact exec_badFrame htxn (frameFault_crc hn hlen hle hcrc)
  · exact exec_badFrame htxn (frameFault_code hn hlen hle hcrc hcode)

end Sys2Proof.Machine


/-! PROOF. What a step, a reset, a request and a frame completion keep: a predicate is kept by the whole where each
part keeps it. -/

namespace Sys2Proof.Machine

/-- A predicate that commands and the queue keep is kept by every step. -/
theorem step_keeps {Q : State → Prop} (hqueue : ∀ s l, Q s → Q { s with pending := l })
    (hexec : ∀ c s t, exec c s = .next t → Q s → Q t) {s t : State} (h : step s = .next t) (hs : Q s) : Q t := by
  obtain ⟨-, rfl⟩ | ⟨c, rest, -, hc⟩ := step_cases s t h
  · exact hs
  · exact hexec c _ t hc (hqueue s rest hs)

theorem loadParts_keeps {Q : State → Prop} (hpart : ∀ s, Q s → Q (loadPart s)) (n : Nat) {s : State} (hs : Q s) :
    Q (loadParts n s) := by
  induction n generalizing s with
  | zero => exact hs
  | succ n ih => exact ih (hpart s hs)

theorem load_keeps {Q : State → Prop} (hpart : ∀ s, Q s → Q (loadPart s)) (hpause : ∀ s l, Q s → Q { s with pauses := l })
    {s : State} (hs : Q s) : Q (load s) := by
  have hgo : Q (loadParts (takePause s).1 (takePause s).2) := by
    refine loadParts_keeps hpart _ ?_
    obtain h | ⟨l, h⟩ := takePause_state s
    · rw [h]; exact hs
    · rw [h]; exact hpause s l hs
  unfold load
  split
  · exact hs
  all_goals exact hgo

/-- What RESTART does: it is taken, or it is a refused request. -/
theorem restart_cases (p : Port) (tag : BitVec 4) (ps : List Byte) (s : State) :
    restart p tag ps s = takeRestart p s ∨ Acts requestTouch s (restart p tag ps s) := by
  unfold restart
  split
  · exact .inl rfl
  · exact .inr (Acts.readRequest rfl ..)

/-- A predicate that survives what a chain of port acts, a power-on, a RESTART and each part of a load do survives the
resets and the load. -/
theorem reset_keeps {Q : State → Prop} (hacts : ∀ s t, Acts requestTouch s t → Q s → Q t)
    (hpower : ∀ s, Q s → Q (powerOn s)) (hrestart : ∀ s p, Q s → Q (takeRestart p s))
    (hpart : ∀ s, Q s → Q (loadPart s)) {c : Instr} (hc : isReset c = true) {s t : State} (h : exec c s = .next t)
    (hs : Q s) : Q t := by
  cases c <;> first | exact absurd hc Bool.false_ne_true | skip
  case powerOnReset => injection h with h; exact h ▸ hpower s hs
  case load =>
    injection h with h
    exact h ▸ load_keeps hpart (fun s l hs => hacts s _ (.pause l .refl) hs) hs
  case restart p tag ps =>
    injection h with h
    subst h
    obtain h | h := restart_cases p tag ps s
    · exact h ▸ hrestart s p hs
    · exact hacts _ _ h hs

/-- Stage after stage keeps what the work of each stage and the move to the next keep. -/
theorem runStages_keeps {Q : State → Prop} {sd : Side} (hwork : ∀ s c, Q s → Q (stageWork sd c s).1)
    (hmove : ∀ s r, Q s → Q (s.modSide sd fun x => { x with running := r })) (n : Nat) {s : State} (hs : Q s) :
    Q (runStages sd n s) := by
  induction n generalizing s with
  | zero => exact hs
  | succ n ih =>
    unfold runStages
    split
    · exact hs
    · exact ih (hmove _ _ (hwork _ _ hs))

theorem runCompletion_keeps {Q : State → Prop} {sd : Side} (hacts : ∀ s t, Acts { inputs := true } s t → Q s → Q t)
    (hwork : ∀ s c, Q s → Q (stageWork sd c s).1) {s : State} (hs : Q s) : Q (runCompletion sd s) := by
  have hstart : Q (startCompletion sd s) := hacts _ _ (startCompletion_acts rfl sd .refl) hs
  unfold runCompletion
  dsimp only
  split
  · exact hstart
  · refine runStages_keeps hwork (fun s r h => hacts _ _ (.inputs rfl sd _ (fun _ => rfl) .refl) h) _ ?_
    exact hacts _ _ (Acts.takePause .refl) hstart

theorem whileRunning_keeps {Q : State → Prop} {f : State → State} (hf : ∀ s, Q s → Q (f s)) {s : State} (hs : Q s) :
    Q (whileRunning f s) := by
  unfold whileRunning
  split
  · exact hf s hs
  · exact hs

/-- A request keeps what its owning block and the port acts keep. -/
theorem takeRequest_keeps {Q : State → Prop} (hacts : ∀ s t, Acts requestTouch s t → Q s → Q t)
    {body : State → State × Answer} (hbody : ∀ s, Q s → Q (body s).1) (p : Port) (c : RequestCode) (tag : BitVec 4)
    (ps : List Byte) {s : State} (hs : Q s) : Q (takeRequest p c tag ps body s) := by
  have hex : Q (examine p c ps body s).1 := by
    unfold examine
    split
    · exact hs
    · split
      · exact hs
      · exact hbody s hs
  unfold takeRequest
  split
  · exact hs
  · exact hacts _ _ (Acts.endTransaction rfl p .refl) hs
  · exact hacts _ _ (Acts.endTransaction rfl p .refl) hs
  · exact hacts _ _ (Acts.prepareReply rfl p _ (Acts.endTransaction rfl p .refl)) hex

end Sys2Proof.Machine


/-! PROOF. The fault table and the views through every command (R74 to R78, R80, R113 to R117), and O56 from them. -/

namespace Sys2Proof.Machine

/-- Both sides' VALID lines and TEST flags are sound (R78, R80). -/
abbrev ViewsSound (s : State) : Prop := ∀ x, ViewSound s x ∧ TestSound s x

theorem Acts.viewsSound {b : Touch} {s0 s : State} (hb : b.view = false) (h : Acts b s0 s) (h0 : ViewsSound s0) :
    ViewsSound s := fun x => ⟨h.viewSound hb x (h0 x).1, h.testSound hb x (h0 x).2⟩

/-- A change of the composer that leaves the view state, and of the table that makes no side invalid. -/
theorem viewsSound_of_state {s t : State} (hview : ∀ x, (t.side x).view.state = (s.side x).view.state)
    (htest : ∀ x, (t.side x).testFlag = (s.side x).testFlag)
    (htable : ∀ x, viewLossActive s.table x = false → viewLossActive t.table x = false) (hs : ViewsSound s) :
    ViewsSound t := by
  intro x
  obtain ⟨hvalid, hflag⟩ := hs x
  refine ⟨fun hl => htable x (hvalid ?_), ?_⟩
  · rwa [validLine_congr s t x (hview x)] at hl
  · rw [TestSound, htest, hview]
    exact hflag

theorem modView_state_of_side {s : State} {sd : Side} {f : Composer → Composer} (hf : ∀ y, (f y).state = y.state)
    (x : Side) : ((s.modView sd f).side x).view.state = (s.side x).view.state := by
  obtain rfl | rfl := side_eq_or_other sd x
  · simp [hf]
  · simp

theorem modView_viewsSound {s : State} {sd : Side} {f : Composer → Composer} (hf : ∀ y, (f y).state = y.state)
    (hs : ViewsSound s) : ViewsSound (s.modView sd f) :=
  viewsSound_of_state (modView_state_of_side hf) (by simp) (by simp) hs

theorem sendRaise_viewsSound {s : State} (c : FaultCode) (sd : FaultSide) (d : BitVec 16) (hs : ViewsSound s) :
    ViewsSound (sendRaise c sd d s) :=
  fun x => ⟨sendRaise_view s c sd d x (hs x).1, by
    rw [TestSound, sendRaise_testFlag, (hs x).2]
    exact decide_eq_decide.mpr (Iff.of_eq (sendRaise_test s c sd d x).symm)⟩

/-- A change of the view state between states other than TEST, to a valid one only on a valid side. -/
theorem changeView_viewsSound {s : State} {sd : Side} {v : ViewState} (hv : v ≠ .test)
    (hfrom : (s.side sd).view.state ≠ .test) (hloss : v = .live ∨ v = .holding → viewLossActive s.table sd = false)
    (hs : ViewsSound s) : ViewsSound (changeView sd v s) := by
  intro x
  obtain rfl | rfl := side_eq_or_other sd x
  · obtain ⟨-, hflag⟩ := hs x
    refine ⟨fun hl => ?_, ?_⟩
    · rw [changeView_table]
      refine hloss ?_
      simp only [validLine, changeView_state] at hl
      split at hl <;> simp_all
    · simpa [TestSound, changeView_state, hv, hfrom] using hflag
  · obtain ⟨hvalid, hflag⟩ := hs (otherSide sd)
    have hview := changeView_other s sd (otherSide sd) v (otherSide_ne sd)
    refine ⟨fun hl => ?_, ?_⟩
    · rw [changeView_table]
      exact hvalid (by rwa [validLine_congr s _ _ (congrArg Composer.state hview)] at hl)
    · rw [TestSound, changeView_testFlag, hview]
      exact hflag

theorem enterInvalid_viewsSound {s : State} {sd : Side} (hfrom : (s.side sd).view.state ≠ .test) (hs : ViewsSound s) :
    ViewsSound (enterInvalid sd s) :=
  modView_viewsSound (fun _ => rfl) (changeView_viewsSound (by decide) hfrom (by simp) hs)

theorem takeLive_viewsSound {s : State} {sd : Side} (hfrom : (s.side sd).view.state ≠ .test)
    (hloss : viewLossActive s.table sd = false) (hs : ViewsSound s) : ViewsSound (takeLive sd s) :=
  modView_viewsSound (fun _ => rfl) (changeView_viewsSound (by decide) hfrom (fun _ => hloss) hs)

theorem raiseStale_viewsSound {s : State} {sd : Side} (d : BitVec 16) (hs : ViewsSound s) :
    ViewsSound (raiseStale sd d s) := sendRaise_viewsSound _ _ _ (modView_viewsSound (fun _ => rfl) hs)

theorem decideStarting_viewsSound {s : State} {sd : Side} (hst : (s.side sd).view.state = .starting) (hs : ViewsSound s) :
    ViewsSound (decideStarting sd s).1 := by
  have hfrom : (s.side sd).view.state ≠ .test := by rw [hst]; decide
  unfold decideStarting
  dsimp only
  split
  · exact enterInvalid_viewsSound hfrom hs
  next hloss =>
    split
    · exact takeLive_viewsSound hfrom (by simpa using hloss) hs
    · split
      · exact raiseStale_viewsSound _ (enterInvalid_viewsSound hfrom hs)
      · exact modView_viewsSound (fun _ => rfl) hs

/-- Step 2 in LIVE and HOLDING without a newer frame, the held count after it by name (R75). -/
theorem decideShowing_held {s : State} {sd : Side} {held : Nat} (hnew : newerFrame (s.side sd).view = false)
    (hheld : held = (if (s.side sd).view.state = .live then 0 else (s.side sd).view.heldCount) + 1) :
    decideShowing sd s =
      if s.cal.integrity.holdLimit ≤ held then
        (raiseStale sd 0 (enterInvalid sd (s.modView sd fun x => { x with heldCount := held })), .pattern)
      else ((changeView sd .holding (s.modView sd fun x => { x with heldCount := held })).modView sd fun x =>
        { x with framesHeld := x.framesHeld + 1 }, .hold) := by
  subst hheld
  unfold decideShowing
  simp only [hnew, Bool.false_eq_true, if_false]
  cases (s.side sd).view.state <;> rfl

theorem decideShowing_newer {s : State} {sd : Side} (hnew : newerFrame (s.side sd).view = true) :
    decideShowing sd s = (takeLive sd s, .compose) := if_pos hnew

theorem decideShowing_viewsSound {s : State} {sd : Side}
    (hst : (s.side sd).view.state = .live ∨ (s.side sd).view.state = .holding) (hs : ViewsSound s) :
    ViewsSound (decideShowing sd s).1 := by
  have hfrom : (s.side sd).view.state ≠ .test := by rintro h; simp [h] at hst
  have hloss : viewLossActive s.table sd = false := (hs sd).1 (by obtain h | h := hst <;> simp [validLine, h])
  by_cases hnew : newerFrame (s.side sd).view = true
  · rw [decideShowing_newer hnew]
    exact takeLive_viewsSound hfrom hloss hs
  · rw [decideShowing_held (by simpa using hnew) rfl]
    generalize (if (s.side sd).view.state = .live then 0 else (s.side sd).view.heldCount) + 1 = held
    have hcount : ViewsSound (s.modView sd fun x => { x with heldCount := held }) := modView_viewsSound (fun _ => rfl) hs
    have hcountFrom : ((s.modView sd fun x => { x with heldCount := held }).side sd).view.state ≠ .test := by
      simpa using hfrom
    split
    · exact raiseStale_viewsSound _ (enterInvalid_viewsSound hcountFrom hcount)
    · exact modView_viewsSound (fun _ => rfl)
        (changeView_viewsSound (by decide) hcountFrom (fun _ => by simpa using hloss) hcount)

theorem decideInvalid_viewsSound {s : State} {sd : Side} (hst : (s.side sd).view.state = .invalid) (hs : ViewsSound s) :
    ViewsSound (decideInvalid sd s).1 := by
  unfold decideInvalid
  dsimp only
  split
  · exact modView_viewsSound (fun _ => rfl) hs
  next hloss =>
    split
    · exact takeLive_viewsSound (by rw [hst]; decide) (by simpa using hloss) hs
    · split
      · exact raiseStale_viewsSound _ (modView_viewsSound (fun _ => rfl) hs)
      · exact modView_viewsSound (fun _ => rfl) hs

theorem decideTest_viewsSound {s : State} {sd : Side} (hs : ViewsSound s) : ViewsSound (decideTest sd s).1 := by
  unfold decideTest
  dsimp only
  split
  · exact modView_viewsSound (fun _ => rfl) hs
  · split <;> exact hs

theorem decideView_viewsSound {s : State} {sd : Side} (hs : ViewsSound s) : ViewsSound (decideView sd s).1 := by
  unfold decideView
  split
  next h => exact decideStarting_viewsSound h hs
  next h => exact decideShowing_viewsSound (.inl h) hs
  next h => exact decideShowing_viewsSound (.inr h) hs
  next h => exact decideInvalid_viewsSound h hs
  next h => exact decideTest_viewsSound hs

theorem formOutput_viewsSound {s : State} {sd : Side} (o : Output) (hs : ViewsSound s) :
    ViewsSound (formOutput sd o s).1 := by
  cases o
  case compose => exact modView_viewsSound (fun _ => rfl) hs
  all_goals exact hs

theorem outputStart_viewsSound {s : State} {sd : Side} (hs : ViewsSound s) : ViewsSound (outputStart sd s) := by
  have hout : ViewsSound (formOutput sd (decideView sd (windowStep sd s)).2 (decideView sd (windowStep sd s)).1).1 :=
    formOutput_viewsSound _ (decideView_viewsSound (modView_viewsSound (fun _ => rfl) hs))
  exact Acts.viewsSound (b := { dlt := true }) rfl (takeFrame_acts rfl sd _ (.dlt rfl sd _ .refl)) hout

theorem stageOffer_viewsSound {s : State} {sd : Side} (f : AcceptedFrame) (hs : ViewsSound s) :
    ViewsSound (stageOffer sd f s) := by
  have hoffer : ViewsSound (s.modView sd (offerFrame f)) :=
    modView_viewsSound (fun y => by unfold offerFrame; split <;> rfl) hs
  unfold stageOffer countRecover
  dsimp only
  split
  · split
    · exact Acts.viewsSound (b := {}) rfl (.clear _ _ .refl) (modView_viewsSound (fun _ => rfl) hoffer)
    · exact modView_viewsSound (fun _ => rfl) hoffer
  · exact hoffer

/-- What the first five stages of a frame completion may change: everything of it but the composer. -/
abbrev earlyStageTouch : Touch := { completionTouch with view := false }

theorem earlyStage_acts {s : State} {sd : Side} (c : Completion) (hc : c.next ≠ .offer) :
    Acts earlyStageTouch s (stageWork sd c s).1 := by
  unfold stageWork
  split
  · exact stageStatistics_acts rfl _ _ .refl
  · exact stageGlare_acts rfl _ _ .refl
  · exact stageExposure_acts rfl rfl _ _ .refl
  · exact stageDayNight_acts rfl rfl _ _ .refl
  · exact writeDigest_acts rfl _ _ .refl
  next h => exact absurd h hc

theorem stageWork_viewsSound {s : State} {sd : Side} (c : Completion) (hs : ViewsSound s) :
    ViewsSound (stageWork sd c s).1 := by
  by_cases hc : c.next = .offer
  · have hw : (stageWork sd c s).1 = stageOffer sd c.frame s := by simp only [stageWork, hc]
    rw [hw]
    exact stageOffer_viewsSound _ hs
  · exact (earlyStage_acts c hc).viewsSound rfl hs

theorem setViewOffset_viewsSound {s : State} (ps : List Byte) (hs : ViewsSound s) : ViewsSound (setViewOffset ps s).1 := by
  unfold setViewOffset
  split
  · exact hs
  · exact List.foldlRecOn _ _ hs fun _ h _ _ => modView_viewsSound (fun _ => rfl) h

theorem exec_viewsSound {c : Instr} (hc : isReset c = false) {s t : State} (h : exec c s = .next t) (hs : ViewsSound s) :
    ViewsSound t := by
  by_cases hv : (touchOf c).view = false
  · exact (exec_acts c hc s t h).viewsSound hv hs
  · cases c <;> first | exact absurd rfl hv | injection h with h; subst h
    case frameCompletion sd =>
      exact whileRunning_keeps (fun s hs => runCompletion_keeps (fun _ _ h => h.viewsSound rfl)
        (fun _ c => stageWork_viewsSound c) hs) hs
    case outputFrameStart sd => exact whileRunning_keeps (Q := ViewsSound) (fun _ h => outputStart_viewsSound h) hs
    case setViewOffset p tag ps =>
      exact takeRequest_keeps (fun _ _ h => h.viewsSound rfl) (fun _ => setViewOffset_viewsSound ps) _ _ _ _ hs

/-! ### The resets and the load -/

/-- A side whose blocks come from their reset values: its VALID line is low, and it is in no test. -/
theorem viewsSound_of_reset {s : State} (h : ∀ x, ∃ k r, s.side x = { resetSide k x with recorder := r }) :
    ViewsSound s := by
  intro x
  obtain ⟨k, r, hx⟩ := h x
  refine ⟨fun hl => ?_, ?_⟩
  · simp [validLine, hx, resetSide, resetComposer] at hl
  · rw [TestSound, hx]
    rfl

theorem powerOn_viewsSound (s : State) : ViewsSound (powerOn s) :=
  viewsSound_of_reset fun x => ⟨s.cal, resetRecorder s.cal, by cases x <;> rfl⟩

theorem takeRestart_viewsSound (s : State) (p : Port) : ViewsSound (takeRestart p s) :=
  viewsSound_of_reset fun x => ⟨s.cal, { (s.side x).recorder with crossIncoming := 0 }, by cases x <;> rfl⟩

/-- Steps 1 to 5 of a load leave the table. -/
theorem loadPart_sound {s : State} (ht : TableSound s.table) (hs : ViewsSound s) :
    TableSound (loadPart s).table ∧ ViewsSound (loadPart s) := by
  unfold loadPart
  split
  · exact ⟨ht, viewsSound_of_state (fun x => by simp) (fun x => by simp) (fun _ h => h) hs⟩
  · exact ⟨ht, viewsSound_of_reset fun x =>
      ⟨_, resetRecorder (loadStore s).cal, by cases x <;> rfl⟩⟩
  · exact ⟨ht, viewsSound_of_reset fun x =>
      ⟨_, restartRecorder (loadStore s).cal.capture (s.side x).recorder, by cases x <;> rfl⟩⟩
  next c _ =>
    have hacts := reportDefaults_acts { s with phase := .running }
    have hrun : ViewsSound { s with phase := .running } :=
      viewsSound_of_state (fun x => by simp) (fun x => by simp) (fun _ h => h) hs
    have hv := hacts.viewsSound rfl hrun
    exact ⟨hacts.tableSound ht, viewsSound_of_state (fun x => by cases x <;> rfl) (fun x => by cases x <;> rfl)
      (fun _ h => h) hv⟩
  · exact ⟨ht, hs⟩

/-- Settles O56: a chain of acts keeps the table and, where it leaves the composers, the views; the four commands that
change a composer and the resets are looked at one by one. -/
theorem tableAndViewsStaySound : Obligations.TableAndViewsStaySound := by
  intro s t ht hs h
  refine step_keeps (Q := fun s => TableSound s.table ∧ ViewsSound s) (fun s l h => ?_) (fun c s t h hq => ?_) h ⟨ht, hs⟩
  · exact ⟨h.1, viewsSound_of_state (fun x => by simp) (fun x => by simp) (fun _ h => h) h.2⟩
  obtain ⟨ht, hs⟩ := hq
  by_cases hc : isReset c = true
  · refine reset_keeps (Q := fun s => TableSound s.table ∧ ViewsSound s) (fun s t ha hq => ?_) (fun s hq => ?_)
      (fun s p hq => ?_) (fun s hq => loadPart_sound hq.1 hq.2) hc h ⟨ht, hs⟩
    · exact ⟨ha.tableSound hq.1, ha.viewsSound rfl hq.2⟩
    · exact ⟨⟨List.nodup_nil, by simp [powerOn]⟩, powerOn_viewsSound s⟩
    · exact ⟨passivate_sound _ _ hq.1, takeRestart_viewsSound s p⟩
  · have hc : isReset c = false := by simpa using hc
    exact ⟨(exec_acts c hc s t h).tableSound ht, exec_viewsSound hc h hs⟩

end Sys2Proof.Machine


/-! PROOF. The recorders through every command (R133 to R159), and O57 from them. -/

namespace Sys2Proof.Machine

/-! ### The ring, and what each recorder state adds to it -/

/-- The part of a recorder's soundness that its state has no say in (R133, R134, R138, R148, R151). -/
structure RingSound (r : Recorder) : Prop where
  capture : CaptureSound r.size r.npre
  start : r.rp < bufferCount r
  frozen : r.frozen ≤ bufferCount r
  queue : r.headers.map (·.buffer) = (List.range r.frozen).map (fun i => (r.rp + i) % bufferCount r)
  pending : r.waiting.fault = false ∧ r.waiting.cross = false
  slots : slotsWf r.slots = true
  cursors : r.cursorV < r.size ∧ r.cursorC < r.size

/-- What the ring's soundness reads of a recorder. -/
def ringParts (r : Recorder) : (Nat × Nat) × (Nat × Nat) × List CaptureHeader × SourceSet × Slots × (Nat × Nat) :=
  ((r.size, r.npre), (r.rp, r.frozen), r.headers, r.waiting, r.slots, (r.cursorV, r.cursorC))

theorem RingSound.congr {r x : Recorder} (h : RingSound r) (he : ringParts x = ringParts r) : RingSound x := by
  simp only [ringParts, Prod.mk.injEq] at he
  obtain ⟨⟨hsize, hnpre⟩, ⟨hrp, hfrozen⟩, hheaders, hwaiting, hslots, hv, hc⟩ := he
  have hcount : bufferCount x = bufferCount r := bufferCount_congr x r hsize
  constructor
  · rw [hsize, hnpre]; exact h.capture
  · rw [hrp, hcount]; exact h.start
  · rw [hfrozen, hcount]; exact h.frozen
  · rw [hheaders, hfrozen, hrp, hcount]; exact h.queue
  · rw [hwaiting]; exact h.pending
  · rw [hslots]; exact h.slots
  · rw [hv, hc, hsize]; exact h.cursors

/-- The ring with its pending set emptied. -/
theorem RingSound.emptied {r x : Recorder} (h : RingSound r) (he : ringParts x =
    ringParts { r with waiting := noSources }) :
    RingSound x :=
  RingSound.congr (r := { r with waiting := noSources })
    ⟨h.capture, h.start, h.frozen, h.queue, ⟨rfl, rfl⟩, h.slots, h.cursors⟩ he

/-- A buffer is free to be the ACTIVE one, and its write place lies in it (R134, R137). -/
abbrev HasRoom (r : Recorder) : Prop := r.frozen < bufferCount r ∧ r.w < r.size

theorem ring_of_recorderSound {r : Recorder} (h : RecorderSound r) : RingSound r := by
  obtain ⟨hcap, hrp, hfr, hq, -, -, -, -, -, hwf, hwc, -, hslots, hv, hc⟩ := h
  exact ⟨hcap, hrp, hfr, hq, ⟨hwf, hwc⟩, hslots, ⟨hv, hc⟩⟩

theorem room_of_recorderSound {r : Recorder} (h : RecorderSound r) (ha : hasActiveBuffer r = true) : HasRoom r := by
  obtain ⟨-, -, -, -, hroom, -⟩ := h
  exact hroom ha

theorem current_of_recorderSound {r : Recorder} (h : RecorderSound r) : r.current.isSome = true ↔ r.state = .post := by
  obtain ⟨-, -, -, -, -, -, -, -, hcur, -⟩ := h
  exact hcur

theorem current_none_of_recorderSound {r : Recorder} (h : RecorderSound r) (hst : r.state ≠ .post) : r.current = none := by
  simpa using mt (current_of_recorderSound h).mp hst

theorem waiting_of_recorderSound {r : Recorder} (h : RecorderSound r) (hst : ¬ (r.state = .filling ∨ r.state = .post)) :
    noSource r.waiting = true := by
  obtain ⟨-, -, -, -, -, -, -, -, -, -, -, hwait, -⟩ := h
  exact Bool.eq_true_of_not_eq_false (mt hwait hst)

section
variable {r : Recorder}

theorem RingSound.stopped (h : RingSound r) (hst : r.state = .stopped) (hk : r.current = none)
    (hw : noSource r.waiting = true) : RecorderSound r :=
  ⟨h.capture, h.start, h.frozen, h.queue, by simp [hasActiveBuffer, hst], by simp [hst], by simp [hst], by simp [hst],
    by simp [hst, hk], h.pending.1, h.pending.2, by simp [hw], h.slots, h.cursors.1, h.cursors.2⟩

theorem RingSound.full (h : RingSound r) (hst : r.state = .full) (hk : r.current = none)
    (hw : noSource r.waiting = true) (hf : r.frozen = bufferCount r) : RecorderSound r :=
  ⟨h.capture, h.start, h.frozen, h.queue, by simp [hasActiveBuffer, hst], fun _ => hf, by simp [hst], by simp [hst],
    by simp [hst, hk], h.pending.1, h.pending.2, by simp [hw], h.slots, h.cursors.1, h.cursors.2⟩

theorem RingSound.armed (h : RingSound r) (hst : r.state = .armed) (hk : r.current = none)
    (hw : noSource r.waiting = true) (hroom : HasRoom r) : RecorderSound r :=
  ⟨h.capture, h.start, h.frozen, h.queue, fun _ => hroom, by simp [hst], by simp [hst], by simp [hst],
    by simp [hst, hk], h.pending.1, h.pending.2, by simp [hw], h.slots, h.cursors.1, h.cursors.2⟩

theorem RingSound.filling (h : RingSound r) (hst : r.state = .filling) (hk : r.current = none) (hroom : HasRoom r)
    (hfill : r.fill < r.npre) : RecorderSound r :=
  ⟨h.capture, h.start, h.frozen, h.queue, fun _ => hroom, by simp [hst], fun _ => hfill, by simp [hst],
    by simp [hst, hk], h.pending.1, h.pending.2, fun _ => .inl hst, h.slots, h.cursors.1, h.cursors.2⟩

theorem RingSound.post (h : RingSound r) (hst : r.state = .post) (hk : r.current.isSome = true) (hroom : HasRoom r)
    (hpost : 1 ≤ r.post ∧ r.post < r.size) : RecorderSound r :=
  ⟨h.capture, h.start, h.frozen, h.queue, fun _ => hroom, by simp [hst], by simp [hst], fun _ => hpost,
    by simp [hst, hk], h.pending.1, h.pending.2, fun _ => .inr hst, h.slots, h.cursors.1, h.cursors.2⟩

/-- A buffer started on a ring with room (R136). -/
theorem RingSound.startFilling (h : RingSound r) (hk : r.current = none) (hf : r.frozen < bufferCount r) :
    RecorderSound (startFilling r) :=
  startFilling_sound r h.capture h.start hf h.queue hk h.pending h.slots h.cursors.1 h.cursors.2

/-- START on a recorder with no capture and no pending trigger (R153). -/
theorem RingSound.startRecorder (h : RingSound r) (hk : r.current = none) (hw : noSource r.waiting = true) :
    RecorderSound (startRecorder r) := by
  unfold Sys2Proof.Machine.startRecorder
  split
  next hf => exact h.startFilling hk hf
  next hf =>
    have hfull : RingSound { r with state := .full } := h.congr rfl
    exact hfull.full rfl hk hw (Nat.le_antisymm h.frozen (Nat.le_of_not_lt hf))

theorem RingSound.emptyBuffer (h : RingSound r) (b : Nat) : RingSound (emptyBuffer r b) :=
  ⟨h.capture, h.start, h.frozen, h.queue, h.pending, slotClear_wf _ _ _ h.slots, h.cursors⟩

/-- The ring with every buffer FREE, of a buffer size of R133. -/
theorem RingSound.freed (hcap : CaptureSound r.size r.npre) (hrp : r.rp = 0) (hf : r.frozen = 0) (hh : r.headers = [])
    (hw : r.waiting.fault = false ∧ r.waiting.cross = false) (hs : r.slots = []) (hc : r.cursorV = 0 ∧ r.cursorC = 0) :
    RingSound r := by
  have hcount : 0 < bufferCount r := by
    obtain ⟨hsize, -, -⟩ := hcap
    simp only [bufferSizes, List.mem_cons, List.not_mem_nil, or_false] at hsize
    unfold bufferCount Config.slots
    obtain h | h | h | h := hsize <;> rw [h] <;> decide
  have hpos : 0 < r.size := by obtain ⟨-, h1, h2⟩ := hcap; omega
  refine ⟨hcap, hrp ▸ hcount, hf ▸ hcount.le, by simp [hh, hf], hw, by rw [hs]; rfl, ?_⟩
  rw [hc.1, hc.2]
  exact ⟨hpos, hpos⟩

end

/-! ### A digest write (R137, R146, R147) -/

/-- The ring of one side's recorder and the whole of the other side's are sound. -/
abbrev RingAt (sd : Side) (s : State) : Prop :=
  RingSound (s.side sd).recorder ∧ RecorderSound (s.side (otherSide sd)).recorder

theorem recordersSound_of {sd : Side} {s : State} (h : RecorderSound (s.side sd).recorder)
    (ho : RecorderSound (s.side (otherSide sd)).recorder) : RecordersSound s := by
  intro x
  obtain rfl | rfl := side_eq_or_other sd x
  · exact h
  · exact ho

/-- An acceptance of sources on a ring with room, whatever the recorder's state was (R141). -/
theorem acceptTriggers_ring_sound {sd : Side} {s : State} (x : SourceSet) (cs : List FaultCode) (n : Nat) (c : Bool)
    (h : RingAt sd s) (hroom : HasRoom (s.side sd).recorder) : RecordersSound (acceptTriggers sd x cs n c s) := by
  obtain ⟨hring, ho⟩ := h
  have hcap := hring.capture
  have hpost : ∀ k, RecorderSound { (s.side sd).recorder with
      current := some k, post := postSize (s.side sd).recorder, state := .post } := fun k => by
    refine RingSound.post (hring.congr rfl) rfl rfl hroom ?_
    simp only [postSize]
    omega
  unfold acceptTriggers
  dsimp only
  split
  · refine recordersSound_of (sd := sd) ?_ ?_
    · rw [modRec_side_ne _ _ _ _ (ne_otherSide sd), modRec_side_recorder]
      exact hpost _
    · rw [modRec_side_recorder, modRec_side_other]
      exact ho
  · refine recordersSound_of (sd := sd) ?_ ?_
    · rw [modRec_side_recorder]
      exact hpost _
    · rw [modRec_side_other]
      exact ho

theorem acceptWaiting_ring_sound {sd : Side} {s : State} (n : Nat) (c : Bool) (h : RingAt sd s)
    (hroom : HasRoom (s.side sd).recorder) : RecordersSound (acceptWaiting sd n c s) := by
  obtain ⟨hring, ho⟩ := h
  refine acceptTriggers_ring_sound _ _ _ _ ⟨?_, by rwa [modRec_side_other]⟩ (by rwa [modRec_side_recorder])
  rw [modRec_side_recorder]
  exact hring.emptied rfl

theorem loseTriggers_sound {sd : Side} (l : List TriggerSource) {s : State} (hs : RecordersSound s) :
    RecordersSound (l.foldl (fun s src => loseTrigger sd src s) s) :=
  List.foldlRecOn _ _ hs fun s h src _ => loseTrigger_sound s sd src h

/-- The entry into FULL with no pending trigger left (R147 step 4). -/
theorem loseWaiting_sound {sd : Side} {s : State} (h : RingAt sd s) (hst : (s.side sd).recorder.state = .full)
    (hk : (s.side sd).recorder.current = none)
    (hf : (s.side sd).recorder.frozen = bufferCount (s.side sd).recorder) : RecordersSound (loseWaiting sd s) := by
  obtain ⟨hring, ho⟩ := h
  have hlose : loseWaiting sd s = (drawOrder s (sourceList (s.side sd).recorder.waiting)).1.foldl
      (fun s src => loseTrigger sd src s)
      ((drawOrder s (sourceList (s.side sd).recorder.waiting)).2.modRec sd fun r => { r with waiting := noSources }) := rfl
  rw [hlose]
  refine loseTriggers_sound _ (recordersSound_of (sd := sd) ?_ ?_)
  · rw [modRec_side_recorder, drawOrder_side]
    exact RingSound.full (hring.emptied rfl) hst hk rfl hf
  · rw [modRec_side_other, drawOrder_side]
    exact ho

/-- The header of a freeze names the buffer behind the FROZEN ones (R147 steps 1 and 2). -/
theorem freezeBuffer_ring {r : Recorder} (k : Capture) (permitted : Bool) (now : Stamp) (h : RingSound r)
    (hf : r.frozen < bufferCount r) : RingSound (freezeBuffer k permitted now r) := by
  refine ⟨h.capture, h.start, hf, ?_, h.pending, h.slots, h.cursors⟩
  simp only [freezeBuffer, freezeHeader, List.map_append, List.map_cons, List.map_nil, h.queue, List.range_succ]
  rfl

theorem freeze_sound {sd : Side} {s : State} (k : Capture) (h : RingAt sd s) (hroom : HasRoom (s.side sd).recorder) :
    RecordersSound (freeze sd k s) := by
  obtain ⟨hring, ho⟩ := h
  have hfreeze := freezeBuffer_ring k (presentedPermission s) s.time hring hroom.1
  unfold freeze
  dsimp only
  simp only [notifyBoth_recorder, modRec_side_recorder]
  generalize hr : freezeBuffer k (presentedPermission s) s.time (s.side sd).recorder = r at hfreeze ⊢
  have hk : r.current = none := hr ▸ rfl
  generalize hu : notifyBoth .capture (s.modRec sd (freezeBuffer k (presentedPermission s) s.time)) = u
  have hur : (u.side sd).recorder = r := by rw [← hu, ← hr]; simp
  have huo : RecorderSound (u.side (otherSide sd)).recorder := by rw [← hu]; simpa using ho
  split
  next hfull =>
    refine loseWaiting_sound ⟨?_, by rwa [modRec_side_other]⟩ (by rw [modRec_side_recorder])
      (by rw [modRec_side_recorder, hur]; exact hk) (by rw [modRec_side_recorder, hur]; exact hfull)
    rw [modRec_side_recorder, hur]
    exact hfreeze.congr rfl
  next hfree =>
    have hlt : r.frozen < bufferCount r := Nat.lt_of_le_of_ne hfreeze.frozen hfree
    split
    · refine recordersSound_of (sd := sd) ?_ (by rwa [modRec_side_other])
      rw [modRec_side_recorder, hur]
      exact hfreeze.startFilling hk hlt
    · refine acceptWaiting_ring_sound _ _ ⟨?_, by rwa [modRec_side_other]⟩ ?_
      · rw [modRec_side_recorder, hur]
        have he := hfreeze.emptyBuffer (writePointer r)
        exact he.congr rfl
      · rw [modRec_side_recorder, hur]
        exact ⟨hlt, Nat.lt_of_le_of_lt (Nat.zero_le _) hfreeze.cursors.1⟩

theorem completeCapture_sound {sd : Side} {s : State} (h : RingAt sd s) (hroom : HasRoom (s.side sd).recorder)
    (hk : (s.side sd).recorder.current.isSome = true) : RecordersSound (completeCapture sd s) := by
  unfold completeCapture
  split
  next hnone => simp [hnone] at hk
  next k _ =>
    split
    · exact freeze_sound k h hroom
    next hkeep =>
      obtain ⟨hring, ho⟩ := h
      have hw : noSource (s.side sd).recorder.waiting = true := by
        simp only [keepsCapture, Bool.or_eq_true, Bool.not_eq_true', not_or] at hkeep
        simpa using hkeep.2
      refine recordersSound_of (sd := sd) ?_ (by rwa [modRec_side_other])
      rw [modRec_side_recorder]
      exact RingSound.armed (hring.congr rfl) rfl rfl hw hroom

/-- A digest put into the ACTIVE buffer keeps the ring and its room (R137). -/
theorem putDigest_ring {r : Recorder} (d : Digest) (h : RecorderSound r) (ha : hasActiveBuffer r = true) :
    RingSound (putDigest d r) ∧ HasRoom (putDigest d r) := by
  obtain ⟨hslots, hw⟩ := putDigest_slots r d h ha
  obtain ⟨hf, -⟩ := room_of_recorderSound h ha
  have hring := ring_of_recorderSound h
  exact ⟨⟨hring.capture, hring.start, hring.frozen, hring.queue, hring.pending, hslots, hring.cursors⟩, hf, hw⟩

theorem writeDigest_filling {sd : Side} {d : Digest} {s : State} (hst : (s.side sd).recorder.state = .filling)
    (hs : RecordersSound s) : RecordersSound (writeDigest sd d s) := by
  have hr := hs sd
  have ho := hs (otherSide sd)
  obtain ⟨hput, hroom⟩ := putDigest_ring d hr (by simp [hasActiveBuffer, hst])
  have hk : (s.side sd).recorder.current = none := current_none_of_recorderSound hr (by simp [hst])
  unfold writeDigest
  dsimp only
  rw [hst]
  dsimp only
  split
  · split
    next hw =>
      refine recordersSound_of (sd := sd) ?_ (by simpa using ho)
      rw [modRec_side_recorder, modRec_side_recorder]
      exact RingSound.armed (hput.congr rfl) rfl hk hw hroom
    · refine acceptWaiting_ring_sound _ _ ⟨?_, by rwa [modRec_side_other]⟩ (by rw [modRec_side_recorder]; exact hroom)
      rw [modRec_side_recorder]
      exact hput.congr rfl
  next hfill =>
    refine recordersSound_of (sd := sd) ?_ (by rwa [modRec_side_other])
    rw [modRec_side_recorder]
    exact RingSound.filling (hput.congr rfl) hst hk hroom (Nat.lt_of_not_le hfill)

theorem writeDigest_armed {sd : Side} {d : Digest} {s : State} (hst : (s.side sd).recorder.state = .armed)
    (hs : RecordersSound s) : RecordersSound (writeDigest sd d s) := by
  have hr := hs sd
  obtain ⟨hput, hroom⟩ := putDigest_ring d hr (by simp [hasActiveBuffer, hst])
  unfold writeDigest
  dsimp only
  rw [hst]
  refine recordersSound_of (sd := sd) ?_ (by simpa using hs (otherSide sd))
  rw [modRec_side_recorder]
  have hk : (s.side sd).recorder.current = none := current_none_of_recorderSound hr (by simp [hst])
  have hw : noSource (s.side sd).recorder.waiting = true := waiting_of_recorderSound hr (by simp [hst])
  exact hput.armed hst hk hw hroom

theorem writeDigest_post {sd : Side} {d : Digest} {s : State} (hst : (s.side sd).recorder.state = .post)
    (hs : RecordersSound s) : RecordersSound (writeDigest sd d s) := by
  have hr := hs sd
  have ho := hs (otherSide sd)
  obtain ⟨hput, hroom⟩ := putDigest_ring d hr (by simp [hasActiveBuffer, hst])
  have hk : (s.side sd).recorder.current.isSome = true := (current_of_recorderSound hr).mpr hst
  obtain ⟨-, -, -, -, -, -, -, hpost, -⟩ := hr
  have hcount := hpost hst
  have hput' : RingSound { putDigest d (s.side sd).recorder with
      post := (s.side sd).recorder.post - 1
      current := (s.side sd).recorder.current.map (stampTrigger d.frameNumber) } :=
    (hput.congr rfl)
  unfold writeDigest
  dsimp only
  rw [hst]
  dsimp only
  split
  · refine completeCapture_sound ⟨?_, by rwa [modRec_side_other]⟩ (by rw [modRec_side_recorder]; exact hroom)
      (by rw [modRec_side_recorder]; simpa using hk)
    rw [modRec_side_recorder]
    exact hput'
  · refine recordersSound_of (sd := sd) ?_ (by rwa [modRec_side_other])
    rw [modRec_side_recorder]
    exact hput'.post hst (by simpa using hk) hroom (by dsimp only [putDigest]; omega)

theorem writeDigest_sound {sd : Side} {d : Digest} {s : State} (hs : RecordersSound s) :
    RecordersSound (writeDigest sd d s) := by
  cases hst : (s.side sd).recorder.state
  case stopped => simpa only [writeDigest, hst] using hs
  case full => simpa only [writeDigest, hst] using hs
  case filling => exact writeDigest_filling hst hs
  case armed => exact writeDigest_armed hst hs
  case post => exact writeDigest_post hst hs

/-! ### Requests and CROSS triggers (R142, R149 to R155) -/

theorem takeCross_sound {sd : Side} {s : State} (hs : RecordersSound s) : RecordersSound (takeCross sd s) := by
  unfold takeCross
  split
  · exact hs
  · exact takeTrigger_sound _ _ _ (modRec_sound s sd _ (fun h => h) hs)

theorem setCursor_sound {r : Recorder} (p : Port) {k : Nat} (hk : k < r.size) (h : RecorderSound r) :
    RecorderSound (setCursor p k r) := by
  obtain ⟨hcap, hrp, hfr, hq, hroom, hfull, hfill, hpost, hcur, hwf, hwc, hwait, hslots, hv, hc⟩ := h
  cases p
  · exact ⟨hcap, hrp, hfr, hq, hroom, hfull, hfill, hpost, hcur, hwf, hwc, hwait, hslots, hk, hc⟩
  · exact ⟨hcap, hrp, hfr, hq, hroom, hfull, hfill, hpost, hcur, hwf, hwc, hwait, hslots, hv, hk⟩

theorem readCaptureHeader_sound {s : State} (p : Port) (ps : List Byte) (hs : RecordersSound s) :
    RecordersSound (readCaptureHeader p ps s).1 := by
  unfold readCaptureHeader
  split
  · exact hs
  next sd _ =>
    dsimp only
    split
    · exact hs
    · refine modRec_sound s sd _ (fun h => setCursor_sound p ?_ h) hs
      exact Nat.lt_of_le_of_lt (Nat.zero_le _) (ring_of_recorderSound h).cursors.1

theorem readCaptureNext_sound {s : State} (p : Port) (ps : List Byte) (hs : RecordersSound s) :
    RecordersSound (readCaptureNext p ps s).1 := by
  unfold readCaptureNext
  split
  · exact hs
  next sd _ =>
    dsimp only
    split
    · exact hs
    · refine modRec_sound s sd _ (fun h => setCursor_sound p (Nat.mod_lt _ ?_) h) hs
      exact Nat.lt_of_le_of_lt (Nat.zero_le _) (ring_of_recorderSound h).cursors.1

/-- The ring after the release of its first buffer (R152). -/
theorem RingSound.release {r : Recorder} {h : CaptureHeader} {rest : List CaptureHeader} (hr : RingSound r)
    (hh : r.headers = h :: rest) : 1 ≤ r.frozen ∧ RingSound (zeroCursors
      { r with headers := r.headers.drop 1, rp := (r.rp + 1) % bufferCount r, frozen := r.frozen - 1 }) := by
  obtain ⟨n, hn⟩ : ∃ n, r.frozen = n + 1 := by
    have hlen := congrArg List.length hr.queue
    simp only [hh, List.length_map, List.length_cons, List.length_range] at hlen
    exact ⟨rest.length, hlen.symm⟩
  have hcount : 0 < bufferCount r := Nat.lt_of_le_of_lt (Nat.zero_le _) hr.start
  have hpos : 0 < r.size := Nat.lt_of_le_of_lt (Nat.zero_le _) hr.cursors.1
  refine ⟨by omega, hr.capture, Nat.mod_lt _ hcount, le_trans (Nat.sub_le _ _) hr.frozen, ?_, hr.pending, hr.slots,
    hpos, hpos⟩
  have hq := hr.queue
  rw [hh, hn, List.range_succ_eq_map, List.map_cons, List.map_cons, List.map_map] at hq
  obtain ⟨-, hq⟩ := List.cons.inj hq
  dsimp only [zeroCursors]
  rw [hh, hn, List.drop_one, List.tail_cons, hq]
  refine List.map_congr_left fun i _ => ?_
  change (r.rp + (i + 1)) % bufferCount r = ((r.rp + 1) % bufferCount r + i) % bufferCount r
  rw [Nat.mod_add_mod, Nat.add_assoc, Nat.add_comm 1 i]

theorem releaseHead_sound {r : Recorder} {h : CaptureHeader} {rest : List CaptureHeader} (hr : RecorderSound r)
    (hh : r.headers = h :: rest) : RecorderSound (releaseHead r) := by
  obtain ⟨hone, hring⟩ := (ring_of_recorderSound hr).release hh
  have hle : r.frozen ≤ bufferCount r := (ring_of_recorderSound hr).frozen
  have hlt : r.frozen - 1 < bufferCount r := by omega
  unfold releaseHead
  dsimp only
  split
  next hfull =>
    have hk : r.current = none := current_none_of_recorderSound hr (by simp [show r.state = .full from hfull])
    exact hring.startFilling hk hlt
  next hfull =>
    obtain ⟨-, -, -, -, hroom, -, hfill, hpost, hcur, -, -, hwait, -⟩ := hr
    exact ⟨hring.capture, hring.start, hring.frozen, hring.queue, fun ha => ⟨hlt, (hroom ha).2⟩,
      fun hst => absurd hst hfull, hfill, hpost, hcur, hring.pending.1, hring.pending.2, hwait, hring.slots,
      hring.cursors.1, hring.cursors.2⟩

theorem releaseCapture_sound {s : State} (ps : List Byte) (hs : RecordersSound s) :
    RecordersSound (releaseCapture ps s).1 := by
  unfold releaseCapture
  split
  · exact hs
  next sd _ =>
    split
    · exact hs
    next hh =>
      split
      · exact modRec_sound s sd _ (fun h => releaseHead_sound h hh) hs
      · exact hs

/-- A STOP leaves the ring with nothing pending and no capture (R153). -/
theorem stopRecorder_ring {r : Recorder} (h : RingSound r) : RingSound (stopRecorder r) := by
  unfold stopRecorder
  dsimp only
  split
  · exact (h.emptyBuffer (writePointer r)).emptied rfl
  · exact h.emptied rfl

theorem controlRecorder_sound {r : Recorder} (stop : Bool) (h : RecorderSound r) :
    RecorderSound (controlRecorder stop r) := by
  unfold controlRecorder
  split
  · split
    · exact h
    · obtain ⟨hst, hk, hw, -⟩ := stopRecorder_spec r
      exact (stopRecorder_ring (ring_of_recorderSound h)).stopped hst hk (by rw [hw]; rfl)
  · split
    next hst =>
      exact (ring_of_recorderSound h).startRecorder (current_none_of_recorderSound h (by simp [hst]))
        (waiting_of_recorderSound h (by simp [hst]))
    · exact h

theorem captureControl_sound {s : State} (ps : List Byte) (hs : RecordersSound s) :
    RecordersSound (captureControl ps s).1 := by
  unfold captureControl
  split
  next sd stop _ _ => exact modRec_sound s sd _ (controlRecorder_sound stop) hs
  · exact hs

theorem bounds_of_size {n : Nat} (h : n ∈ bufferSizes) : 128 ≤ n := by
  simp only [bufferSizes, List.mem_cons, List.not_mem_nil, or_false] at h
  omega

theorem clampNat_size {n : Nat} (sent : Nat) (h : n ∈ bufferSizes) : CaptureSound n (clampNat sent 1 (n - 1)) := by
  have hn := bounds_of_size h
  refine ⟨h, ?_⟩
  rw [clampNat_eq _ _ _ (by omega)]
  omega

theorem takeParams_sound {r : Recorder} {size npre : Nat} (cross : Bool) (hcap : CaptureSound size npre)
    (hst : r.state = .stopped) (h : RecorderSound r) : RecorderSound (takeParams size npre cross r) := by
  have hring := ring_of_recorderSound h
  have hk : r.current = none := current_none_of_recorderSound h (by simp [hst])
  have hw : noSource r.waiting = true := waiting_of_recorderSound h (by simp [hst])
  unfold takeParams
  split
  next hs =>
    subst hs
    have hkeep : RingSound { r with npre := npre, crossLink := cross } :=
      ⟨hcap, hring.start, hring.frozen, hring.queue, hring.pending, hring.slots, hring.cursors⟩
    exact hkeep.stopped hst hk hw
  · exact (RingSound.freed (r := { freeAll r with size := size, npre := npre, crossLink := cross }) hcap rfl rfl rfl
      hring.pending rfl ⟨rfl, rfl⟩).stopped hst hk hw

theorem setCaptureParams_sound {s : State} (ps : List Byte) (hs : RecordersSound s) :
    RecordersSound (setCaptureParams ps s).1 := by
  unfold setCaptureParams
  dsimp only
  split
  next sd cross _ _ =>
    split
    · exact hs
    next hsize =>
      split
      · exact hs
      next hst =>
        exact modRec_sound s sd _ (takeParams_sound cross (clampNat_size _ (not_not.mp hsize)) (not_not.mp hst)) hs
  · exact hs

theorem clearRecorder_sound {r : Recorder} (h : RecorderSound r) : RecorderSound (clearRecorder r) := by
  have hfree : RingSound { freeAll r with waiting := noSources, current := none } :=
    RingSound.freed (ring_of_recorderSound h).capture rfl rfl rfl ⟨rfl, rfl⟩ rfl ⟨rfl, rfl⟩
  unfold clearRecorder
  dsimp only
  split
  next hst => exact hfree.stopped hst rfl rfl
  · exact hfree.startFilling rfl hfree.start

theorem clearCapture_sound {s : State} (ps : List Byte) (hs : RecordersSound s) :
    RecordersSound (clearCapture ps s).1 := by
  unfold clearCapture
  split
  · exact hs
  next sd _ => exact modRec_sound s sd _ clearRecorder_sound hs

/-! ### Every command but the resets and the load -/

theorem stageWork_recordersSound {s : State} {sd : Side} (c : Completion) (hs : RecordersSound s) :
    RecordersSound (stageWork sd c s).1 := by
  have hacts : ∀ t, Acts { completionTouch with recorder := false } s t → RecordersSound t :=
    fun t h => h.recordersSound rfl hs
  unfold stageWork
  split
  · exact hacts _ (stageStatistics_acts rfl _ _ .refl)
  · exact hacts _ (stageGlare_acts rfl _ _ .refl)
  · exact hacts _ (stageExposure_acts rfl rfl _ _ .refl)
  · exact hacts _ (stageDayNight_acts rfl rfl _ _ .refl)
  · exact writeDigest_sound hs
  · exact hacts _ (stageOffer_acts rfl _ _ .refl)

theorem runDropped_sound {s : State} {sd : Side} (hs : RecordersSound s) : RecordersSound (runDropped sd s) := by
  unfold runDropped
  split
  · exact writeDigest_sound (Acts.recordersSound (b := { inputs := true }) rfl (.inputs rfl sd _ (fun _ => rfl) .refl) hs)
  · exact hs

theorem exec_recordersSound {c : Instr} (hc : isReset c = false) {s t : State} (h : exec c s = .next t)
    (hs : RecordersSound s) : RecordersSound t := by
  by_cases hr : (touchOf c).recorder = false
  · exact (exec_acts c hc s t h).recordersSound hr hs
  have hport : ∀ s t, Acts requestTouch s t → RecordersSound s → RecordersSound t := fun _ _ h => h.recordersSound rfl
  cases c <;> first | exact absurd rfl hr | injection h with h; subst h
  case frameCompletion sd =>
    exact whileRunning_keeps (fun s hs => runCompletion_keeps (fun _ _ h => h.recordersSound rfl)
      (fun _ c => stageWork_recordersSound c) hs) hs
  case droppedFrameCompletion sd => exact whileRunning_keeps (Q := RecordersSound) (fun _ h => runDropped_sound h) hs
  case crossTrigger sd => exact whileRunning_keeps (Q := RecordersSound) (fun _ h => takeCross_sound h) hs
  case captureControl p tag ps => exact takeRequest_keeps hport (fun _ => captureControl_sound ps) _ _ _ _ hs
  case setCaptureParams p tag ps => exact takeRequest_keeps hport (fun _ => setCaptureParams_sound ps) _ _ _ _ hs
  case clearCapture p tag ps => exact takeRequest_keeps hport (fun _ => clearCapture_sound ps) _ _ _ _ hs
  case releaseCapture p tag ps => exact takeRequest_keeps hport (fun _ => releaseCapture_sound ps) _ _ _ _ hs
  case readCaptureHeader p tag ps => exact takeRequest_keeps hport (fun _ => readCaptureHeader_sound p ps) _ _ _ _ hs
  case readCaptureNext p tag ps => exact takeRequest_keeps hport (fun _ => readCaptureNext_sound p ps) _ _ _ _ hs

/-! ### The resets and the load -/

/-- The CAPTURE region in force gives a buffer size and a pre-trigger length of R133. -/
abbrev CaptureInRange (k : Calibration) : Prop := CaptureSound k.capture.size k.capture.npre

theorem loadCalibration_capture (st : PerRegion StoredRegion) : CaptureInRange (loadCalibration st) := by
  dsimp only [CaptureInRange, loadCalibration]
  split
  next h =>
    simp only [regionValid, itemsValid, captureValid, inRange, Bool.and_eq_true, decide_eq_true_eq] at h
    obtain ⟨-, ⟨⟨⟨hsize, hlo, hhi⟩, -⟩, -⟩, -⟩ := h
    have hn := bounds_of_size hsize
    exact ⟨hsize, hlo, by omega⟩
  · decide

theorem resetRecorder_sound {k : Calibration} (h : CaptureInRange k) : RecorderSound (resetRecorder k) := by
  have hring : RingSound (resetRecorder k) := RingSound.freed h rfl rfl rfl ⟨rfl, rfl⟩ rfl ⟨rfl, rfl⟩
  have hpos : 0 < k.capture.size := hring.cursors.1
  by_cases ha : k.capture.autostart = true
  · exact hring.filling (by simp [resetRecorder, ha]) rfl ⟨hring.start, hpos⟩ h.2.1
  · exact hring.stopped (by simp [resetRecorder, ha]) rfl rfl

theorem restartRecorder_sound {k : CaptureCal} {r : Recorder} (hk : CaptureSound k.size k.npre) (h : RecorderSound r) :
    RecorderSound (restartRecorder k r) := by
  obtain ⟨hst, hcur, hwait, -, -, -, -, hsize, -⟩ := stopRecorder_spec r
  have hstop := stopRecorder_ring (ring_of_recorderSound h)
  have hpos : 0 < k.size := by have := bounds_of_size hk.1; omega
  unfold restartRecorder
  dsimp only
  generalize hr2 : zeroCursors { (if k.size = r.size then stopRecorder r else freeAll (stopRecorder r)) with
    size := k.size, npre := k.npre, crossLink := k.crossLink, crossIncoming := 0, triggersLost := 0
    framesSuppressed := 0 } = r2
  have hr : RingSound r2 ∧ r2.state = .stopped ∧ r2.current = none ∧ r2.waiting = noSources := by
    by_cases hs : k.size = r.size
    · rw [if_pos hs] at hr2
      subst hr2
      have hcount := bufferCount_congr { stopRecorder r with size := k.size } (stopRecorder r) (hs.trans hsize.symm)
      refine ⟨⟨hk, ?_, ?_, ?_, hstop.pending, hstop.slots, hpos, hpos⟩, hst, hcur, hwait⟩
      · exact lt_of_lt_of_eq hstop.start hcount.symm
      · exact le_of_le_of_eq hstop.frozen hcount.symm
      · exact hstop.queue.trans (List.map_congr_left fun i _ =>
          congrArg (fun n => ((stopRecorder r).rp + i) % n) hcount.symm)
    · rw [if_neg hs] at hr2
      subst hr2
      exact ⟨RingSound.freed hk rfl rfl rfl hstop.pending rfl ⟨rfl, rfl⟩, hst, hcur, hwait⟩
  obtain ⟨hring, hstopped, hnone, hempty⟩ := hr
  have hw : noSource r2.waiting = true := by rw [hempty]; rfl
  split
  · exact hring.startRecorder hnone hw
  · exact hring.stopped hstopped hnone hw

theorem cutProgramming_cal (s : State) : (cutProgramming s).cal = s.cal := by
  unfold cutProgramming
  split <;> rfl

theorem loadPart_recordersSound {s : State} (hk : CaptureInRange s.cal) (hs : RecordersSound s) :
    CaptureInRange (loadPart s).cal ∧ RecordersSound (loadPart s) := by
  have hload : CaptureInRange (loadStore s).cal := loadCalibration_capture s.store.stored
  unfold loadPart
  split
  · exact ⟨hk, recorders_congr s _ (fun x => by simp) hs⟩
  · exact ⟨hload, fun x => by cases x <;> exact resetRecorder_sound hload⟩
  · exact ⟨hload, fun x => by
      cases x
      · exact restartRecorder_sound hload (hs .left)
      · exact restartRecorder_sound hload (hs .right)⟩
  next c _ =>
    have hacts := reportDefaults_acts { s with phase := .running }
    have hv := hacts.recordersSound rfl (recorders_congr s _ (fun x => by simp) hs)
    have hcal : (reportDefaults { s with phase := .running }).cal = s.cal := hacts.cal_eq
    exact ⟨hcal.symm ▸ hk, fun x => by
      cases x
      · exact hv .left
      · exact hv .right⟩
  · exact ⟨hk, hs⟩

/-- Settles O57: the ring is kept by each operation on a recorder, and each recorder state adds what the operation that
enters it has established; every other command is a chain of acts that hands triggers at most. -/
theorem recordersStaySound : Obligations.RecordersStaySound := by
  intro s t hk hs h
  refine step_keeps (Q := fun s => CaptureInRange s.cal ∧ RecordersSound s) (fun s l h => ?_) (fun c s t h hq => ?_) h
    ⟨hk, hs⟩
  · exact ⟨h.1, recorders_congr s _ (fun x => by simp) h.2⟩
  obtain ⟨hk, hs⟩ := hq
  by_cases hc : isReset c = true
  · refine reset_keeps (Q := fun s => CaptureInRange s.cal ∧ RecordersSound s) (fun s t ha hq => ?_) (fun s hq => ?_)
      (fun s p hq => ?_) (fun s hq => loadPart_recordersSound hq.1 hq.2) hc h ⟨hk, hs⟩
    · exact ⟨ha.cal_eq ▸ hq.1, ha.recordersSound rfl hq.2⟩
    · have hcal : (powerOn s).cal = s.cal := cutProgramming_cal s
      exact ⟨hcal.symm ▸ hq.1, fun x => by cases x <;> exact resetRecorder_sound hq.1⟩
    · have hcal : (takeRestart p s).cal = s.cal := endTransaction_cal s p
      exact ⟨hcal.symm ▸ hq.1, fun x => by
        cases x
        · exact hq.2 .left
        · exact hq.2 .right⟩
  · have hc : isReset c = false := by simpa using hc
    exact ⟨(exec_acts c hc s t h).cal_eq ▸ hk, exec_recordersSound hc h hs⟩

end Sys2Proof.Machine


/-! PROOF. A side's link records, glare map, far window and negotiation through every command (R1 to R17, R51, R69 to
R72, R85 to R95), and O58 from them. -/

namespace Sys2Proof.Machine

/-! ### The Camera Link Receiver -/

/-- Both sides' CLRs are sound, and their modes are those of k. -/
abbrev ClrsSound (k : Side → DayNight) (s : State) : Prop :=
  ∀ x, ClrSound (s.side x).clr ∧ (s.side x).expo.dayNight = k x

/-- t holds the CLRs of s with the one of a side changed by f, and both sides' modes as they were. -/
def ClrAfter (sd : Side) (f : Clr → Clr) (s t : State) : Prop :=
  ∀ x, (t.side x).clr = ((s.modClr sd f).side x).clr ∧ (t.side x).expo.dayNight = (s.side x).expo.dayNight

theorem ClrAfter.refl (sd : Side) (s : State) : ClrAfter sd (fun c => c) s s := by
  intro x
  obtain rfl | rfl := side_eq_or_other sd x <;> simp

theorem ClrAfter.trans {sd : Side} {f g : Clr → Clr} {s t u : State} (h : ClrAfter sd f s t) (k : ClrAfter sd g t u) :
    ClrAfter sd (fun c => g (f c)) s u := by
  intro x
  obtain ⟨hclr, hday⟩ := h x
  obtain ⟨kclr, kday⟩ := k x
  refine ⟨kclr.trans ?_, kday.trans hday⟩
  obtain rfl | rfl := side_eq_or_other sd x
  · simpa using congrArg g hclr
  · simpa using hclr

theorem ClrAfter.mod (sd : Side) (f : Clr → Clr) (s : State) : ClrAfter sd f s (s.modClr sd f) := fun x => ⟨rfl, by simp⟩

/-- What leaves the CLRs and the modes may come after a change of one. -/
theorem ClrAfter.then {sd : Side} {f : Clr → Clr} {s t u : State} (h : ClrAfter sd f s t)
    (hclr : ∀ x, (u.side x).clr = (t.side x).clr)
    (hday : ∀ x, (u.side x).expo.dayNight = (t.side x).expo.dayNight) : ClrAfter sd f s u :=
  fun x => ⟨(hclr x).trans (h x).1, (hday x).trans (h x).2⟩

theorem ClrAfter.same {sd : Side} {f : Clr → Clr} {s t u : State} (h : ClrAfter sd f s t) (k : SameButReports t u) :
    ClrAfter sd f s u :=
  h.then (fun x => by rw [k.side_eq x]) (fun x => by rw [k.side_eq x])

theorem ClrAfter.clr_eq {sd : Side} {f : Clr → Clr} {s t : State} (h : ClrAfter sd f s t) :
    (t.side sd).clr = f (s.side sd).clr := by
  rw [(h sd).1, modClr_side_clr]

theorem ClrAfter.clrsSound {sd : Side} {f : Clr → Clr} {s t : State} (h : ClrAfter sd f s t)
    (hf : ClrSound (s.side sd).clr → ClrSound (f (s.side sd).clr)) {k : Side → DayNight} (hs : ClrsSound k s) :
    ClrsSound k t := by
  intro x
  refine ⟨?_, (h x).2.trans (hs x).2⟩
  rw [(h x).1]
  obtain rfl | rfl := side_eq_or_other sd x
  · rw [modClr_side_clr]
    exact hf (hs x).1
  · rw [modClr_side_other]
    exact (hs _).1

theorem pushWindow_clrAfter (s : State) (sd : Side) (n : Nat) :
    ClrAfter sd (fun c => { c with window := pushCount c.window n }) s (pushWindow sd n s) :=
  (ClrAfter.mod sd _ s).same (pushWindow_same s sd n)

theorem handCamera_clrAfter (s : State) (sd : Side) (i : CompletionInput) :
    ClrAfter sd (fun c => c) s (handCamera sd i s) := by
  intro x
  obtain rfl | rfl := side_eq_or_other sd x
  · simp [handCamera_side]
  · simp [handCamera]

/-- The CLR after a drop event of a frame with n bad lines (R9, R13). -/
def droppedClr (n : Nat) (c : Clr) : Clr :=
  { c with framesDropped := c.framesDropped + 1, window := pushCount c.window n }

theorem dropFrame_clrAfter (s : State) (sd : Side) :
    ClrAfter sd (droppedClr (s.side sd).clr.frame.badCount) s (dropFrame sd s) := by
  have hpush := (ClrAfter.mod sd (fun c => { c with framesDropped := c.framesDropped + 1 }) s).trans
    (pushWindow_clrAfter _ sd (s.side sd).clr.frame.badCount)
  unfold dropFrame
  dsimp only
  split
  · exact hpush
  · exact hpush.trans (handCamera_clrAfter _ sd _)

theorem pushCount_length_le (w : List Nat) (n : Nat) (h : w.length ≤ Config.crcWindow) :
    (pushCount w n).length ≤ Config.crcWindow := by
  have hpos : 0 < Config.crcWindow := by decide
  unfold pushCount
  split <;> simp <;> omega

theorem droppedClr_sound {c : Clr} (n : Nat) (h : ClrSound c) : ClrSound (droppedClr n c) := by
  obtain ⟨hlock, hwait, hhead, hline, hbad, hrows, hlist, hwin, hrun⟩ := h
  exact ⟨hlock, hwait, hhead, hline, hbad, hrows, hlist, pushCount_length_le _ _ hwin, hrun⟩

/-- In LOCKED a frame record whose counts fit is put in place of the open one. -/
theorem withFrame_sound {c : Clr} {f : FrameInProgress} (hl : c.locked = true) (h : ClrSound c)
    (hf : (f.state = .receiving → f.header.isSome = true) ∧ f.nextLine ≤ Config.lines ∧ f.badCount ≤ f.nextLine
      ∧ f.rows.length = f.nextLine ∧ f.badLines.length = min f.badCount 16) : ClrSound { c with frame := f } := by
  obtain ⟨-, hwait, -, -, -, -, -, hwin, hrun⟩ := h
  obtain ⟨hhead, hline, hbad, hrows, hlist⟩ := hf
  exact ⟨fun hn => by simp [hl] at hn, hwait, hhead, hline, hbad, hrows, hlist, hwin, hrun⟩

theorem idleFrame_counts : (idleFrame.state = .receiving → idleFrame.header.isSome = true)
    ∧ idleFrame.nextLine ≤ Config.lines ∧ idleFrame.badCount ≤ idleFrame.nextLine
    ∧ idleFrame.rows.length = idleFrame.nextLine ∧ idleFrame.badLines.length = min idleFrame.badCount 16 := by
  decide

theorem closedClr_sound {c : Clr} (hl : c.locked = true) (h : ClrSound c) : ClrSound { c with frame := idleFrame } :=
  withFrame_sound hl h idleFrame_counts

theorem openedClr_sound {c : Clr} (hd : Header) (hl : c.locked = true) (h : ClrSound c) :
    ClrSound { c with frame := openedFrame hd } :=
  withFrame_sound hl h ⟨fun _ => rfl, Nat.zero_le _, Nat.zero_le _, rfl, rfl⟩

theorem discardingClr_sound {c : Clr} (hl : c.locked = true) (h : ClrSound c) :
    ClrSound { c with frame := { c.frame with state := .discarding } } := by
  obtain ⟨-, -, -, hline, hbad, hrows, hlist, -, -⟩ := id h
  exact withFrame_sound hl h ⟨fun hn => by simp at hn, hline, hbad, hrows, hlist⟩

theorem takenLine_sound {c : Clr} (row : List Pixel) (hl : c.locked = true) (hr : c.frame.state = .receiving)
    (hlt : c.frame.nextLine < Config.lines) (h : ClrSound c) :
    ClrSound { c with frame := takeBadLine row c.frame } ∧ ClrSound { c with frame := takeGoodLine row c.frame } := by
  obtain ⟨-, -, hhead, -, hbad, hrows, hlist, -, -⟩ := id h
  have hrow : (c.frame.rows ++ [row]).length = c.frame.nextLine + 1 := by simp [hrows]
  refine ⟨withFrame_sound hl h ⟨fun _ => hhead hr, hlt, Nat.succ_le_succ hbad, hrow, ?_⟩,
    withFrame_sound hl h ⟨fun _ => hhead hr, hlt, Nat.le_succ_of_le hbad, hrow, hlist⟩⟩
  unfold takeBadLine
  dsimp only
  split
  · rw [List.length_append, List.length_singleton]
    omega
  · omega

section Modes

variable {k : Side → DayNight}

/-- The CLR after the drop of the open frame in LOCKED, and what R5 and R6 do to it then. -/
theorem discardDropped_clrsSound {s : State} {sd : Side} (hl : (s.side sd).clr.locked = true) (hs : ClrsSound k s) :
    ClrsSound k (discardFrame sd (dropFrame sd s)) := by
  refine ClrAfter.clrsSound ((dropFrame_clrAfter s sd).trans (.mod sd _ _)) (fun h => ?_) hs
  exact discardingClr_sound (c := droppedClr _ _) hl (droppedClr_sound _ h)

theorem openFrame_clrsSound {s : State} {sd : Side} (hd : Header) (hl : (s.side sd).clr.locked = true)
    (hs : ClrsSound k s) : ClrsSound k (openFrame sd hd s) := by
  have hopen : ClrsSound k (s.modClr sd fun c => { c with frame := openedFrame hd }) :=
    (ClrAfter.mod sd _ s).clrsSound (openedClr_sound hd hl) hs
  unfold openFrame
  dsimp only
  split
  · have hlast := (ClrAfter.mod sd (fun c => { c with lastHeader := some (hd.tRep.toNat, hd.gRep.toNat) }) _).clrsSound
      (fun h => h) hopen
    unfold checkTemperature
    dsimp only
    split
    · exact fun x => by simpa using hlast x
    · split
      · exact fun x => by simpa using hlast x
      · exact hlast
  · exact discardDropped_clrsSound (by simpa using hl) hopen

theorem takeFrameStart_clrsSound {s : State} {sd : Side} (hd : Header) (hs : ClrsSound k s) :
    ClrsSound k (takeFrameStart sd hd s) := by
  unfold takeFrameStart
  dsimp only
  split
  · exact hs
  next hl =>
    have hl : (s.side sd).clr.locked = true := by simpa using hl
    split
    · exact openFrame_clrsSound hd hl hs
    · exact openFrame_clrsSound hd hl hs
    · refine openFrame_clrsSound hd ?_ ((dropFrame_clrAfter s sd).clrsSound (droppedClr_sound _) hs)
      rw [(dropFrame_clrAfter s sd).clr_eq]
      exact hl

theorem takeLine_clrsSound {s : State} {sd : Side} (i : BitVec 16) (px : List Byte) (crc : BitVec 16)
    (hs : ClrsSound k s) : ClrsSound k (takeLine sd i px crc s) := by
  unfold takeLine
  dsimp only
  split
  · exact hs
  next hl =>
    have hl : (s.side sd).clr.locked = true := by simpa using hl
    split
    · exact hs
    · exact hs
    next hr =>
      split
      · exact discardDropped_clrsSound hl hs
      next hlt =>
        have hline := takenLine_sound (pixelsOfBytes px) hl hr (by omega)
        split
        · exact (ClrAfter.mod sd _ s).clrsSound (fun h => (hline h).1) hs
        · split
          · exact (ClrAfter.mod sd _ s).clrsSound (fun h => (hline h).2) hs
          · exact discardDropped_clrsSound hl hs

/-- The CLR after the acceptance of frame n with its bad lines, by the run and the gaps of R11 and R12. -/
def acceptedClr (n : FrameNumber) (bad run : Nat) (gaps : BitVec 32) (c : Clr) : Clr :=
  { c with framesAccepted := c.framesAccepted + 1, linesRepaired := c.linesRepaired + BitVec.ofNat 32 bad
           window := pushCount c.window bad, contRun := run, seqGaps := gaps, lastAccepted := some n }

theorem checkContinuity_clrAfter (s : State) (sd : Side) (n : FrameNumber) :
    ∃ run gaps, run ≤ 60 ∧ ClrAfter sd (fun c => { c with contRun := run, seqGaps := gaps, lastAccepted := some n }) s
      (checkContinuity sd n s) := by
  obtain ⟨hcont, hgap⟩ := checkContinuity_same s sd n _ rfl
  have hfix (run : Nat) (gaps : BitVec 32) (f : Clr → Clr)
      (hf : f (s.side sd).clr = { (s.side sd).clr with contRun := run, seqGaps := gaps, lastAccepted := some n }) :
      ClrAfter sd (fun c => { c with contRun := run, seqGaps := gaps, lastAccepted := some n }) s (s.modClr sd f) := by
    intro x
    obtain rfl | rfl := side_eq_or_other sd x
    · simp [hf]
    · simp
  by_cases h : (s.side sd).clr.lastAccepted = none ∨ (s.side sd).clr.lastAccepted = some (n - 1)
  · exact ⟨_, _, Nat.min_le_right _ _, (hfix _ _ _ rfl).same (hcont h)⟩
  · obtain hl | ⟨last, hl⟩ := Option.eq_none_or_eq_some (s.side sd).clr.lastAccepted
    · exact absurd (.inl hl) h
    · exact ⟨_, _, Nat.zero_le _, (hfix _ _ _ rfl).same (hgap last hl fun he => h (.inr (he ▸ hl)))⟩

theorem headerReport_clrAfter (s : State) (sd : Side) (f : FrameNumber) (a : Byte) (t g : Nat) :
    ClrAfter sd (fun c => c) s (headerReport sd f a t g s) := by
  obtain ⟨list, run, hsame⟩ := headerReport_same s sd f a t g
  refine (ClrAfter.then (.refl sd s) (fun x => by simp) (fun x => ?_)).same hsame
  obtain rfl | rfl := side_eq_or_other sd x <;> simp

theorem acceptFrame_clrAfter (s : State) (sd : Side) (h : Header) :
    ∃ run gaps, run ≤ 60 ∧
      ClrAfter sd (acceptedClr h.frameNumber (s.side sd).clr.frame.badCount run gaps) s (acceptFrame sd h s) := by
  unfold acceptFrame
  dsimp only
  have hpush := (ClrAfter.mod sd (fun c => { c with
    framesAccepted := c.framesAccepted + 1
    linesRepaired := c.linesRepaired + BitVec.ofNat 32 (s.side sd).clr.frame.badCount }) s).trans
      (pushWindow_clrAfter _ sd (s.side sd).clr.frame.badCount)
  obtain ⟨run, gaps, hrun, hcheck⟩ := checkContinuity_clrAfter (pushWindow sd (s.side sd).clr.frame.badCount
    (s.modClr sd fun c => { c with
      framesAccepted := c.framesAccepted + 1
      linesRepaired := c.linesRepaired + BitVec.ofNat 32 (s.side sd).clr.frame.badCount })) sd h.frameNumber
  exact ⟨run, gaps, hrun, ((hpush.trans hcheck).trans (headerReport_clrAfter _ sd _ _ _ _)).trans
    (handCamera_clrAfter _ sd _)⟩

theorem acceptedClr_sound {c : Clr} (n : FrameNumber) (bad : Nat) {run : Nat} (gaps : BitVec 32) (hrun : run ≤ 60)
    (hl : c.locked = true) (h : ClrSound c) : ClrSound (acceptedClr n bad run gaps c) := by
  obtain ⟨-, hwait, hhead, hline, hbad, hrows, hlist, hwin, -⟩ := h
  exact ⟨fun hn => by simp [acceptedClr, hl] at hn, hwait, hhead, hline, hbad, hrows, hlist,
    pushCount_length_le _ _ hwin, hrun⟩

theorem takeFrameEnd_clrsSound {s : State} {sd : Side} (n : BitVec 16) (hs : ClrsSound k s) :
    ClrsSound k (takeFrameEnd sd n s) := by
  unfold takeFrameEnd
  dsimp only
  split
  · exact hs
  next hl =>
    have hl : (s.side sd).clr.locked = true := by simpa using hl
    have hdrop : ClrsSound k (closeFrame sd (dropFrame sd s)) := by
      refine ClrAfter.clrsSound ((dropFrame_clrAfter s sd).trans (.mod sd _ _)) (fun h => ?_) hs
      exact closedClr_sound (c := droppedClr _ _) hl (droppedClr_sound _ h)
    split
    · exact hs
    · exact (ClrAfter.mod sd _ s).clrsSound (closedClr_sound hl) hs
    next h _ _ =>
      split
      · obtain ⟨run, gaps, hrun, haccept⟩ := acceptFrame_clrAfter s sd h
        refine ClrAfter.clrsSound (haccept.trans (.mod sd _ _)) (fun hc => ?_) hs
        exact closedClr_sound (c := acceptedClr _ _ _ _ _) hl (acceptedClr_sound _ _ _ hrun hl hc)
      · exact hdrop
    · exact hdrop

theorem cameraLock_clrsSound {s : State} {sd : Side} (hs : ClrsSound k s) : ClrsSound k (cameraLock sd s) := by
  have hlock : ClrsSound k (s.modClr sd fun c => { c with locked := true }) :=
    (ClrAfter.mod sd _ s).clrsSound (fun h => ⟨fun hn => by simp at hn, h.2⟩) hs
  unfold cameraLock
  split
  · exact hs
  · exact fun x => by simpa using hlock x

/-- The CLR after a loss of lock (R2, R16): nothing of a frame in progress or of a transmission is left. -/
def lostClr (c : Clr) : Clr :=
  { c with locked := false, frame := idleFrame, lastAccepted := none, sending := none, waiting := none }

theorem lostClr_sound {c : Clr} (hwin : c.window.length ≤ Config.crcWindow) (hrun : c.contRun ≤ 60) :
    ClrSound (lostClr c) := by
  obtain ⟨hhead, hline, hbad, hrows, hlist⟩ := idleFrame_counts
  exact ⟨fun _ => ⟨rfl, rfl, rfl⟩, fun h => by simp [lostClr] at h, hhead, hline, hbad, hrows, hlist, hwin, hrun⟩

theorem cameraUnlock_clrsSound {s : State} {sd : Side} (hs : ClrsSound k s) : ClrsSound k (cameraUnlock sd s) := by
  unfold cameraUnlock
  split
  · exact hs
  · have hraise : ClrAfter sd (fun c => { c with locked := false }) s
        (sendRaise .linkLoss (faultSideOf sd) 0 (s.modClr sd fun c => { c with locked := false })) :=
      (ClrAfter.mod sd _ s).then (fun x => by simp) (fun x => by simp)
    dsimp only
    split
    · refine ClrAfter.clrsSound (((hraise.trans (dropFrame_clrAfter _ sd)).trans (.mod sd _ _)).trans (.mod sd _ _))
        (fun h => ?_) hs
      obtain ⟨-, -, -, -, -, -, -, hwin, hrun⟩ := h
      exact lostClr_sound (c := droppedClr _ _) (pushCount_length_le _ _ hwin) hrun
    · refine ClrAfter.clrsSound ((hraise.trans (.mod sd _ _)).trans (.mod sd _ _)) (fun h => ?_) hs
      obtain ⟨-, -, -, -, -, -, -, hwin, hrun⟩ := h
      exact lostClr_sound hwin hrun

end Modes

theorem handCommand_sound {c : Clr} (k : Command) (h : ClrSound c) : ClrSound (handCommand k c) := by
  obtain ⟨hlock, hwait, hrest⟩ := id h
  unfold handCommand
  split
  · exact h
  next hl =>
    have hl : c.locked = true := by simpa using hl
    split
    · exact ⟨fun hn => by simp [hl] at hn, fun _ => rfl, hrest⟩
    next hsend => exact ⟨fun hn => by simp [hl] at hn, fun _ => by simpa [Option.isSome_iff_ne_none] using hsend, hrest⟩

theorem transmissionDone_sound {c : Clr} (h : ClrSound c) : ClrSound (transmissionDone c) := by
  obtain ⟨hlock, hwait, hrest⟩ := id h
  unfold transmissionDone
  split
  · exact h
  next hsend => exact ⟨fun hn => absurd (hlock hn).2.2 (by simpa using hsend), fun hn => by simp at hn, hrest⟩

end Sys2Proof.Machine


/-! PROOF. Frame completion, the far window and the negotiation through every command, and O58 (R1 to R17, R51, R69 to
R72, R85 to R95). -/

namespace Sys2Proof.Machine

/-! ### Frame completion -/

theorem clrsSound_of_eq {k k' : Side → DayNight} {s t : State} (hclr : ∀ x, (t.side x).clr = (s.side x).clr)
    (hday : ∀ x, (t.side x).expo.dayNight = k' x) (hs : ClrsSound k s) : ClrsSound k' t :=
  fun x => ⟨by rw [hclr]; exact (hs x).1, hday x⟩

theorem issueCommand_clrAfter (s : State) (sd : Side) (n : FrameNumber) (t g : Nat) :
    ∃ c, ClrAfter sd (handCommand c) s (issueCommand sd n t g s).1 := by
  have hout := pushOutCommand_acts (b := { expo := true }) rfl sd (.expo rfl sd (appendCommand n t g) (.refl (s0 := s)))
  refine ⟨_, ClrAfter.trans (f := fun c => c) (fun x => ⟨?_, ?_⟩) (.mod sd _ _)⟩
  · rw [hout.clr_eq rfl]
    exact (ClrAfter.refl sd s x).1
  · have hpush (u : State) : ((pushOutCommand sd u).side x).expo.dayNight = (u.side x).expo.dayNight := by
      unfold pushOutCommand
      split
      · split
        · unfold countUnconfirmed
          rw [sendRaise_expo]
          obtain rfl | rfl := side_eq_or_other sd x <;> simp
        · rfl
      · rfl
    rw [hpush]
    obtain rfl | rfl := side_eq_or_other sd x <;> simp [appendCommand]

theorem stageExposure_clrAfter (s : State) (sd : Side) (f : AcceptedFrame) :
    ClrAfter sd (fun c => c) s (stageExposure sd f s).1 ∨
      ∃ c, ClrAfter sd (handCommand c) s (stageExposure sd f s).1 := by
  have hmeter : ClrAfter sd (fun c => c) s (metered sd f s) := by
    refine (ClrAfter.refl sd s).then (fun x => by simp [metered]) (fun x => ?_)
    obtain rfl | rfl := side_eq_or_other sd x <;> simp [metered]
  obtain ⟨hnone, hsome⟩ := stageExposure_spec s sd f
  match hi : issued sd f s with
  | none => exact .inl (by rw [hnone hi]; exact hmeter)
  | some (t, g) =>
    rw [hsome t g hi]
    obtain ⟨c, hc⟩ := issueCommand_clrAfter ((metered sd f s).modExpo sd fun e =>
      if e.mode = .manual then { e with manualSend := false } else e) sd f.number t g
    refine .inr ⟨c, ClrAfter.trans (hmeter.then (fun x => by simp) (fun x => ?_)) hc⟩
    obtain rfl | rfl := side_eq_or_other sd x
    · rw [modExpo_side_expo]
      split <;> rfl
    · simp

/-- Stage 4 alone changes a mode, and it leaves the CLRs. -/
theorem stageWork_clrsSound {k : Side → DayNight} {s : State} {sd : Side} (c : Completion) (hs : ClrsSound k s) :
    ClrsSound (fun x => ((stageWork sd c s).1.side x).expo.dayNight) (stageWork sd c s).1 := by
  by_cases hc : c.next = .exposure
  · have hw : (stageWork sd c s).1 = (stageExposure sd c.frame s).1 := by simp only [stageWork, hc]
    rw [hw]
    obtain h | ⟨q, h⟩ := stageExposure_clrAfter s sd c.frame
    · exact fun x => ⟨(h.clrsSound (fun h => h) hs x).1, rfl⟩
    · exact fun x => ⟨(h.clrsSound (handCommand_sound q) hs x).1, rfl⟩
  · have hacts : Acts { completionTouch with clr := false } s (stageWork sd c s).1 := by
      unfold stageWork
      split
      · exact stageStatistics_acts rfl _ _ .refl
      · exact stageGlare_acts rfl _ _ .refl
      next h => exact absurd h hc
      · exact stageDayNight_acts rfl rfl _ _ .refl
      · exact writeDigest_acts rfl _ _ .refl
      · exact stageOffer_acts rfl _ _ .refl
    exact fun x => ⟨by rw [hacts.clr_eq rfl]; exact (hs x).1, rfl⟩

/-! ### The glare map in DAY (R51, R52) -/

abbrev DaysSound (s : State) : Prop := ∀ x, DaySound (s.side x)

theorem daysSound_of_eq {s t : State} (hglare : ∀ x, (t.side x).glare = (s.side x).glare)
    (hday : ∀ x, (t.side x).expo.dayNight = (s.side x).expo.dayNight) (hs : DaysSound s) : DaysSound t := by
  intro x hx
  rw [hglare]
  exact hs x ((hday x).symm.trans hx)

theorem unityMap_daySound (t : GlareTile) (h : t ∈ unityMap.tiles) : t.ga = 256 ∧ t.h = 0 := by
  rw [List.eq_of_mem_replicate h]
  exact ⟨rfl, rfl⟩

/-- A stage of a side leaves the other side's map. -/
theorem daysSound_of_stage {s t : State} {sd : Side} (hframe : StageFrame sd s t) (h : DaySound (t.side sd))
    (hs : DaysSound s) : DaysSound t := by
  intro x
  obtain rfl | rfl := side_eq_or_other sd x
  · exact h
  · obtain ⟨-, -, -, -, -, -, -, -, -, -, hother, -⟩ := hframe
    have ho : DaySound { t.side (otherSide sd) with recorder := (s.side (otherSide sd)).recorder } := hother ▸ hs _
    exact ho

theorem stageWork_daysSound {s : State} {sd : Side} (c : Completion) (hs : DaysSound s) :
    DaysSound (stageWork sd c s).1 := by
  have hacts {t : State} (h : Acts { completionTouch with expo := false, glare := false } s t) : DaysSound t :=
    daysSound_of_eq (h.glare_eq rfl) (fun x => by rw [h.expo_eq rfl x]) hs
  unfold stageWork
  split
  · exact hacts (stageStatistics_acts rfl _ _ .refl)
  · dsimp only
    rw [stageGlare_spec]
    refine daysSound_of_stage (stageFrame_mod s sd _ ⟨rfl, rfl, rfl, rfl⟩) (fun hday => ?_) hs
    rw [modGlare_side_expo] at hday
    rw [modGlare_side_glare, if_neg (by rw [hday]; decide)]
    exact hs sd hday
  · obtain ⟨hframe, -, hglare, -, -, hday, -⟩ := stageExposure_rest s sd c.frame
    refine daysSound_of_stage hframe (fun hx => ?_) hs
    rw [hglare]
    exact hs sd (hday.symm.trans hx)
  · obtain ⟨hframe, -, -, -, -, -, -, hglare⟩ := stageDayNight_rest s _ sd c.frame rfl
    refine daysSound_of_stage hframe (fun hx => ?_) hs
    rw [hglare]
    split
    · exact unityMap_daySound
    next hn =>
      refine hs sd ?_
      cases hm : (s.side sd).expo.dayNight
      · rfl
      · exact absurd ⟨hm, hx⟩ hn
  · exact hacts (writeDigest_acts rfl _ _ .refl)
  · exact hacts (stageOffer_acts rfl _ _ .refl)

/-! ### The far window (R69, R72) -/

abbrev WindowsSound (s : State) : Prop := ∀ x, WindowSound (s.side x).view

theorem windowSound_congr {x y : Composer} (h : windowOf y = windowOf x) (hx : WindowSound x) : WindowSound y := by
  simp only [windowOf, Prod.mk.injEq] at h
  obtain ⟨⟨hox, hoy, htx, hty⟩, -⟩ := h
  unfold WindowSound
  rwa [hox, hoy, htx, hty]

theorem Acts.windowsSound {b : Touch} {s0 s : State} (hb : b.view = false) (h : Acts b s0 s) (h0 : WindowsSound s0) :
    WindowsSound s := fun x => windowSound_congr (h.window_eq hb x) (h0 x)

theorem modView_windowsSound {s : State} {sd : Side} {f : Composer → Composer}
    (hf : WindowSound (s.side sd).view → WindowSound (f (s.side sd).view)) (hs : WindowsSound s) :
    WindowsSound (s.modView sd f) := by
  intro x
  obtain rfl | rfl := side_eq_or_other sd x
  · rw [modView_side_view]
    exact hf (hs x)
  · rw [modView_side_other]
    exact hs _

theorem changeView_windowsSound {s : State} (sd : Side) (v : ViewState) (hs : WindowsSound s) :
    WindowsSound (changeView sd v s) := fun x => windowSound_congr (changeView_window s sd x v) (hs x)

theorem raiseStale_windowsSound {s : State} (sd : Side) (d : BitVec 16) (hs : WindowsSound s) :
    WindowsSound (raiseStale sd d s) := fun x =>
  windowSound_congr (sendRaise_window _ _ _ _ x) (modView_windowsSound (fun h => h) hs x)

theorem enterInvalid_windowsSound {s : State} (sd : Side) (hs : WindowsSound s) : WindowsSound (enterInvalid sd s) :=
  modView_windowsSound (fun h => h) (changeView_windowsSound sd _ hs)

theorem takeLive_windowsSound {s : State} (sd : Side) (hs : WindowsSound s) : WindowsSound (takeLive sd s) :=
  modView_windowsSound (fun h => h) (changeView_windowsSound sd _ hs)

theorem decideStarting_windowsSound {s : State} (sd : Side) (hs : WindowsSound s) :
    WindowsSound (decideStarting sd s).1 := by
  unfold decideStarting
  dsimp only
  split
  · exact enterInvalid_windowsSound sd hs
  · split
    · exact takeLive_windowsSound sd hs
    · split
      · exact raiseStale_windowsSound sd _ (enterInvalid_windowsSound sd hs)
      · exact modView_windowsSound (fun h => h) hs

theorem decideShowing_windowsSound {s : State} (sd : Side) (hs : WindowsSound s) :
    WindowsSound (decideShowing sd s).1 := by
  by_cases hnew : newerFrame (s.side sd).view = true
  · rw [decideShowing_newer hnew]
    exact takeLive_windowsSound sd hs
  · rw [decideShowing_held (by simpa using hnew) rfl]
    generalize (if (s.side sd).view.state = .live then 0 else (s.side sd).view.heldCount) + 1 = held
    have hcount : WindowsSound (s.modView sd fun x => { x with heldCount := held }) :=
      modView_windowsSound (fun h => h) hs
    split
    · exact raiseStale_windowsSound sd _ (enterInvalid_windowsSound sd hcount)
    · exact modView_windowsSound (fun h => h) (changeView_windowsSound sd _ hcount)

theorem decideInvalid_windowsSound {s : State} (sd : Side) (hs : WindowsSound s) :
    WindowsSound (decideInvalid sd s).1 := by
  unfold decideInvalid
  dsimp only
  split
  · exact modView_windowsSound (fun h => h) hs
  · split
    · exact takeLive_windowsSound sd hs
    · split
      · exact raiseStale_windowsSound sd _ (modView_windowsSound (fun h => h) hs)
      · exact modView_windowsSound (fun h => h) hs

theorem decideView_windowsSound {s : State} (sd : Side) (hs : WindowsSound s) : WindowsSound (decideView sd s).1 := by
  unfold decideView
  split
  · exact decideStarting_windowsSound sd hs
  · exact decideShowing_windowsSound sd hs
  · exact decideShowing_windowsSound sd hs
  · exact decideInvalid_windowsSound sd hs
  · unfold decideTest
    dsimp only
    split
    · exact modView_windowsSound (fun h => h) hs
    · split <;> exact hs

theorem slewAxis_le {slew cur target bound : Nat} (hc : cur ≤ bound) (ht : target ≤ bound) :
    slewAxis slew cur target ≤ bound := by
  unfold slewAxis
  repeat' split
  all_goals omega

theorem clampInt_toNat_le (x : Int) (b : Nat) : (clampInt x 0 b).toNat ≤ b := by
  have h := clampInt_toNat x (Int.natCast_nonneg b)
  omega

theorem stepWindow_sound (k : Calibration) (sd : Side) (angle : Option Int) (reverse : Bool) {x : Composer}
    (h : WindowSound x) : WindowSound (stepWindow k sd angle reverse x) := by
  obtain ⟨hox, hoy, -, -⟩ := h
  have htx := clampInt_toNat_le (rawTargetX k sd x (nextTrailer k sd angle x.trailer)) 960
  have hty := clampInt_toNat_le (rawTargetY k sd x reverse) 720
  refine ⟨?_, ?_, htx, hty⟩ <;> dsimp only [stepWindow] <;> split
  · exact htx
  · exact slewAxis_le hox htx
  · exact hty
  · exact slewAxis_le hoy hty

theorem outputStart_windowsSound {s : State} {sd : Side} (hs : WindowsSound s) : WindowsSound (outputStart sd s) := by
  have hdecide : WindowsSound (decideView sd (windowStep sd s)).1 :=
    decideView_windowsSound sd (modView_windowsSound (stepWindow_sound _ _ _ _) hs)
  have hform (o : Output) (u : State) (hu : WindowsSound u) : WindowsSound (formOutput sd o u).1 := by
    cases o
    case compose => exact modView_windowsSound (fun h => h) hu
    all_goals exact hu
  exact Acts.windowsSound (b := { dlt := true }) rfl (takeFrame_acts rfl sd _ (.dlt rfl sd _ .refl))
    (hform _ _ hdecide)

theorem stageWork_windowsSound {s : State} {sd : Side} (c : Completion) (hs : WindowsSound s) :
    WindowsSound (stageWork sd c s).1 := by
  by_cases hc : c.next = .offer
  · have hw : (stageWork sd c s).1 = stageOffer sd c.frame s := by simp only [stageWork, hc]
    have hoffer : WindowsSound (s.modView sd (offerFrame c.frame)) :=
      modView_windowsSound (fun h => by unfold offerFrame; split <;> exact h) hs
    rw [hw]
    unfold stageOffer countRecover
    dsimp only
    split
    · split
      · exact Acts.windowsSound (b := {}) rfl (.clear _ _ .refl) (modView_windowsSound (fun h => h) hoffer)
      · exact modView_windowsSound (fun h => h) hoffer
    · exact hoffer
  · exact (earlyStage_acts c hc).windowsSound rfl hs

theorem setViewOffset_windowsSound {s : State} (ps : List Byte) (hs : WindowsSound s) :
    WindowsSound (setViewOffset ps s).1 := by
  unfold setViewOffset
  split
  · exact hs
  · exact List.foldlRecOn _ _ hs fun _ h _ _ => modView_windowsSound (fun h => h) h

end Sys2Proof.Machine


/-! PROOF. The negotiation through every command (R85 to R95), and O58. -/

namespace Sys2Proof.Machine

abbrev DltsSound (s : State) : Prop := ∀ x, DltSound (s.side x).dlt

theorem dltsSound_of_eq {s t : State} (h : ∀ x, (t.side x).dlt = (s.side x).dlt) (hs : DltsSound s) : DltsSound t :=
  fun x => by rw [h x]; exact hs x

theorem modDlt_dltsSound {s : State} {sd : Side} {f : Dlt → Dlt}
    (hf : DltSound (s.side sd).dlt → DltSound (f (s.side sd).dlt)) (hs : DltsSound s) : DltsSound (s.modDlt sd f) := by
  intro x
  obtain rfl | rfl := side_eq_or_other sd x
  · rw [modDlt_side_dlt]
    exact hf (hs x)
  · rw [modDlt_side_other]
    exact hs _

theorem raiseLink_dltsSound {s : State} (sd : Side) (d : BitVec 16) (hs : DltsSound s) :
    DltsSound (raiseLink sd d s) := dltsSound_of_eq (fun x => by simp [raiseLink]) hs

/-! ### Negotiation -/

theorem enterOffer_sound {d : Dlt} (hd : d.state = .down) (hl : d.locked = true) (h : DltSound d) :
    DltSound (enterOffer d) := by
  obtain ⟨-, -, -, hfail, hchosen, hsent, hlen, hmatch, hmiss⟩ := h
  simp only [hd] at hfail hchosen hsent
  exact ⟨fun _ => hl, fun hn => by simp [enterOffer] at hn, by simp [enterOffer], by simpa [enterOffer] using hfail,
    by simpa [enterOffer] using hchosen, by simpa [enterOffer] using hsent, hlen, hmatch, hmiss⟩

theorem unlocked_down {d : Dlt} (hl : d.locked = false) (h : DltSound d) : d.state = .down := by
  by_contra hn
  simp [h.1 hn] at hl

theorem backLockAcquired_dltsSound {s : State} (sd : Side) (hs : DltsSound s) :
    DltsSound (backLockAcquired sd s) := by
  unfold backLockAcquired
  split
  · exact hs
  next hl =>
    refine modDlt_dltsSound (fun h => ?_) hs
    have hdown := unlocked_down (by simpa using hl) h
    obtain ⟨-, -, hrest⟩ := id h
    exact enterOffer_sound (d := { (s.side sd).dlt with locked := true }) hdown rfl ⟨fun _ => rfl, fun _ => rfl, hrest⟩

theorem loseLock_sound {d : Dlt} (h : DltSound d) : DltSound (loseLock d) := by
  obtain ⟨-, -, -, -, hchosen, hsent, hlen, hmatch, hmiss⟩ := h
  unfold loseLock
  dsimp only
  split
  next hup => simp [departUp, DltSound]
  next hup =>
    simp only [hup, iff_false, Bool.not_eq_true, imp_false, not_not] at hchosen hsent
    simp [DltSound, hchosen, hsent, hmatch, hmiss]

theorem backLockLost_dltsSound {s : State} (sd : Side) (hs : DltsSound s) : DltsSound (backLockLost sd s) := by
  have hlose : DltsSound (s.modDlt sd loseLock) := modDlt_dltsSound loseLock_sound hs
  unfold backLockLost
  dsimp only
  split
  · exact hs
  · split
    · exact raiseLink_dltsSound sd _ hlose
    · exact hlose

theorem countWord_sound {d : Dlt} (a : Ability) (h : DltSound d) : DltSound (countWord a d) := by
  unfold countWord
  split <;> exact h

theorem enterFailed_sound {d : Dlt} (hd : d.state = .offer) (h : DltSound d) : DltSound (enterFailed d) := by
  obtain ⟨hlock, hretry, -, -, hchosen, hsent, hlen, hmatch, hmiss⟩ := h
  simp only [hd] at hlock hchosen hsent
  exact ⟨fun _ => hlock (by decide), hretry, by simp [enterFailed], by simp [enterFailed],
    by simpa [enterFailed] using hchosen, by simpa [enterFailed] using hsent, hlen, hmatch, hmiss⟩

theorem countWord_state (a : Ability) (d : Dlt) : (countWord a d).state = d.state := by
  unfold countWord
  split <;> rfl

/-- OFFER and CONFIRM go over into each other with nothing else of the state of negotiation. -/
theorem negotiating_sound {d : Dlt} (st : NegState) (r c : Option Ability) (n : Nat)
    (hd : d.state = .offer ∨ d.state = .confirm) (hst : st = .offer ∨ st = .confirm) (h : DltSound d) :
    DltSound { d with state := st, reference := r, run := n, confirmed := c } := by
  obtain ⟨hlock, hretry, hneg, hfail, hchosen, hsent, hlen, hmatch, hmiss⟩ := h
  have hup : d.state ≠ .up ∧ d.state ≠ .failed ∧ d.state ≠ .down := by
    obtain hd | hd := hd <;> rw [hd] <;> decide
  have hup' : st ≠ .up ∧ st ≠ .failed := by
    obtain hd | hd := hst <;> rw [hd] <;> decide
  refine ⟨fun _ => hlock hup.2.2, hretry, ⟨fun _ => hst, fun _ => hneg.mpr hd⟩, ?_, ?_, ?_, hlen, hmatch, hmiss⟩
  · simpa [hup.2.1, hup'.2] using hfail
  · simpa [hup.1, hup'.1] using hchosen
  · simpa [hup.1, hup'.1] using hsent

theorem wordInOffer_dltsSound {s : State} {sd : Side} (a : Ability) (hd : (s.side sd).dlt.state = .offer)
    (hs : DltsSound s) : DltsSound (wordInOffer sd a s) := by
  have hcount : DltsSound (s.modDlt sd (countWord a)) := modDlt_dltsSound (countWord_sound a) hs
  have hstate : ((s.modDlt sd (countWord a)).side sd).dlt.state = .offer := by
    rw [modDlt_side_dlt, countWord_state, hd]
  have hfail : DltsSound ((s.modDlt sd (countWord a)).modDlt sd enterFailed) :=
    modDlt_dltsSound (enterFailed_sound hstate) hcount
  unfold wordInOffer
  dsimp only
  split
  · exact hcount
  · split
    · exact raiseLink_dltsSound sd _ hfail
    · split
      · exact raiseLink_dltsSound sd _ hfail
      · exact modDlt_dltsSound (fun h => negotiating_sound .confirm _ _ _ (.inl hstate) (.inr rfl) h) hcount

theorem enterUp_sound {d : Dlt} (a : Ability) (hd : d.state = .confirm) (h : DltSound d) : DltSound (enterUp a d) := by
  obtain ⟨hlock, hretry, -, hfail, -, -, -, -, -⟩ := h
  simp only [hd] at hlock hfail
  exact ⟨fun _ => hlock (by decide), hretry, by simp [enterUp], by simpa [enterUp] using hfail, by simp [enterUp],
    by simp [enterUp], by simp [enterUp], by simp [enterUp], by simp [enterUp]⟩

theorem wordInConfirm_dltsSound {s : State} {sd : Side} (a : Ability) (ack : Bool)
    (hd : (s.side sd).dlt.state = .confirm) (hs : DltsSound s) : DltsSound (wordInConfirm sd a ack s) := by
  unfold wordInConfirm
  split
  · split
    · exact dltsSound_of_eq (fun x => by simp) (modDlt_dltsSound (enterUp_sound a hd) hs)
    · exact hs
  · exact modDlt_dltsSound (fun h => negotiating_sound .offer _ _ _ (.inr hd) (.inl rfl) h) hs

theorem departUp_sound {d : Dlt} (r : Option Ability) (n : Nat) (hd : d.state = .up) (h : DltSound d) :
    DltSound { departUp d with state := .offer, reference := r, run := n, negTimer := true } := by
  obtain ⟨hlock, hretry, -, hfail, -⟩ := h
  simp only [hd] at hlock hfail
  exact ⟨fun _ => hlock (by decide), hretry, by simp, by simpa [departUp] using hfail, by simp [departUp],
    by simp [departUp], by simp [departUp], by simp [departUp], by simp [departUp]⟩

theorem wordInUp_dltsSound {s : State} {sd : Side} (a : Ability) (hd : (s.side sd).dlt.state = .up)
    (hs : DltsSound s) : DltsSound (wordInUp sd a s) := by
  unfold wordInUp
  split
  · exact hs
  · exact raiseLink_dltsSound sd _ (modDlt_dltsSound (departUp_sound _ _ hd) hs)

theorem monitorWord_dltsSound {s : State} (sd : Side) (w : Byte) (hs : DltsSound s) :
    DltsSound (monitorWord sd w s) := by
  unfold monitorWord
  dsimp only
  split
  · exact hs
  · split
    · exact hs
    · exact hs
    next hd => exact wordInOffer_dltsSound _ hd hs
    next hd => exact wordInConfirm_dltsSound _ _ hd hs
    next hd => exact wordInUp_dltsSound _ hd hs

theorem negotiationExpiry_sound {d : Dlt} (h : DltSound d) : DltSound (negotiationExpiry d) := by
  unfold negotiationExpiry
  split
  next hn =>
    obtain ⟨-, hst⟩ := hn
    obtain ⟨hlock, hretry, hneg, hfail, hchosen, hsent, hlen, hmatch, hmiss⟩ := h
    have hup : d.state ≠ .up ∧ d.state ≠ .failed := by
      obtain hd | hd := hst <;> rw [hd] <;> decide
    exact ⟨fun hn => by simp at hn, fun hl => hl, by simp, by simpa [hup.2] using hfail, by simpa [hup.1] using hchosen,
      by simpa [hup.1] using hsent, hlen, hmatch, hmiss⟩
  · exact h

theorem failedExpiry_sound {d : Dlt} (h : DltSound d) : DltSound (failedExpiry d) := by
  unfold failedExpiry
  split
  next hn =>
    obtain ⟨-, hst⟩ := hn
    obtain ⟨hlock, hretry, hneg, hfail, hchosen, hsent, hlen, hmatch, hmiss⟩ := h
    simp only [hst] at hneg hchosen hsent
    exact ⟨fun hn => by simp at hn, fun hl => hl, by simpa using hneg, by simp, by simpa using hchosen,
      by simpa using hsent, hlen, hmatch, hmiss⟩
  · exact h

theorem upDeadlineExpiry_dltsSound {s : State} (sd : Side) (hs : DltsSound s) :
    DltsSound (upDeadlineExpiry sd s) := by
  unfold upDeadlineExpiry
  split
  · exact raiseLink_dltsSound sd _ (modDlt_dltsSound (fun h => h) hs)
  · exact hs

/-! ### Tags and signatures -/

theorem runs_sound {d : Dlt} {m n : Nat} (g : BitVec 32) (hm : m ≤ 30) (hn : n ≤ 255) (h : DltSound d) :
    DltSound { d with matchRun := m, mismatchRun := n, sigMismatches := g } := by
  obtain ⟨hlock, hretry, hneg, hfail, hchosen, hsent, hlen, -, -⟩ := h
  exact ⟨hlock, hretry, hneg, hfail, hchosen, hsent, hlen, hm, hn⟩

/-- A list of sent signatures that is no longer, and empty outside UP. -/
theorem withSent_sound {d : Dlt} {l : List SentFrame} (hl : l.length ≤ 4) (hup : l ≠ [] → d.state = .up)
    (h : DltSound d) : DltSound { d with sent := l } := by
  obtain ⟨hlock, hretry, hneg, hfail, hchosen, -, -, hmatch, hmiss⟩ := h
  exact ⟨hlock, hretry, hneg, hfail, hchosen, hup, hl, hmatch, hmiss⟩

theorem countMismatch_dltsSound {s : State} (sd : Side) (hs : DltsSound s) : DltsSound (countMismatch sd s) := by
  intro x
  obtain rfl | rfl := side_eq_or_other sd x
  · rw [countMismatch_dlt]
    exact runs_sound _ (Nat.zero_le _) (Nat.min_le_right _ _) (hs x)
  · have hother := (dltBlind_other (otherSide_ne sd)).countMismatch s
    rw [(Prod.mk.inj hother).1]
    exact hs _

theorem countMatch_dltsSound {s : State} (sd : Side) (hs : DltsSound s) : DltsSound (countMatch sd s) := by
  intro x
  obtain rfl | rfl := side_eq_or_other sd x
  · rw [countMatch_dlt]
    exact runs_sound _ (Nat.min_le_right _ _) (Nat.zero_le _) (hs x)
  · have hother := (dltBlind_other (otherSide_ne sd)).countMatch s
    rw [(Prod.mk.inj hother).1]
    exact hs _

theorem matchReturn_dltsSound {s : State} (sd : Side) (tag : Byte) (sig : BitVec 32) (hs : DltsSound s) :
    DltsSound (matchReturn sd tag sig s) := by
  unfold matchReturn
  dsimp only
  split
  · exact countMismatch_dltsSound sd hs
  next e rest hdrop =>
    have hlen : rest.length < (s.side sd).dlt.sent.length := by
      have h := (List.dropWhile_suffix (l := (s.side sd).dlt.sent) fun f => !(f.tag == tag)).length_le
      rw [hdrop, List.length_cons] at h
      omega
    have hrest : DltsSound (s.modDlt sd fun d => { d with sent := rest }) := by
      refine modDlt_dltsSound (fun h => withSent_sound ?_ (fun _ => ?_) h) hs <;>
        obtain ⟨-, -, -, -, -, hsent, hfour, -⟩ := h
      · omega
      · exact hsent (List.ne_nil_of_length_pos (by omega))
    have holder := List.foldlRecOn (motive := DltsSound) ((s.side sd).dlt.sent.takeWhile fun f => !(f.tag == tag))
      (fun s _ => countMismatch sd s) hrest fun _ h _ _ => countMismatch_dltsSound sd h
    split
    · exact countMatch_dltsSound sd holder
    · exact countMismatch_dltsSound sd holder

theorem takeReturn_dltsSound {s : State} (sd : Side) (tag : Byte) (sig : BitVec 32) (ambient actual flags : BitVec 16)
    (hs : DltsSound s) : DltsSound (takeReturn sd tag sig ambient actual flags s) := by
  have hflags (u : State) (hu : DltsSound u) : DltsSound (monitorFlags sd ambient actual flags u) := by
    have hread : DltsSound (u.modDlt sd fun d => { d with ambient := some ambient, actual := some actual }) :=
      modDlt_dltsSound (fun h => h) hu
    unfold monitorFlags
    dsimp only
    split <;> exact dltsSound_of_eq (fun x => by simp) hread
  unfold takeReturn
  dsimp only
  split
  · exact modDlt_dltsSound (fun h => h) (hflags _ (matchReturn_dltsSound sd tag sig hs))
  · exact hs

/-- R93: a frame joins the list in UP, and a fifth entry pushes the oldest out. -/
theorem pushOutSent_dltsSound {s : State} {sd : Side} {f : Dlt → Dlt} {e : SentFrame}
    (hup : (s.side sd).dlt.state = .up)
    (hf : ∃ tag level codes, f (s.side sd).dlt = { (s.side sd).dlt with
      tagCounter := tag, blSent := level, forward := codes, sent := (s.side sd).dlt.sent ++ [e] })
    (hs : DltsSound s) : DltsSound (pushOutSent sd (s.modDlt sd f)) := by
  obtain ⟨tag, level, codes, hf⟩ := hf
  have hsent : ((s.modDlt sd f).side sd).dlt.sent = (s.side sd).dlt.sent ++ [e] := by rw [modDlt_side_dlt, hf]
  have hlen : (s.side sd).dlt.sent.length ≤ 4 := by
    obtain ⟨-, -, -, -, -, -, hlen, -⟩ := hs sd
    exact hlen
  have hput (l : List SentFrame) (g : Dlt → Dlt) (hl : l.length ≤ 4)
      (hg : g (s.side sd).dlt = { (s.side sd).dlt with tagCounter := tag, blSent := level, forward := codes, sent := l }) :
      DltsSound (s.modDlt sd g) := by
    refine modDlt_dltsSound (fun h => ?_) hs
    rw [hg]
    exact withSent_sound hl (fun _ => hup) h
  unfold pushOutSent
  split
  next a rest hrest =>
    have hcount : rest.length = (s.side sd).dlt.sent.length := by
      have := congrArg List.length (hsent.symm.trans hrest)
      simpa using this.symm
    split
    · refine countMismatch_dltsSound sd ?_
      rw [State.modDlt, State.modDlt, modSide_modSide]
      exact hput rest (fun d => { f d with sent := rest }) (hcount ▸ hlen) (by rw [hf])
    · exact hput _ f (by rw [List.length_append, List.length_singleton]; omega) hf
  next hnil => exact absurd (hsent.symm.trans hnil) (by simp)

theorem takeFrame_dltsSound {s : State} (sd : Side) (codes : List Byte) (hs : DltsSound s) :
    DltsSound (takeFrame sd codes s) := by
  unfold takeFrame
  split
  next hup => exact pushOutSent_dltsSound hup ⟨_, _, _, rfl⟩ hs
  all_goals exact modDlt_dltsSound (fun h => h) hs

theorem retryOffer_sound {d : Dlt} (h : DltSound d) : DltSound (retryOffer d) := by
  unfold retryOffer
  split
  next hd => exact enterOffer_sound hd.1 (h.2.1 hd.2) h
  · exact h

/-- Steps 1 to 3 of an output frame start leave the DLTs. -/
theorem outputStart_dltsSound {s : State} {sd : Side} (hs : DltsSound s) : DltsSound (outputStart sd s) := by
  have hdecide : Acts { view := true } s (decideView sd (windowStep sd s)).1 :=
    decideView_acts rfl sd (.view rfl sd _ .refl)
  have hform : Acts { view := true } s (formOutput sd (decideView sd (windowStep sd s)).2
      (decideView sd (windowStep sd s)).1).1 := formOutput_acts rfl sd _ hdecide
  exact takeFrame_dltsSound sd _ (modDlt_dltsSound retryOffer_sound (dltsSound_of_eq (hform.dlt_eq rfl) hs))

theorem setBrightness_dltsSound {s : State} (ps : List Byte) (hs : DltsSound s) :
    DltsSound (setBrightness ps s).1 := by
  unfold setBrightness
  split
  · exact hs
  · exact List.foldlRecOn _ _ hs fun _ h _ _ => modDlt_dltsSound (fun h => h) h


/-! ### Every command -/

theorem exec_windowsSound {c : Instr} (hc : isReset c = false) {s t : State} (h : exec c s = .next t)
    (hs : WindowsSound s) : WindowsSound t := by
  by_cases hv : (touchOf c).view = false
  · exact (exec_acts c hc s t h).windowsSound hv hs
  · cases c <;> first | exact absurd rfl hv | injection h with h; subst h
    case frameCompletion sd =>
      exact whileRunning_keeps (fun s hs => runCompletion_keeps (fun _ _ h => h.windowsSound rfl)
        (fun _ c => stageWork_windowsSound c) hs) hs
    case outputFrameStart sd => exact whileRunning_keeps (Q := WindowsSound) (fun _ h => outputStart_windowsSound h) hs
    case setViewOffset p tag ps =>
      exact takeRequest_keeps (fun _ _ h => h.windowsSound rfl) (fun _ => setViewOffset_windowsSound ps) _ _ _ _ hs

theorem exec_dltsSound {c : Instr} (hc : isReset c = false) {s t : State} (h : exec c s = .next t)
    (hs : DltsSound s) : DltsSound t := by
  by_cases hd : (touchOf c).dlt = false
  · exact dltsSound_of_eq ((exec_acts c hc s t h).dlt_eq hd) hs
  · cases c <;> first | exact absurd rfl hd | injection h with h; subst h
    case outputFrameStart sd => exact whileRunning_keeps (Q := DltsSound) (fun _ h => outputStart_dltsSound h) hs
    case backChannelLockAcquired sd =>
      exact whileRunning_keeps (Q := DltsSound) (fun _ => backLockAcquired_dltsSound sd) hs
    case backChannelLockLost sd => exact whileRunning_keeps (Q := DltsSound) (fun _ => backLockLost_dltsSound sd) hs
    case monitorAbilityWord sd w => exact whileRunning_keeps (Q := DltsSound) (fun _ => monitorWord_dltsSound sd w) hs
    case frameReturn sd tag sig a b f =>
      exact whileRunning_keeps (Q := DltsSound) (fun _ => takeReturn_dltsSound sd tag sig a b f) hs
    case negotiationTimerExpiry sd =>
      exact whileRunning_keeps (Q := DltsSound) (fun _ => modDlt_dltsSound negotiationExpiry_sound) hs
    case failedTimerExpiry sd =>
      exact whileRunning_keeps (Q := DltsSound) (fun _ => modDlt_dltsSound failedExpiry_sound) hs
    case upDeadlineExpiry sd => exact whileRunning_keeps (Q := DltsSound) (fun _ => upDeadlineExpiry_dltsSound sd) hs
    case setBrightness p tag ps =>
      exact takeRequest_keeps (fun _ _ ha => dltsSound_of_eq (ha.dlt_eq rfl)) (fun _ => setBrightness_dltsSound ps)
        _ _ _ _ hs

/-- The modes of both sides. -/
def modesOf (s : State) : Side → DayNight := fun x => (s.side x).expo.dayNight

/-- Both CLRs are sound, and both glare maps at rest in DAY. -/
def LinksAndMapsSound (s : State) : Prop := ClrsSound (modesOf s) s ∧ DaysSound s

theorem linksAndMaps_of_kept {s t : State} (hclr : ClrsSound (modesOf s) t)
    (hglare : ∀ x, (t.side x).glare = (s.side x).glare) (hs : DaysSound s) : LinksAndMapsSound t :=
  ⟨fun x => ⟨(hclr x).1, rfl⟩, daysSound_of_eq hglare (fun x => (hclr x).2) hs⟩

theorem Acts.linksAndMapsSound {b : Touch} {s0 s : State} (hc : b.clr = false) (he : b.expo = false)
    (hg : b.glare = false) (h : Acts b s0 s) (h0 : LinksAndMapsSound s0) : LinksAndMapsSound s := by
  refine linksAndMaps_of_kept (clrsSound_of_eq (h.clr_eq hc) (fun x => ?_) h0.1) (h.glare_eq hg) h0.2
  rw [h.expo_eq he]
  rfl

theorem exposureRequest_linksAndMapsSound {s : State} (sides : List Side) (f : Exposure → Exposure)
    (hf : ∀ x, (f x).dayNight = x.dayNight) (hs : LinksAndMapsSound s) :
    LinksAndMapsSound (sides.foldl (fun s sd => s.modExpo sd f) s) := by
  refine List.foldlRecOn _ _ hs fun u hu sd _ => ?_
  refine linksAndMaps_of_kept (clrsSound_of_eq (fun x => by simp) (fun x => ?_) hu.1) (fun x => by simp) hu.2
  unfold modesOf
  obtain rfl | rfl := side_eq_or_other sd x <;> simp [hf]

theorem setNightPolicy_linksAndMapsSound {s : State} (ps : List Byte) (hs : LinksAndMapsSound s) :
    LinksAndMapsSound (setNightPolicy ps s).1 := by
  unfold setNightPolicy
  split
  · exact exposureRequest_linksAndMapsSound _ _ (fun _ => rfl) hs
  · exact hs

theorem takeMode_dayNight (m : ExposureMode) (pair : Nat × Nat) (x : Exposure) :
    (takeMode m pair x).dayNight = x.dayNight := by
  unfold takeMode
  split
  · rfl
  · rfl
  · split <;> rfl

theorem setExposureMode_linksAndMapsSound {s : State} (ps : List Byte) (hs : LinksAndMapsSound s) :
    LinksAndMapsSound (setExposureMode ps s).1 := by
  unfold setExposureMode
  split
  · exact exposureRequest_linksAndMapsSound _ _ (takeMode_dayNight _ _) hs
  · exact hs

theorem exec_linksAndMapsSound {c : Instr} (hc : isReset c = false) {s t : State} (h : exec c s = .next t)
    (hs : LinksAndMapsSound s) : LinksAndMapsSound t := by
  by_cases hq : (touchOf c).clr = false ∧ (touchOf c).expo = false ∧ (touchOf c).glare = false
  · obtain ⟨hclr, he, hg⟩ := hq
    exact (exec_acts c hc s t h).linksAndMapsSound hclr he hg hs
  have hacts := exec_acts c hc s t h
  have hcamera (hg : (touchOf c).glare = false) (hk : ClrsSound (modesOf s) t) : LinksAndMapsSound t :=
    linksAndMaps_of_kept hk (hacts.glare_eq hg) hs.2
  have hrequest {u v : State} (h : Acts requestTouch u v) (hu : LinksAndMapsSound u) : LinksAndMapsSound v :=
    h.linksAndMapsSound rfl rfl rfl hu
  cases c <;> first | exact absurd ⟨rfl, rfl, rfl⟩ hq | injection h with h; subst h
  case cameraLockAcquired sd => exact hcamera rfl (whileRunning_keeps (fun _ => cameraLock_clrsSound) hs.1)
  case cameraLockLost sd => exact hcamera rfl (whileRunning_keeps (fun _ => cameraUnlock_clrsSound) hs.1)
  case frameStart sd hd => exact hcamera rfl (whileRunning_keeps (fun _ => takeFrameStart_clrsSound hd) hs.1)
  case line sd i px crc => exact hcamera rfl (whileRunning_keeps (fun _ => takeLine_clrsSound i px crc) hs.1)
  case frameEnd sd n => exact hcamera rfl (whileRunning_keeps (fun _ => takeFrameEnd_clrsSound n) hs.1)
  case commandTransmissionComplete sd =>
    exact hcamera rfl (whileRunning_keeps (Q := ClrsSound (modesOf s))
      (fun u => (ClrAfter.mod sd _ u).clrsSound transmissionDone_sound) hs.1)
  case frameCompletion sd =>
    refine whileRunning_keeps (Q := LinksAndMapsSound) (fun u hu => runCompletion_keeps
      (fun _ _ ha => ha.linksAndMapsSound rfl rfl rfl) (fun v c hv => ?_) hu) hs
    exact ⟨stageWork_clrsSound c hv.1, stageWork_daysSound c hv.2⟩
  case setNightPolicy p tag ps =>
    exact takeRequest_keeps (fun _ _ => hrequest) (fun _ => setNightPolicy_linksAndMapsSound ps) _ _ _ _ hs
  case setExposureMode p tag ps =>
    exact takeRequest_keeps (fun _ _ => hrequest) (fun _ => setExposureMode_linksAndMapsSound ps) _ _ _ _ hs

/-! ### The resets and the load -/

/-- What O58 says of a side. -/
abbrev BlocksSound (x : SideState) : Prop := ClrSound x.clr ∧ DaySound x ∧ WindowSound x.view ∧ DltSound x.dlt

theorem resetClr_sound : ClrSound resetClr :=
  ⟨fun _ => ⟨rfl, rfl, rfl⟩, by decide, by decide, by decide, by decide, rfl, rfl, by decide, by decide⟩

theorem resetDlt_sound (k : Calibration) : DltSound (resetDlt k) := by
  simp [DltSound, resetDlt]

theorem clampNat_le {x a b : Nat} (h : a ≤ b) : clampNat x a b ≤ b := by
  rw [clampNat_eq x a b h]
  omega

theorem resetComposer_window (k : Calibration) (sd : Side) : WindowSound (resetComposer k sd) := by
  have hx : clampNat (geometryOf k sd).x0 0 960 ≤ 960 := clampNat_le (by decide)
  have hy : clampNat (geometryOf k sd).y0 0 720 ≤ 720 := clampNat_le (by decide)
  exact ⟨hx, hy, hx, hy⟩

/-- The blocks of a reset side, whatever its recorder, its runs and its inputs. -/
theorem resetSide_blocksSound (k : Calibration) (sd : Side) (r : Recorder) :
    BlocksSound { resetSide k sd with recorder := r } :=
  ⟨resetClr_sound, fun _ => unityMap_daySound, resetComposer_window k sd, resetDlt_sound k⟩

theorem blocksSound_iff {s : State} : (∀ x, BlocksSound (s.side x)) ↔
    LinksAndMapsSound s ∧ WindowsSound s ∧ DltsSound s := by
  constructor
  · intro h
    exact ⟨⟨fun x => ⟨(h x).1, rfl⟩, fun x => (h x).2.1⟩, fun x => (h x).2.2.1, fun x => (h x).2.2.2⟩
  · rintro ⟨⟨hc, hd⟩, hw, hl⟩ x
    exact ⟨(hc x).1, hd x, hw x, hl x⟩

theorem Acts.blocksSound {b : Touch} {s t : State} (hb : b.clr = false ∧ b.expo = false ∧ b.glare = false
    ∧ b.view = false ∧ b.dlt = false) (h : Acts b s t) (hs : ∀ x, BlocksSound (s.side x)) :
    ∀ x, BlocksSound (t.side x) := by
  obtain ⟨hclr, he, hg, hv, hd⟩ := hb
  obtain ⟨hlinks, hwin, hdlt⟩ := blocksSound_iff.mp hs
  exact blocksSound_iff.mpr ⟨h.linksAndMapsSound hclr he hg hlinks, h.windowsSound hv hwin,
    dltsSound_of_eq (h.dlt_eq hd) hdlt⟩

theorem loadPart_blocksSound {s : State} (hs : ∀ x, BlocksSound (s.side x)) :
    ∀ x, BlocksSound ((loadPart s).side x) := by
  have hside (k : Calibration) (u : State) (r : Side → Recorder)
      (hu : ∀ x, u.side x = { resetSide k x with recorder := r x }) (x : Side) : BlocksSound (u.side x) := by
    rw [hu]
    exact resetSide_blocksSound k x _
  unfold loadPart
  split
  · exact fun x => by cases x; exacts [hs .left, hs .right]
  · exact hside (loadStore s).cal _ (fun _ => resetRecorder (loadStore s).cal) fun x => by cases x <;> rfl
  · exact hside (loadStore s).cal _ (fun x => restartRecorder (loadStore s).cal.capture (s.side x).recorder)
      fun x => by cases x <;> rfl
  next c _ =>
    have hv := (reportDefaults_acts { s with phase := .running }).blocksSound ⟨rfl, rfl, rfl, rfl, rfl⟩
      (fun x => by cases x; exacts [hs .left, hs .right])
    exact fun x => by cases x; exacts [hv .left, hv .right]
  · exact hs

/-- Settles O58: each block is kept by the operations that change it, every other command is a chain of acts that leaves
it, and the resets put it at its reset values. -/
theorem sideBlocksStaySound : Obligations.SideBlocksStaySound := by
  intro s t hs h
  refine step_keeps (Q := fun s => ∀ x, BlocksSound (s.side x)) (fun s l h x => ?_) (fun c s t h hq => ?_) h hs
  · cases x
    exacts [h .left, h .right]
  by_cases hc : isReset c = true
  · refine reset_keeps (Q := fun s => ∀ x, BlocksSound (s.side x))
      (fun s t ha => ha.blocksSound ⟨rfl, rfl, rfl, rfl, rfl⟩) (fun s _ x => ?_) (fun s p _ x => ?_)
      (fun s => loadPart_blocksSound) hc h hq
    · cases x <;> exact resetSide_blocksSound s.cal _ _
    · cases x
      · exact resetSide_blocksSound s.cal .left { s.left.recorder with crossIncoming := 0 }
      · exact resetSide_blocksSound s.cal .right { s.right.recorder with crossIncoming := 0 }
  · have hc : isReset c = false := by simpa using hc
    obtain ⟨hlinks, hwin, hdlt⟩ := blocksSound_iff.mp hq
    exact blocksSound_iff.mpr
      ⟨exec_linksAndMapsSound hc h hlinks, exec_windowsSound hc h hwin, exec_dltsSound hc h hdlt⟩

end Sys2Proof.Machine


/-! PROOF. The age, the calibration images and SUPPLY_OK through every command (R103, R177 to R180), and O59. -/

namespace Sys2Proof.Machine

/-! ### The age -/

theorem Acts.ageSound {b : Touch} {s0 s : State} (hb : b.vehicle = false) (h : Acts b s0 s) (h0 : AgeSound s0) :
    AgeSound s := by
  rw [AgeSound, h.vehicle_eq hb, h.cal_eq]
  exact h0

theorem nextAge_le {hold age : Nat} (h : age ≤ hold) : nextAge hold age ≤ hold := by
  unfold nextAge
  split
  next hlt => exact hlt.le
  · exact h

theorem tick_ageSound {s : State} (hs : AgeSound s) : AgeSound (tick s) := by
  unfold tick
  split
  · exact hs
  all_goals exact nextAge_le hs

/-- An act on the vehicle that leaves an age of at most STATE_HOLD, and a chain after it. -/
theorem ageSound_after {b : Touch} {s u : State} {v : Vehicle} (hb : b.vehicle = false)
    (hv : v.age ≤ s.cal.integrity.stateHold) (h : Acts b { s with vehicle := v } u) : AgeSound u := h.ageSound hb hv

theorem vehicleExpiry_ageSound {s : State} (hs : AgeSound s) : AgeSound (vehicleExpiry s) := by
  unfold vehicleExpiry
  dsimp only
  split
  · exact ageSound_after (b := {}) rfl le_rfl (.endTests (.raise _ _ _ rfl rfl .refl))
  · exact hs

theorem setVehicleState_ageSound {s : State} (ps : List Byte) (hs : AgeSound s) :
    AgeSound (setVehicleState ps s).1 := by
  unfold setVehicleState
  split
  · unfold storeRecord
    dsimp only
    split
    · exact ageSound_after (b := {}) rfl (Nat.zero_le _) (.clear _ _ .refl)
    · exact ageSound_after (b := {}) rfl (Nat.zero_le _) (.endTests (.clear _ _ .refl))
  · exact hs

theorem exec_ageSound {c : Instr} (hc : isReset c = false) {s t : State} (h : exec c s = .next t) (hs : AgeSound s) :
    AgeSound t := by
  by_cases hv : (touchOf c).vehicle = false
  · exact (exec_acts c hc s t h).ageSound hv hs
  · cases c <;> first | exact absurd rfl hv | injection h with h; subst h
    case timeTick => exact tick_ageSound hs
    case vehicleStateExpiry => exact whileRunning_keeps (Q := AgeSound) (fun _ => vehicleExpiry_ageSound) hs
    case setVehicleState p tag ps =>
      exact takeRequest_keeps (fun _ _ h => h.ageSound rfl) (fun _ => setVehicleState_ageSound ps) _ _ _ _ hs

/-! ### The images -/

@[simp] theorem perRegionGet_perRegion {α : Type} (f : Region → α) (r : Region) : perRegionGet (perRegion f) r = f r := by
  cases r <;> rfl

theorem perRegionGet_set {α : Type} (p : PerRegion α) (r x : Region) (v : α) :
    perRegionGet (perRegionSet p r v) x = if x = r then v else perRegionGet p x := by
  cases r <;> cases x <;> rfl

theorem mem_regions (r : Region) : r ∈ regions := by
  cases r <;> decide

theorem putBytes_length {old bs : List Byte} {o : Nat} (h : o + bs.length ≤ old.length) :
    (putBytes old o bs).length = old.length := by
  simp only [putBytes, List.length_append, List.length_take, List.length_drop]
  omega

/-- The images of the store, and SUPPLY_OK. -/
def StoreSound (s : State) : Prop := ImagesSound s.store ∧ SupplySound s

theorem storeSound_of_eq {s t : State} (hstore : t.store = s.store) (hok : t.supplyOk = s.supplyOk)
    (hs : StoreSound s) : StoreSound t := by
  unfold StoreSound SupplySound
  rw [hstore, hok]
  exact hs

theorem Acts.storeSound {b : Touch} {s0 s : State} (hb : b.store = false) (hp : b.pins = false) (h : Acts b s0 s)
    (h0 : StoreSound s0) : StoreSound s := storeSound_of_eq (h.store_eq hb) (h.pins_eq hp).1 h0

/-- A change of the store that begins no period. -/
theorem modStore_storeSound {s : State} {f : Store → Store} (hf : ImagesSound s.store → ImagesSound (f s.store))
    (hp : (f s.store).programming = s.store.programming) (hs : StoreSound s) : StoreSound (s.modStore f) :=
  ⟨hf hs.1, fun h => hs.2 (hp ▸ h)⟩

theorem calStage_storeSound {s : State} (ps : List Byte) (hs : StoreSound s) : StoreSound (calStage ps s).1 := by
  unfold calStage
  split
  · exact hs
  · split
    · exact hs
    next r _ =>
      dsimp only
      split
      · exact hs
      next hlen =>
        refine modStore_storeSound (fun hi x hx => ⟨(hi x hx).1, ?_⟩) rfl hs
        simp only [stageBytes, perRegionGet_set]
        split
        next hr =>
          subst hr
          rw [putBytes_length, (hi x hx).2]
          rw [(hi x hx).2]
          omega
        · exact (hi x hx).2

theorem calDiscard_storeSound {s : State} (hs : StoreSound s) : StoreSound (calDiscard s).1 := by
  unfold calDiscard
  split
  · exact hs
  · refine modStore_storeSound (fun hi x hx => ⟨(hi x hx).1, ?_⟩) rfl hs
    simpa [discardStaged] using (hi x hx).1

theorem calProtect_storeSound {s : State} (ps : List Byte) (hs : StoreSound s) : StoreSound (calProtect ps s).1 := by
  unfold calProtect
  split
  · exact hs
  · split
    · exact hs
    · dsimp only
      split
      · exact hs
      · exact modStore_storeSound (fun hi => hi) rfl hs

/-- CAL_PROGRAM begins a period on a high SUPPLY_OK alone (R179). -/
theorem calProgram_storeSound {s : State} (hs : StoreSound s) : StoreSound (calProgram s).1 := by
  unfold calProgram
  split
  · exact hs
  · split
    · exact hs
    · split
      · exact hs
      next hok =>
        split
        · exact hs
        · exact ⟨hs.1, fun _ => by simpa using hok⟩

theorem damagedRegion_length (n : Nat) (r : Region) : (damagedRegion n r).items.length = regionLength r := by
  simp [damagedRegion, leftItems]

/-- The images after a period: each region as it was, damaged at its length, or as staged (R180). -/
theorem endPeriod_images {s : State} (p f : RegionSet) (hs : ImagesSound s.store) :
    ImagesSound (endPeriod p f s).store := by
  refine fun r hr => ⟨?_, (hs r hr).2⟩
  simp only [endPeriod, programmedImage, perRegionGet_perRegion]
  split
  · exact damagedRegion_length _ _
  · split
    · exact (hs r hr).2
    · exact (hs r hr).1

theorem endPeriod_storeSound {s : State} (p f : RegionSet) (hs : ImagesSound s.store) :
    StoreSound (endPeriod p f s) := ⟨endPeriod_images p f hs, fun h => by simp [endPeriod] at h⟩

theorem finishProgramming_storeSound {s : State} (c : ProgramFailure) (p f : RegionSet) (hs : ImagesSound s.store) :
    StoreSound (finishProgramming c p f s) := by
  have hreport : Acts {} (endPeriod p f s) (reportFailure c f (endPeriod p f s)) := by
    unfold reportFailure
    split
    · exact .refl
    · exact .event _ _ _ rfl rfl .refl
  exact (hreport.notify _ _).storeSound rfl rfl (endPeriod_storeSound p f hs)

theorem periodEnd_storeSound {s : State} (u : RegionSet) (hs : StoreSound s) : StoreSound (periodEnd u s) := by
  unfold periodEnd
  split
  · exact hs
  · exact finishProgramming_storeSound _ _ _ hs.1

theorem supplyFall_storeSound {s : State} (hs : StoreSound s) : StoreSound (supplyFall s) := by
  unfold supplyFall
  dsimp only
  split
  next hp => exact ⟨hs.1, fun h => by simp [hp] at h⟩
  · exact finishProgramming_storeSound _ _ _ hs.1

theorem eventRise_storeSound {s : State} (hs : StoreSound s) : StoreSound (eventRise s) := by
  have hline : StoreSound { s with eventIn := true } := storeSound_of_eq rfl rfl hs
  have hhand : Acts {} { s with eventIn := true }
      (whileRunning (handTriggers .eventIn [.left, .right]) { s with eventIn := true }) :=
    .whileRunning _ (.handTriggers _ _) .refl
  unfold eventRise
  split
  · exact hs
  · exact hhand.storeSound rfl rfl hline

theorem exec_storeSound {c : Instr} (hc : isReset c = false) {s t : State} (h : exec c s = .next t)
    (hs : StoreSound s) : StoreSound t := by
  by_cases hq : (touchOf c).store = false ∧ (touchOf c).pins = false
  · exact (exec_acts c hc s t h).storeSound hq.1 hq.2 hs
  have hrequest {p : Port} {r : RequestCode} {tag : BitVec 4} {ps : List Byte} {body : State → State × Answer}
      {u : State}
      (hbody : ∀ v, StoreSound v → StoreSound (body v).1) (hu : StoreSound u) :
      StoreSound (takeRequest p r tag ps body u) := takeRequest_keeps (fun _ _ h => h.storeSound rfl rfl) hbody _ _ _ _ hu
  cases c <;> first | exact absurd ⟨rfl, rfl⟩ hq | injection h with h; subst h
  case supplyFail => exact supplyFall_storeSound hs
  case eventInEdge => exact eventRise_storeSound hs
  case eventInFall => exact storeSound_of_eq rfl rfl hs
  case calStage p tag ps => exact hrequest (fun _ => calStage_storeSound ps) hs
  case calDiscard p tag ps => exact hrequest (fun _ => calDiscard_storeSound) hs
  case calProtect p tag ps => exact hrequest (fun _ => calProtect_storeSound ps) hs
  case calProgram p tag ps ok =>
    refine hrequest (fun _ => calProgram_storeSound) ⟨hs.1, fun h => ?_⟩
    exact Bool.or_eq_true_iff.mpr (.inl h)
  case protectWindowExpiry =>
    exact whileRunning_keeps (Q := StoreSound) (fun _ => modStore_storeSound (fun hi => hi) rfl) hs
  case programmingPeriodEnd u => exact whileRunning_keeps (Q := StoreSound) (fun _ => periodEnd_storeSound u) hs

/-! ### The resets and the load -/

/-- What O59 says of the part. -/
def AgeAndStoreSound (s : State) : Prop := AgeSound s ∧ StoreSound s

theorem loadStore_storeSound {s : State} (hs : StoreSound s) : StoreSound (loadStore s) := by
  refine ⟨fun r hr => ⟨(hs.1 r hr).1, ?_⟩, fun h => by simp [loadStore, loadedStore] at h⟩
  simpa [loadStore, loadedStore] using (hs.1 r hr).1

theorem loadedVehicle_age (n : Nat) (v : Vehicle) : (loadedVehicle n v).age ≤ n :=
  le_trans (Nat.min_le_right _ _) (Nat.sub_le _ _)

theorem loadPart_ageAndStoreSound {s : State} (hs : AgeAndStoreSound s) : AgeAndStoreSound (loadPart s) := by
  obtain ⟨hage, hstore⟩ := hs
  have hload := loadStore_storeSound hstore
  unfold loadPart
  split
  · exact ⟨hage, storeSound_of_eq rfl rfl hstore⟩
  · exact ⟨loadedVehicle_age _ _, storeSound_of_eq rfl rfl hload⟩
  · exact ⟨loadedVehicle_age _ _, storeSound_of_eq rfl rfl hload⟩
  next c _ =>
    have hreport := reportDefaults_acts { s with phase := .running }
    have hage' : AgeSound (reportDefaults { s with phase := .running }) := hreport.ageSound rfl hage
    have hstore' : StoreSound (reportDefaults { s with phase := .running }) :=
      hreport.storeSound rfl rfl (storeSound_of_eq rfl rfl hstore)
    exact ⟨hage', storeSound_of_eq rfl rfl hstore'⟩
  · exact ⟨hage, hstore⟩

theorem cutProgramming_storeSound {s : State} (hs : StoreSound s) : StoreSound (cutProgramming s) := by
  unfold cutProgramming
  split
  · exact hs
  · exact endPeriod_storeSound _ _ hs.1

/-- Settles O59: each image keeps its length through staging, programming and the load, a period begins on a high
SUPPLY_OK and a fall ends it, and the age is stepped up to STATE_HOLD at most. -/
theorem storeAndAgeStaySound : Obligations.StoreAndAgeStaySound := by
  intro s t hage himages hsupply h
  refine step_keeps (Q := AgeAndStoreSound) (fun s l h => h) (fun c s t h hq => ?_) h ⟨hage, himages, hsupply⟩
  obtain ⟨hage, hstore⟩ := hq
  by_cases hc : isReset c = true
  · refine reset_keeps (Q := AgeAndStoreSound) (fun s t ha hq => ?_) (fun s hq => ?_) (fun s p hq => ?_)
      (fun s => loadPart_ageAndStoreSound) hc h ⟨hage, hstore⟩
    · exact ⟨ha.ageSound rfl hq.1, ha.storeSound rfl rfl hq.2⟩
    · exact ⟨Nat.zero_le _, storeSound_of_eq rfl rfl (cutProgramming_storeSound hq.2)⟩
    · exact ⟨Nat.zero_le _, storeSound_of_eq (endTransaction_store s p) (endTransaction_supplyOk s p) hq.2⟩
  · have hc : isReset c = false := by simpa using hc
    exact ⟨exec_ageSound hc h hage, exec_storeSound hc h hstore⟩

end Sys2Proof.Machine


/-! PROOF. The queue, the resets and the load, and the events that find nothing to do: O1, O2, O3, O4, O55, O60. -/

namespace Sys2Proof.Machine

/-- Settles O1: the step takes the queue apart, and exec has the rest of it. -/
theorem stepRunsFrontCommand : Obligations.StepRunsFrontCommand :=
  ⟨fun c rest s => step_cons c rest _ rfl, fun s h => by unfold step; rw [h]⟩

/-! ### The queue -/

theorem cutProgramming_pending (s : State) : (cutProgramming s).pending = s.pending := by
  unfold cutProgramming
  split <;> rfl

theorem loadPart_pending (s : State) : (loadPart s).pending = s.pending := by
  unfold loadPart
  split
  · rfl
  · rfl
  · rfl
  · exact (reportDefaults_acts { s with phase := .running }).pending_eq
  · rfl

theorem exec_next (c : Instr) (s : State) : ∃ t, exec c s = .next t := by
  cases c <;> exact ⟨_, rfl⟩

/-- Settles O2: a chain of acts keeps the queue, and so do the resets and each part of a load. -/
theorem everyCommandCompletes : Obligations.EveryCommandCompletes := by
  intro c s
  obtain ⟨t, ht⟩ := exec_next c s
  refine ⟨t, ht, ?_⟩
  by_cases hc : isReset c = true
  · exact reset_keeps (Q := fun u => u.pending = s.pending) (fun _ _ ha h => ha.pending_eq.trans h)
      (fun u h => (cutProgramming_pending u).trans h) (fun u p h => (endTransaction_pending u p).trans h)
      (fun u h => (loadPart_pending u).trans h) hc ht rfl
  · exact (exec_acts c (by simpa using hc) s t ht).pending_eq

/-! ### A power-on -/

theorem invalidChecksum_ne (items : List Byte) (c : BitVec 16) : invalidChecksum items c ≠ crc16 items := by
  unfold invalidChecksum
  split
  next h =>
    intro hn
    have h0 := congrArg (BitVec.getLsbD · 0) (hn.trans h.symm)
    simp at h0
  next h => exact h

theorem damagedRegion_checksum (n : Nat) (r : Region) : checksumOk (damagedRegion n r) = false :=
  beq_false_of_ne (invalidChecksum_ne _ _)

theorem damagedRegion_invalid (n : Nat) (r : Region) : regionValid r (damagedRegion n r) = false := by
  rw [regionValid, damagedRegion_checksum, Bool.false_and]

theorem cutProgramming_none {s : State} (h : s.store.programming = none) : cutProgramming s = s := by
  simp only [cutProgramming, h]

theorem cutProgramming_some {s : State} {p : RegionSet} (h : s.store.programming = some p) :
    cutProgramming s = endPeriod p p s := by
  simp only [cutProgramming, h]

/-- What a period that fails in a set of regions leaves of each region (R180). -/
theorem endPeriod_stored (p f : RegionSet) (s : State) (r : Region) :
    perRegionGet (endPeriod p f s).store.stored r =
      if perRegionGet f r then damagedRegion s.freeIndex r
      else if perRegionGet p r then withChecksum (perRegionGet s.store.staging r)
      else perRegionGet s.store.stored r := perRegionGet_perRegion _ _

theorem powerOn_store (s : State) : (powerOn s).store = (cutProgramming s).store := rfl

/-- Settles O3: every block is at its reset value by definition, and of the store a period in progress leaves the
regions in hand damaged and the others alone. -/
theorem powerOnResetsEveryBlock : Obligations.PowerOnResetsEveryBlock := by
  intro s
  refine ⟨powerOn s, rfl, rfl, rfl, rfl, rfl, rfl, fun sd => ?_, fun p => ?_, ?_, ?_, cutProgramming_pending s,
    fun h => ?_, fun p h => ?_⟩
  · cases sd <;> exact ⟨rfl, rfl⟩
  · have htxn (x : Transaction) : cutTransaction x = if x = .none then .none else .cut := by
      cases x <;> rfl
    cases p
    · exact ⟨rfl, congrArg resetPort (htxn s.portV.txn)⟩
    · exact ⟨rfl, congrArg resetPort (htxn s.portC.txn)⟩
  · change (cutProgramming s).supplyOk = s.supplyOk
    unfold cutProgramming
    split <;> rfl
  · change (cutProgramming s).eventIn = s.eventIn
    unfold cutProgramming
    split <;> rfl
  · change (cutProgramming s).store = s.store ∧ (cutProgramming s).freeIndex = s.freeIndex
    rw [cutProgramming_none h]
    exact ⟨rfl, rfl⟩
  · rw [powerOn_store, cutProgramming_some h]
    refine ⟨rfl, fun r => ⟨fun hr => ?_, fun hr => ?_⟩, rfl, rfl, rfl, rfl, rfl, rfl⟩
    · rw [endPeriod_stored, if_pos hr]
      exact ⟨damagedRegion_checksum _ r, damagedRegion_length _ r, damagedRegion_invalid _ r⟩
    · rw [endPeriod_stored, if_neg (by simp [hr]), if_neg (by simp [hr])]

/-- Settles O4: the reset values read off the definitions, the far window's by its clamp. -/
theorem sideResetValues : Obligations.SideResetValues := by
  rintro k sd x rfl
  have hclamp (v b : Nat) : clampNat v 0 b = min v b := by
    rw [clampNat_eq v 0 b (Nat.zero_le b), Nat.max_eq_right (Nat.zero_le _)]
  refine ⟨?_, ?_, ?_, rfl, ?_, ?_, ?_, fun _ => rfl, rfl, rfl, rfl, rfl, rfl, rfl, rfl, rfl, rfl, rfl, rfl, rfl, rfl,
    fun h => ⟨if_pos h, rfl⟩, fun h => if_neg (by simp [h])⟩
  · repeat' constructor
  · repeat' constructor
  · repeat' constructor
  · repeat' constructor
  · exact ⟨rfl, rfl, rfl, rfl, rfl, rfl, rfl, rfl, rfl, hclamp _ _, hclamp _ _, rfl, rfl, rfl, rfl, rfl, rfl, rfl⟩
  · repeat' constructor

/-- Settles O55: no command of the list is taken while no block runs, and a load comes only after a reset. -/
theorem eventsDiscarded : Obligations.EventsDiscarded := by
  intro s sd
  refine ⟨fun kind => rfl, fun h => ?_, fun h c hc => ?_⟩
  · change Host.Outcome.next (load s) = _
    simp only [load, h]
  · have hheld (f : State → State) :
        (Host.Outcome.next (whileRunning f s) : Host.Outcome State Fault Refusal) = .next s :=
          congrArg Host.Outcome.next (whileRunning_held f s h)
    simp only [List.mem_cons, List.not_mem_nil, or_false] at hc
    obtain hc | ⟨h, rfl⟩ | ⟨i, px, crc, rfl⟩ | ⟨n, rfl⟩ | ⟨w, rfl⟩ | ⟨a, b, x, y, z, rfl⟩ | ⟨f, rfl⟩ := hc
    · rcases hc with rfl | rfl | rfl | rfl | rfl | rfl | rfl | rfl | rfl | rfl | rfl | rfl | rfl | rfl | rfl <;>
        exact hheld _
    all_goals exact hheld _

/-- Settles O60: a reset side has every invariant of its blocks, and the rest of the state is closed. -/
theorem resetIsSound : Obligations.ResetIsSound := by
  have hlength (r : Region) : (encodeRegion defaultCalibration r).length = regionLength r := by
    cases r <;> decide +kernel
  have hcap : CaptureInRange defaultCalibration := by decide
  have hside (x : Side) : State.reset.side x = resetSide defaultCalibration x := by
    cases x <;> rfl
  have hview : ViewsSound State.reset :=
    viewsSound_of_reset fun x => ⟨defaultCalibration, resetRecorder defaultCalibration, hside x⟩
  refine ⟨⟨List.nodup_nil, fun r hr => absurd hr List.not_mem_nil⟩, hview, hcap, fun x => ?_, by decide, fun r _ => ?_,
    fun _ => rfl, fun x => ?_, fun p => ?_, rfl, rfl⟩
  · rw [hside]
    exact ⟨resetRecorder_sound hcap, resetSide_blocksSound defaultCalibration x (resetRecorder defaultCalibration)⟩
  · exact ⟨by simpa [State.reset, defaultStore, defaultStored, withChecksum] using hlength r,
      by simpa [State.reset, defaultStore] using hlength r⟩
  · cases x <;> rfl
  · cases p <;> rfl

end Sys2Proof.Machine


/-! PROOF. Requests: which are taken, which refused, and how a frame is read; the counters, the time base and the vehicle
record: O9, O10, O13, O15, O16, O18. -/

namespace Sys2Proof.Machine

/-! ### The owning block of each request (R163 step 3) -/

/-- What the owning block does with a request. -/
def requestBody (p : Port) (ps : List Byte) : RequestCode → State → State × Answer
  | .noOperation => readOnly fun _ => plain .ok
  | .getStatus => getStatus p
  | .readCounters => readCounters p ps
  | .readFault => readOnly (readFault ps)
  | .readFaultKey => readOnly (readFaultKey ps)
  | .ackFault => ackFault p ps
  | .ackAll => ackAll p
  | .setVehicleState => setVehicleState ps
  | .setTime => setTime ps
  | .setViewOffset => setViewOffset ps
  | .setNightPolicy => setNightPolicy ps
  | .setBrightness => setBrightness ps
  | .setExposureMode => setExposureMode ps
  | .testImage => testImage ps
  | .readTileMap => readOnly (readTileMap ps)
  | .triggerCapture => triggerCapture p ps
  | .captureControl => captureControl ps
  | .setCaptureParams => setCaptureParams ps
  | .clearCapture => clearCapture ps
  | .releaseCapture => releaseCapture ps
  | .getCaptureStatus => readOnly (getCaptureStatus p ps)
  | .readCaptureHeader => readCaptureHeader p ps
  | .readCaptureSlot => readOnly (readCaptureSlot ps)
  | .readCaptureNext => readCaptureNext p ps
  | .calStage => calStage ps
  | .calDiscard => calDiscard
  | .calProgram => calProgram
  | .calProtect => calProtect ps
  | .calRead => readOnly (calRead ps)
  | .restart => readOnly fun _ => plain .busy

theorem calProgram_supply {s : State} (hs : SupplySound s) :
    { s with supplyOk := s.store.programming.isSome || s.supplyOk } = s := by
  have h : (s.store.programming.isSome || s.supplyOk) = s.supplyOk := by
    cases hp : s.store.programming.isSome
    · rfl
    · rw [hs hp, Bool.true_or]
  rw [h]

/-- Every request but a RESTART that is taken is examined and then answered by its owning block. -/
theorem exec_request {s : State} (hs : SupplySound s) (p : Port) (c : RequestCode) (tag : BitVec 4) (ps : List Byte)
    (hr : c = .restart → (s.port p).txn = .onReady → restartRefusal p ps s ≠ none) :
    exec (requestInstr c p tag ps s.supplyOk) s = .next (takeRequest p c tag ps (requestBody p ps c) s) := by
  cases c <;> first | rfl | skip
  case calProgram => 
    exact congrArg (fun u => Host.Outcome.next (takeRequest p .calProgram tag ps calProgram u)) (calProgram_supply hs)
  case restart =>
    change Host.Outcome.next (restart p tag ps s) = _
    unfold restart
    split
    next htxn hnone => exact absurd hnone (hr rfl htxn)
    · rfl

theorem takeRequest_discarded {s : State} {p : Port} (h : (s.port p).txn = .onPreparing ∨ (s.port p).txn = .cut)
    (c : RequestCode) (tag : BitVec 4) (ps : List Byte) (body : State → State × Answer) :
    takeRequest p c tag ps body s = endTransaction p s := by
  unfold takeRequest
  obtain h | h := h <;> rw [h]

/-- Settles O9: a transaction begun on PREPARING, or cut, is ended with its request unexamined. -/
theorem requestDiscardedUnexamined : Obligations.RequestDiscardedUnexamined := by
  intro s p hs
  refine ⟨fun h => ⟨?_, fun c tag ps => ?_, fun bs => ?_⟩, fun h => ?_⟩
  · change Host.Outcome.next (discardRequest p s) = _
    unfold discardRequest
    obtain h | h := h <;> rw [h] <;> rfl
  · rw [exec_request hs p c tag ps fun _ hr => ?_, takeRequest_discarded h]
    · rfl
    · obtain h | h := h <;> simp [h] at hr
  · change Host.Outcome.next (takeBadFrame p bs s) = _
    unfold takeBadFrame
    obtain h | h := h <;> rw [h] <;> rfl
  · change Host.Outcome.next (discardRequest p s) = _
    unfold discardRequest
    obtain h | h := h <;> rw [h]

/-- A request whose examination or owning block leaves the state is answered alone. -/
theorem takeRequest_refused {s : State} {p : Port} {c : RequestCode} {ps : List Byte} {st : Status}
    {body : State → State × Answer} (h : (s.port p).txn = .onReady) (hex : examine p c ps body s = (s, plain st))
    (tag : BitVec 4) : takeRequest p c tag ps body s = answered p c tag st [] s := by
  unfold takeRequest
  rw [h]
  dsimp only
  rw [hex]
  cases p <;> rfl

theorem sideOfParam_eq_none {v : Nat} (h : 1 < v) : sideOfParam v = none := by
  unfold sideOfParam
  split
  case h_3 => rfl
  all_goals omega

/-- The requests of one side refuse a byte that names none. -/
theorem requestBody_side {p : Port} {ps : List Byte} {c : RequestCode} {s : State} (h : sideOfParam (param ps 0) = none)
    (hc : c ∈ [RequestCode.readCounters, .readTileMap, .getCaptureStatus, .readCaptureHeader, .readCaptureSlot,
      .readCaptureNext, .releaseCapture, .captureControl, .setCaptureParams, .clearCapture]) :
    requestBody p ps c s = (s, plain .refusedParam) := by
  simp only [List.mem_cons, List.not_mem_nil, or_false] at hc
  rcases hc with rfl | rfl | rfl | rfl | rfl | rfl | rfl | rfl | rfl | rfl
  · simp only [requestBody, readCounters, h]
  · simp only [requestBody, readOnly, readTileMap, h]
  · simp only [requestBody, readOnly, getCaptureStatus, h]
  · simp only [requestBody, readCaptureHeader, h]
  · simp only [requestBody, readOnly, readCaptureSlot, h]
  · simp only [requestBody, readCaptureNext, h]
  · simp only [requestBody, releaseCapture, h]
  · simp only [requestBody, captureControl, h]
  · simp only [requestBody, setCaptureParams, h]
  · simp only [requestBody, clearCapture, h]

theorem authorised_congr {s t : State} (h : s.cal.access = t.cal.access) (p : Port) (c : RequestCode) :
    authorised s p c = authorised t p c := by
  have hg (g : Group) : authorityOf s.cal g = authorityOf t.cal g := by
    unfold authorityOf
    rw [h]
  unfold authorised
  split
  · rfl
  · rw [hg]

/-- Settles O10: the three refusals leave the state and are answered with no payload; with the default ACCESS the
authority of each request is closed. -/
theorem refusedRequestsChangeNothing : Obligations.RefusedRequestsChangeNothing := by
  refine ⟨fun s p c tag ps hs htxn => ⟨fun ha => ?_, fun ha hl => ?_, fun ha hv hc => ?_⟩, fun s hs c => ?_⟩
  · have hex : examine p c ps (requestBody p ps c) s = (s, plain .refusedAuthority) := by simp [examine, ha]
    rw [exec_request hs p c tag ps fun hc _ => by subst hc; simp [restartRefusal, ha], takeRequest_refused htxn hex]
  · have hex : examine p c ps (requestBody p ps c) s = (s, plain .refusedParam) := by simp [examine, ha, hl]
    rw [exec_request hs p c tag ps fun hc _ => by subst hc; simp [restartRefusal, ha, hl], takeRequest_refused htxn hex]
  · have hne : c ≠ .restart := by rintro rfl; exact absurd hc (by decide)
    have hbody := requestBody_side (p := p) (s := s) (sideOfParam_eq_none hv) hc
    have hex : examine p c ps (requestBody p ps c) s = (s, plain .refusedParam) := by
      unfold examine
      rw [ha, hbody]
      split
      · contradiction
      · split <;> rfl
    rw [exec_request hs p c tag ps fun hr => absurd hr hne, takeRequest_refused htxn hex]
  · rw [authorised_congr (t := State.reset) hs, authorised_congr (t := State.reset) hs]
    cases c <;> decide

/-! ### The bytes of a request (R160, R162) -/

theorem codeByte_requestOfByte (c : RequestCode) : requestOfByte (codeByte c) = some c := by
  cases c <;> decide

theorem tagOfByte_append (tag : BitVec 4) : tagOfByte (0#4 ++ tag : BitVec 8) = tag := by
  revert tag
  decide

theorem byte_eq (v : Nat) : byte v = [BitVec.ofNat 8 v] := by
  simp [byte, bytesOfNat]

/-- Settles O13: the CRC is formed over the head and checks against it, whatever bytes follow. -/
theorem framedRequestReadsBack : Obligations.FramedRequestReadsBack := by
  intro c p tag ps more supplyOk hps
  have hhead : requestHead c tag ps = codeByte c :: (0#4 ++ tag : BitVec 8) :: BitVec.ofNat 8 ps.length :: ps := by
    simp [requestHead, byte_eq]
  have hlen : (requestHead c tag ps).length = 3 + ps.length := by
    rw [hhead]
    simp only [List.length_cons]
    omega
  have hbytes : (requestBytes c tag ps).length = 4 + ps.length := by
    rw [requestBytes, List.length_append, hlen, List.length_singleton]
    omega
  refine ⟨?_, hbytes⟩
  have hframe : requestBytes c tag ps ++ more
      = requestHead c tag ps ++ (crc8 (requestHead c tag ps) :: more) := by simp [requestBytes]
  have hn : ps.length = ((requestBytes c tag ps ++ more).getD 2 0).toNat := by
    rw [hframe]
    generalize crc8 (requestHead c tag ps) :: more = tail
    rw [hhead]
    change ps.length = (BitVec.ofNat 8 ps.length).toNat
    rw [BitVec.toNat_ofNat]
    omega
  have htake : (requestBytes c tag ps ++ more).take (3 + ps.length) = requestHead c tag ps := by
    rw [hframe, ← hlen, List.take_left]
  have hcrc : (requestBytes c tag ps ++ more).getD (3 + ps.length) 0 = crc8 (requestHead c tag ps) := by
    rw [hframe, ← hlen, List.getD_append_right _ _ _ _ le_rfl, Nat.sub_self, List.getD_cons_zero]
  have hcode : (requestBytes c tag ps ++ more).getD 0 0 = codeByte c := by
    rw [hframe]
    generalize crc8 (requestHead c tag ps) :: more = tail
    rw [hhead]
    rfl
  have htag : (requestBytes c tag ps ++ more).getD 1 0 = (0#4 ++ tag : BitVec 8) := by
    rw [hframe]
    generalize crc8 (requestHead c tag ps) :: more = tail
    rw [hhead]
    rfl
  have hfault : frameFault (requestBytes c tag ps ++ more) = none := by
    rw [frameFault_complete hn (by rw [List.length_append, hbytes]; omega) hps, htake, hcrc, if_neg (by simp), hcode,
      codeByte_requestOfByte]
    rfl
  have hparams : ((requestBytes c tag ps ++ more).drop 3).take ps.length = ps := by
    rw [hframe]
    generalize crc8 (requestHead c tag ps) :: more = tail
    rw [hhead]
    exact List.take_left
  have hread : requestOfBytes (requestBytes c tag ps ++ more) = some (c, tag, ps) := by
    unfold requestOfBytes
    rw [hfault, hcode, codeByte_requestOfByte, htag, tagOfByte_append, ← hn, hparams]
  simp only [transactionInstr, hread]

/-! ### Counters (R170) -/

theorem differences_getElem? {total base : Counters} {i : Nat} {t b : BitVec 32} (ht : (counterList total)[i]? = some t)
    (hb : (counterList base)[i]? = some b) :
    (differences total base)[i]? = some ((2 ^ 32 + t.toNat - b.toNat) % 2 ^ 32) := by
  have hsub : (t - b).toNat = (2 ^ 32 + t.toNat - b.toNat) % 2 ^ 32 := by
    have := t.isLt
    have := b.isLt
    rw [BitVec.toNat_sub]
    omega
  rw [differences, List.getElem?_zipWith, ht, hb]
  exact congrArg some hsub

/-- Settles O15: the deltas and marks are those of the eight differences. -/
theorem countersFollowBaselines : Obligations.CountersFollowBaselines := by
  intro s p tag sd htxn
  refine ⟨(differences (totalsOf (s.side sd)) (baseOf (s.port p) sd)).map deltaOf,
    (differences (totalsOf (s.side sd)) (baseOf (s.port p) sd)).map saturates, ?_, rfl, rfl, ?_⟩
  · have hside : sideOfParam (param [BitVec.ofNat 8 (sideNumber sd)] 0) = some sd := by
      cases sd <;> rfl
    change Host.Outcome.next (takeRequest p .readCounters tag _ (readCounters p _) s) = _
    rw [takeRequest_open s p .readCounters tag _ _ rfl htxn rfl]
    simp only [readCounters, hside, byte_eq, List.flatMap_map]
    rfl
  · rintro i t b d - ht hb rfl
    rw [List.getElem?_map, List.getElem?_map, differences_getElem? ht hb]
    exact ⟨rfl, rfl⟩

/-! ### The time base (R107, R109) -/

theorem natOfBytes_four (a b c d : Byte) : natOfBytes [a, b, c, d] = (a ++ b ++ c ++ d).toNat := by
  have hb := b.isLt
  have hc := c.isLt
  have hd := d.isLt
  simp only [natOfBytes, List.foldl_cons, List.foldl_nil, BitVec.toNat_append]
  rw [← Nat.shiftLeft_add_eq_or_of_lt hd, ← Nat.shiftLeft_add_eq_or_of_lt hc, ← Nat.shiftLeft_add_eq_or_of_lt hb]
  simp only [Nat.shiftLeft_eq]
  omega

theorem ofNat_field_four (a b c d : Byte) : BitVec.ofNat 32 (field [a, b, c, d] 0 4) = a ++ b ++ c ++ d := by
  rw [field_eq _ _ _ (by simp)]
  change BitVec.ofNat 32 (natOfBytes [a, b, c, d]) = _
  rw [natOfBytes_four, BitVec.ofNat_toNat, BitVec.setWidth_eq]

theorem bytesOfNat_four (w : BitVec 32) : bytesOfNat 4 w.toNat =
    [w.extractLsb' 24 8, w.extractLsb' 16 8, w.extractLsb' 8 8, w.extractLsb' 0 8] := by
  simp only [bytesOfNat, BitVec.extractLsb', Nat.shiftRight_eq_div_pow]
  rfl

theorem byte_toNat (b : Byte) : byte b.toNat = [b] := by
  rw [byte_eq, BitVec.ofNat_toNat, BitVec.setWidth_eq]

/-- Settles O16: the tick adds 1 to the count and steps the age, and the new stamp is the epoch raised and the bytes
sent. -/
theorem timeBaseCounts : Obligations.TimeBaseCounts := by
  refine ⟨fun s => ⟨fun h => ?_, fun h => ?_⟩, fun s p tag a b c d h => ?_⟩
  · change Host.Outcome.next (tick s) = _
    simp only [tick, h]
  · have htick : tick s = { s with
        time := nextStamp s.time
        vehicle := { s.vehicle with age := nextAge s.cal.integrity.stateHold s.vehicle.age } } := by
      unfold tick
      split
      · contradiction
      all_goals rfl
    refine ⟨tick s, nextAge s.cal.integrity.stateHold s.vehicle.age, rfl, ?_, ?_, ?_,
      fun hlt => if_pos hlt, fun hge => if_neg (by omega)⟩ <;> rw [htick]
    · rfl
    · exact BitVec.toNat_add _ _
  · change Host.Outcome.next (takeRequest p .setTime tag _ (setTime _) s) = _
    rw [takeRequest_reaches s p .setTime tag _ _ h rfl]
    simp only [setTime, ofNat_field_four, stampBytes, bytesOfNat_four, byte_toNat]
    rfl

/-! ### The vehicle state (R103, R104) -/

theorem isFresh_iff (s : State) :
    isFresh s = true ↔ s.vehicle.held = true ∧ s.vehicle.age < s.cal.integrity.stateHold := by
  simp [isFresh]

theorem presents_fresh {s : State} (h : isFresh s = true) :
    presentedSpeed s = s.vehicle.speed ∧ presentedAngle s = s.vehicle.angle
      ∧ presentedReverse s = decide (s.vehicle.reverse = some true)
      ∧ presentedPermission s = decide (s.vehicle.permitted ≠ some false) := by
  refine ⟨if_pos h, if_pos h, (if_pos h).trans ?_, (if_pos h).trans ?_⟩
  · obtain _ | _ | _ := s.vehicle.reverse <;> rfl
  · obtain _ | _ | _ := s.vehicle.permitted <;> rfl

theorem presents_stale {s : State} (h : isFresh s = false) :
    presentedSpeed s = none ∧ presentedAngle s = none ∧ presentedReverse s = false
      ∧ presentedPermission s = s.vehicle.lastPermission := by
  simp [presentedSpeed, presentedAngle, presentedReverse, presentedPermission, h]

/-- The reports of an expiry and the ends of tests leave the vehicle and the working copy. -/
theorem expiry_acts (d : BitVec 16) (s : State) :
    Acts {} s (clearTest .right (clearTest .left (sendRaise .vehicleStale .common d s))) :=
  .clearTest _ (.clearTest _ (.raise _ _ _ rfl rfl .refl))

/-- Settles O18: a record presents itself by its being held and its age; the expiry takes the age to STATE_HOLD, after
which none is fresh and none expires. -/
theorem freshnessAndExpiry : Obligations.FreshnessAndExpiry := by
  refine ⟨fun s => ⟨fun h => ?_, fun h => ?_⟩, fun s hrun => ⟨fun hage => ?_, fun hage => ?_⟩⟩
  · have hf := (isFresh_iff s).mpr h
    exact ⟨hf, presents_fresh hf⟩
  · have hf : isFresh s = false := by
      rw [Bool.eq_false_iff]
      intro hf
      obtain ⟨hheld, hlt⟩ := (isFresh_iff s).mp hf
      obtain h | h := h
      · simp [hheld] at h
      · omega
    exact ⟨hf, presents_stale hf⟩
  · have hexec : exec .vehicleStateExpiry s = .next (clearTest .right (clearTest .left
        (sendRaise .vehicleStale .common (if s.vehicle.held then 0 else 1)
          { s with vehicle := { s.vehicle with age := s.cal.integrity.stateHold } }))) :=
      congrArg Host.Outcome.next ((whileRunning_running _ s hrun).trans (if_pos hage))
    refine ⟨hexec, fun t ht => ?_⟩
    rw [hexec] at ht
    injection ht with ht
    have hacts := expiry_acts (if s.vehicle.held then 0 else 1)
      { s with vehicle := { s.vehicle with age := s.cal.integrity.stateHold } }
    rw [ht] at hacts
    have hv : t.vehicle = { s.vehicle with age := s.cal.integrity.stateHold } := hacts.vehicle_eq rfl
    have hcal : t.cal = s.cal := hacts.cal_eq
    have hf : isFresh t = false := by simp [isFresh, hv, hcal]
    refine ⟨hf, (presents_stale hf).2.2.2.trans (by rw [hv]), congrArg Host.Outcome.next ?_⟩
    have hphase : t.phase = s.phase := hacts.phase_eq
    rw [whileRunning_running _ t (hphase ▸ hrun), vehicleExpiry]
    refine if_neg ?_
    simp [hv, hcal]
  · exact congrArg Host.Outcome.next ((whileRunning_running _ s hrun).trans (if_neg hage))

end Sys2Proof.Machine


/-! PROOF. The display link: negotiation, ability words, the output frame as sent (R64, R85 to R93, R98): O39, O40, O41. -/

namespace Sys2Proof.Machine

theorem modDlt_modDlt (s : State) (sd : Side) (f g : Dlt → Dlt) :
    (s.modDlt sd f).modDlt sd g = s.modDlt sd fun d => g (f d) := modSide_modSide s sd _ _

theorem modDlt_congr (s : State) (sd : Side) {f g : Dlt → Dlt} (h : f (s.side sd).dlt = g (s.side sd).dlt) :
    s.modDlt sd f = s.modDlt sd g :=
  modSide_congr s sd _ _ (congrArg (fun d => { s.side sd with dlt := d }) h)

/-- A command of the blocks, while they run. -/
theorem next_whileRunning {f : State → State} {s t : State} (hrun : blocksRun s.phase = true) (h : f s = t) :
    (.next (whileRunning f s) : Host.Outcome State Fault Refusal) = .next t :=
  congrArg Host.Outcome.next ((whileRunning_running f s hrun).trans h)

/-! ### The lock and the timers (R85, R86, R89, R91, R92) -/

theorem loseLock_up {d : Dlt} (h : d.state = .up) : loseLock d =
    { d with locked := false, state := .down, negTimer := false, failedTimer := false, reference := none
             run := 0, retry := false, chosen := none, sent := [], mismatchRun := 0, matchRun := 0
             forward := .nothing } := if_pos h

theorem loseLock_notUp {d : Dlt} (h : d.state ≠ .up) : loseLock d =
    { d with locked := false, state := .down, negTimer := false, failedTimer := false, reference := none
             run := 0, retry := false, forward := .nothing } := if_neg h

theorem backLockLost_locked {s : State} {sd : Side} (hl : (s.side sd).dlt.locked = true) :
    backLockLost sd s = if (s.side sd).dlt.state = .up then raiseLink sd 1 (s.modDlt sd loseLock)
      else s.modDlt sd loseLock := if_neg (by simp [hl])

/-- Settles O40: each event by its condition on the DLT. -/
theorem negotiationEvents : Obligations.NegotiationEvents := by
  rintro s sd d hrun rfl
  refine ⟨fun hl => ⟨next_whileRunning hrun (if_neg (by simp [hl])), next_whileRunning hrun (if_pos (by simp [hl]))⟩,
    fun hl => ⟨next_whileRunning hrun (if_pos hl), fun hup => ?_, fun hup => ?_⟩, fun hn hst => ?_, fun h => ?_,
    fun hf hst => ?_, fun h => ?_, fun h => next_whileRunning hrun (if_pos h),
    fun h => next_whileRunning hrun (if_neg (by simp [h]))⟩
  · refine next_whileRunning hrun ?_
    rw [backLockLost_locked hl, if_neg hup]
    exact modDlt_congr s sd (loseLock_notUp hup)
  · refine next_whileRunning hrun ?_
    rw [backLockLost_locked hl, if_pos hup]
    exact congrArg (raiseLink sd 1) (modDlt_congr s sd (loseLock_up hup))
  · exact next_whileRunning hrun (modDlt_congr s sd (if_pos ⟨hn, hst⟩))
  · refine next_whileRunning hrun (modSide_self s sd _ ?_)
    have hstay : negotiationExpiry (s.side sd).dlt = (s.side sd).dlt := by
      refine if_neg fun hn => ?_
      obtain ⟨hn, hst⟩ := hn
      obtain h | ⟨hoffer, hconfirm⟩ := h
      · simp [h] at hn
      · exact hst.elim hoffer hconfirm
    rw [hstay]
  · exact next_whileRunning hrun (modDlt_congr s sd (if_pos ⟨hf, hst⟩))
  · refine next_whileRunning hrun (modSide_self s sd _ ?_)
    have hstay : failedExpiry (s.side sd).dlt = (s.side sd).dlt := by
      refine if_neg fun hf => ?_
      obtain ⟨hf, hst⟩ := hf
      obtain h | h := h
      · simp [h] at hf
      · exact h hst
    rw [hstay]

/-! ### Ability words (R87, R88, R91) -/

section
variable {s : State} {sd : Side} {a : Ability}

theorem countWord_new {d : Dlt} (h : d.reference ≠ some a) : countWord a d = { d with reference := some a, run := 1 } :=
  if_neg h

theorem countWord_again {d : Dlt} (h : d.reference = some a) : countWord a d = { d with run := d.run + 1 } := if_pos h

theorem wordInOffer_short (h : (countWord a (s.side sd).dlt).run < 3) :
    wordInOffer sd a s = s.modDlt sd (countWord a) := if_pos (by simpa using h)

theorem wordInOffer_third (href : (s.side sd).dlt.reference = some a) (hrun : 3 ≤ (s.side sd).dlt.run + 1) :
    wordInOffer sd a s =
      if !a.signature then raiseLink sd 3 (s.modDlt sd fun d => enterFailed { d with run := d.run + 1 })
      else if !(a.m60 || a.m30) then raiseLink sd 4 (s.modDlt sd fun d => enterFailed { d with run := d.run + 1 })
      else s.modDlt sd fun d => { d with run := d.run + 1, confirmed := some a, state := .confirm } := by
  have hcount : s.modDlt sd (countWord a) = s.modDlt sd fun d => { d with run := d.run + 1 } :=
    modDlt_congr s sd (countWord_again href)
  unfold wordInOffer
  rw [hcount]
  dsimp only
  rw [if_neg (by simpa using hrun)]
  simp only [modDlt_modDlt]

theorem monitorWord_offer (w : Byte) (hl : (s.side sd).dlt.locked = true) (hst : (s.side sd).dlt.state = .offer) :
    monitorWord sd w s = wordInOffer sd (abilityOf w) s := by simp [monitorWord, hl, hst]

theorem monitorWord_confirm (w : Byte) (hl : (s.side sd).dlt.locked = true) (hst : (s.side sd).dlt.state = .confirm) :
    monitorWord sd w s = wordInConfirm sd (abilityOf w) (ackOf w) s := by simp [monitorWord, hl, hst]

theorem monitorWord_up (w : Byte) (hl : (s.side sd).dlt.locked = true) (hst : (s.side sd).dlt.state = .up) :
    monitorWord sd w s = wordInUp sd (abilityOf w) s := by simp [monitorWord, hl, hst]

end

/-- Settles O41: the word by the state of negotiation, in OFFER by the consistency run. -/
theorem abilityWordTaken : Obligations.AbilityWordTaken := by
  rintro s sd w d a hrun rfl ha
  have hword : abilityOf w = a := ha.symm
  refine ⟨fun h => next_whileRunning hrun ?_, fun hl => ?_⟩
  · unfold monitorWord
    dsimp only
    split
    · rfl
    next hl => obtain h | h | h := h <;> simp_all
  have hoffer {t : State} (hst : (s.side sd).dlt.state = .offer) (ht : wordInOffer sd a s = t) :
      exec (.monitorAbilityWord sd w) s = .next t :=
    next_whileRunning hrun ((monitorWord_offer w hl hst).trans (hword ▸ ht))
  have hconfirm {t : State} (hst : (s.side sd).dlt.state = .confirm) (ht : wordInConfirm sd a (ackOf w) s = t) :
      exec (.monitorAbilityWord sd w) s = .next t :=
    next_whileRunning hrun ((monitorWord_confirm w hl hst).trans (hword ▸ ht))
  have hup {t : State} (hst : (s.side sd).dlt.state = .up) (ht : wordInUp sd a s = t) :
      exec (.monitorAbilityWord sd w) s = .next t :=
    next_whileRunning hrun ((monitorWord_up w hl hst).trans (hword ▸ ht))
  refine ⟨fun hst href => hoffer hst ?_, fun hst href hlt => hoffer hst ?_, fun hst href hge => ⟨fun hsig hm =>
    hoffer hst ?_, fun cause hc => hoffer hst ?_⟩, fun hst hconf hack => hconfirm hst ?_, fun hst hconf hack =>
    hconfirm hst ?_, fun hst hconf => hconfirm hst (if_neg hconf), fun hst hconf => hup hst (if_pos hconf),
    fun hst hconf => hup hst (if_neg hconf)⟩
  · have hone : (countWord a (s.side sd).dlt).run < 3 := by
      rw [countWord_new href]
      exact Nat.one_lt_succ_succ 1
    exact (wordInOffer_short hone).trans (modDlt_congr s sd (countWord_new href))
  · exact (wordInOffer_short (by rw [countWord_again href]; exact hlt)).trans (modDlt_congr s sd (countWord_again href))
  · have hmode : ¬ (!(a.m60 || a.m30)) = true := by obtain h | h := hm <;> simp [h]
    exact (wordInOffer_third href hge).trans ((if_neg (by simp [hsig])).trans (if_neg hmode))
  · obtain ⟨hsig, rfl⟩ | ⟨hsig, h60, h30, rfl⟩ := hc
    · exact (wordInOffer_third href hge).trans (if_pos (by simp [hsig]))
    · exact (wordInOffer_third href hge).trans ((if_neg (by simp [hsig])).trans (if_pos (by simp [h60, h30])))
  · exact (if_pos hconf).trans (if_neg (Bool.eq_false_iff.mp hack))
  · exact (if_pos hconf).trans (if_pos hack)

/-! ### The output frame as sent (R64, R93, R98) -/

theorem rampLevel_up {ramp sent command : Nat} (h : sent ≤ command) :
    rampLevel ramp sent command = min command (sent + ramp) := by
  unfold rampLevel
  split
  · split <;> omega
  · omega

theorem rampLevel_down {ramp sent command : Nat} (h : command ≤ sent) :
    rampLevel ramp sent command = max command (sent - ramp) := by
  unfold rampLevel
  repeat' split
  all_goals omega

theorem pushOutSent_short {s : State} {sd : Side} (h : (s.side sd).dlt.sent.length ≤ 4) : pushOutSent sd s = s := by
  unfold pushOutSent
  split
  next hs =>
    rw [hs, List.length_cons] at h
    exact if_neg (by omega)
  · rfl

theorem pushOutSent_full {s : State} {sd : Side} (h : (s.side sd).dlt.sent.length = 5) :
    pushOutSent sd s = countMismatch sd (s.modDlt sd fun d => { d with sent := d.sent.drop 1 }) := by
  unfold pushOutSent
  split
  next hs =>
    rw [hs, List.length_cons] at h
    rw [if_pos (by omega)]
    exact congrArg (countMismatch sd) (modDlt_congr s sd (by rw [hs]; rfl))
  next hs => simp [hs] at h

theorem countMismatch_eq {s : State} {sd : Side} {run : Nat} (hrun : run = min ((s.side sd).dlt.mismatchRun + 1) 255) :
    countMismatch sd s =
      if s.cal.integrity.sigLimit ≤ run then
        sendRaise .dispSignature (faultSideOf sd) (BitVec.ofNat 16 run) (s.modDlt sd fun d =>
          { d with sigMismatches := d.sigMismatches + 1, mismatchRun := run, matchRun := 0 })
      else s.modDlt sd fun d => { d with sigMismatches := d.sigMismatches + 1, mismatchRun := run, matchRun := 0 } := by
  subst hrun
  rfl

/-- Settles O39: by the state of negotiation; in UP by the length of the list that the frame joins. -/
theorem outputFrameSent : Obligations.OutputFrameSent := by
  refine ⟨fun d => ⟨fun hd hr => if_pos ⟨hd, hr⟩, fun h => if_neg fun hn => ?_⟩, ?_, ?_⟩
  · obtain ⟨hd, hr⟩ := hn
    exact h.elim (· hd) (by simp [hr])
  · rintro s sd d rfl
    exact ⟨fun hup h30 => if_pos ⟨hup, h30⟩, fun h => if_neg fun ⟨hup, h30⟩ => h.elim (· hup) (· h30)⟩
  rintro s sd codes d rfl
  refine ⟨fun h => ?_, fun h => ?_, fun h => ?_, fun h => ?_⟩
  · unfold takeFrame
    obtain h | h := h <;> rw [h]
  · simp only [takeFrame, h]
  · simp only [takeFrame, h]
  have htake : takeFrame sd codes s = pushOutSent sd (s.modDlt sd fun _ =>
      sendFrame s.cal.image.blRamp codes (s.side sd).dlt) := by
    simp only [takeFrame, h]
    exact congrArg (pushOutSent sd) (modDlt_congr s sd rfl)
  refine ⟨rampLevel s.cal.image.blRamp (s.side sd).dlt.blSent (s.side sd).dlt.blCommand, _, rampLevel_up, rampLevel_down,
    rfl, fun hlen => ?_, fun hlen => ⟨_, _, rfl, rfl, ?_⟩⟩
  · rw [htake, pushOutSent_short]
    · rfl
    · simpa [sendFrame] using hlen
  · rw [htake, pushOutSent_full (by simp [sendFrame, hlen]), modDlt_modDlt,
      countMismatch_eq (run := min ((s.side sd).dlt.mismatchRun + 1) 255) (by simp [sendFrame]), modDlt_modDlt]
    simp only [modDlt_cal]
    rfl

end Sys2Proof.Machine


/-! PROOF. Steps 2 and 3 of an output frame start by the view state (R67, R68, R74 to R78): O38. -/

namespace Sys2Proof.Machine

theorem modView_modView (s : State) (sd : Side) (f g : Composer → Composer) :
    (s.modView sd f).modView sd g = s.modView sd fun x => g (f x) := modSide_modSide s sd _ _

theorem notify_modView (s : State) (sd : Side) (p : Port) (k : NoticeKind) (g : Composer → Composer) :
    notify p k (s.modView sd g) = (notify p k s).modView sd g := (modPort_modSide s p sd _ _).symm

/-- A change of the view state commutes with one of another field of the composer. -/
theorem changeView_modView {s : State} {sd : Side} (v : ViewState) {g : Composer → Composer}
    (hs : ∀ x, (g x).state = x.state) (hg : ∀ x, g { x with state := v } = { g x with state := v }) :
    changeView sd v (s.modView sd g) = (changeView sd v s).modView sd g := by
  unfold changeView
  rw [modView_side_view, hs]
  split
  · rfl
  · unfold notifyBoth
    rw [← notify_modView, ← notify_modView, modView_modView, modView_modView]
    exact congrArg (fun f => notify .c .view (notify .v .view (s.modView sd f))) (funext fun x => (hg x).symm)

theorem enterInvalid_held (s : State) (sd : Side) (held : Nat) :
    enterInvalid sd (s.modView sd fun x => { x with heldCount := held })
      = (enterInvalid sd s).modView sd fun x => { x with heldCount := held } := by
  unfold enterInvalid
  rw [changeView_modView (g := fun x => { x with heldCount := held }) _ (fun _ => rfl) fun _ => rfl, modView_modView,
    modView_modView]

theorem composeSlot_eq {u : State} {sd : Side} {f : SlotFrame} (h : (u.side sd).view.slot = some f) :
    composeSlot sd u = composeCodes u.cal.image.kneeIn ((u.side sd).glare.tiles.map (·.ga)) f.image
      (u.side sd).view.originX (u.side sd).view.originY := by
  simp only [composeSlot, h, appliedGains]

/-- The codes of a composed frame are those of the slot, the window and the map as they stood. -/
theorem composeSlot_of_window {u w : State} {sd : Side} {f : SlotFrame} (h : (w.side sd).view.slot = some f)
    (hwin : windowOf (u.side sd).view = windowOf (w.side sd).view) (hglare : (u.side sd).glare = (w.side sd).glare)
    (hcal : u.cal = w.cal) :
    composeSlot sd u = composeCodes w.cal.image.kneeIn ((w.side sd).glare.tiles.map (·.ga)) f.image
      (w.side sd).view.originX (w.side sd).view.originY := by
  simp only [windowOf, Prod.mk.injEq] at hwin
  obtain ⟨⟨hox, hoy, -, -⟩, -, -, -, -, hslot, -⟩ := hwin
  rw [composeSlot_eq (hslot.trans h), hcal, hglare, hox, hoy]

section
variable {w : State} {sd : Side}

theorem decideView_loss (hst : (w.side sd).view.state = .starting) (hloss : viewLossActive w.table sd = true) :
    decideView sd w = (enterInvalid sd w, .pattern) := by
  simp only [decideView, hst]
  exact if_pos hloss

/-- A newer frame is taken in LIVE from every state but TEST, without a VIEW_LOSS record where none is shown yet. -/
theorem decideView_newer (hnew : newerFrame (w.side sd).view = true)
    (h : (w.side sd).view.state = .live ∨ (w.side sd).view.state = .holding
      ∨ (((w.side sd).view.state = .starting ∨ (w.side sd).view.state = .invalid)
        ∧ viewLossActive w.table sd = false)) :
    decideView sd w = (takeLive sd w, .compose) := by
  obtain h | h | ⟨h | h, hloss⟩ := h <;> simp only [decideView, h]
  · exact decideShowing_newer hnew
  · exact decideShowing_newer hnew
  · exact (if_neg (by simp [hloss])).trans (if_pos hnew)
  · exact (if_neg (by simp [hloss])).trans (if_pos hnew)

theorem decideView_starting (hst : (w.side sd).view.state = .starting) (hloss : viewLossActive w.table sd = false)
    (hnew : newerFrame (w.side sd).view = false) :
    decideView sd w = if w.cal.integrity.startLimit ≤ (w.side sd).view.startCount + 1 then
        (raiseStale sd 1 (enterInvalid sd w), .pattern)
      else (w.modView sd fun x => { x with startCount := x.startCount + 1 }, .black) := by
  simp only [decideView, hst]
  exact (if_neg (by simp [hloss])).trans (if_neg (by simp [hnew]))

theorem decideView_held {held : Nat} (hst : (w.side sd).view.state = .live ∨ (w.side sd).view.state = .holding)
    (hnew : newerFrame (w.side sd).view = false)
    (hheld : held = (if (w.side sd).view.state = .live then 0 else (w.side sd).view.heldCount) + 1) :
    decideView sd w =
      if w.cal.integrity.holdLimit ≤ held then
        (raiseStale sd 0 (enterInvalid sd (w.modView sd fun x => { x with heldCount := held })), .pattern)
      else ((changeView sd .holding (w.modView sd fun x => { x with heldCount := held })).modView sd fun x =>
        { x with framesHeld := x.framesHeld + 1 }, .hold) := by
  have hshow : decideView sd w = decideShowing sd w := by obtain h | h := hst <;> simp only [decideView, h]
  rw [hshow]
  exact decideShowing_held hnew hheld

theorem decideView_invalid_loss (hst : (w.side sd).view.state = .invalid) (hloss : viewLossActive w.table sd = true) :
    decideView sd w = (w.modView sd fun x => { x with startCount := 0 }, .pattern) := by
  simp only [decideView, hst]
  exact if_pos hloss

theorem decideView_invalid (hst : (w.side sd).view.state = .invalid) (hloss : viewLossActive w.table sd = false)
    (hnew : newerFrame (w.side sd).view = false) :
    decideView sd w = if w.cal.integrity.startLimit ≤ (w.side sd).view.startCount + 1 then
        (raiseStale sd 1 (w.modView sd fun x => { x with startCount := 0 }), .pattern)
      else (w.modView sd fun x => { x with startCount := x.startCount + 1 }, .pattern) := by
  simp only [decideView, hst]
  exact (if_neg (by simp [hloss])).trans (if_neg (by simp [hnew]))

theorem decideView_test (hst : (w.side sd).view.state = .test) :
    decideView sd w = if newerFrame (w.side sd).view then
        (w.modView sd fun x => { x with fresh := false, testComposed := true }, .compose)
      else if (w.side sd).view.testComposed then (w, .hold) else (w, .black) := by
  simp only [decideView, hst]
  rfl

end

theorem formOutput_pattern (sd : Side) (v : State) : formOutput sd .pattern v = (v, invalidCodes) := rfl

theorem formOutput_black (sd : Side) (v : State) : formOutput sd .black v = (v, blackCodes) := rfl

theorem formOutput_hold (sd : Side) (v : State) :
    formOutput sd .hold v = (v, (v.side sd).view.lastComposed.getD blackCodes) := rfl

theorem formOutput_compose (sd : Side) (v : State) :
    formOutput sd .compose v
      = (v.modView sd fun x => { x with lastComposed := some (composeSlot sd v) }, composeSlot sd v) := rfl

/-- Settles O38: the decision of step 2 by the view state, and the output that step 3 forms of it. -/
theorem outputStartDecides : Obligations.OutputStartDecides := by
  rintro s w sd x newer loss hrun rfl rfl hnewer hloss
  generalize hw : windowStep sd s = w at *
  have hcal : w.cal = s.cal := by rw [← hw]; simp [windowStep]
  have htable : w.table = s.table := by rw [← hw]; simp [windowStep]
  have hglare : (w.side sd).glare = (s.side sd).glare := by rw [← hw]; simp [windowStep]
  have hnew : newer → newerFrame (w.side sd).view = true := fun h => by simpa [newerFrame] using hnewer.mp h
  have hnot : ¬ newer → newerFrame (w.side sd).view = false := fun h => by
    rw [Bool.eq_false_iff]
    exact fun hn => h (hnewer.mpr (by simpa [newerFrame] using hn))
  have hyes : loss → viewLossActive w.table sd = true := fun h => htable ▸ hloss.mp h
  have hno : ¬ loss → viewLossActive w.table sd = false := fun h => by
    rw [Bool.eq_false_iff, htable]
    exact fun hn => h (hloss.mpr hn)
  have hslot : newer → ∃ f, (w.side sd).view.slot = some f := fun h => Option.isSome_iff_exists.mp (hnewer.mp h).2
  obtain ⟨u, codes, hform⟩ : ∃ u codes, formOutput sd (decideView sd w).2 (decideView sd w).1 = (u, codes) :=
    ⟨_, _, rfl⟩
  have hexec : exec (.outputFrameStart sd) s = .next (takeFrame sd codes (u.modDlt sd retryOffer)) := by
    refine next_whileRunning hrun ?_
    unfold outputStart
    rw [hw]
    dsimp only
    rw [hform]
  have hout {v u' : State} {o : Output} {c : List Byte} (hd : decideView sd w = (v, o))
      (hf : formOutput sd o v = (u', c)) : u = u' ∧ codes = c := by
    rw [hd] at hform
    exact Prod.mk.inj (hform.symm.trans hf)
  refine ⟨u, codes, hexec, fun hn h => ?_, fun hst hl => hout (decideView_loss hst (hyes hl)) (formOutput_pattern _ _),
    fun hst hl hn => ⟨fun hlt => ?_, fun hge => ?_⟩, fun held hheld hst hn => ⟨fun hlt => ?_, fun hge => ?_⟩,
    fun hst hl => hout (decideView_invalid_loss hst (hyes hl)) (formOutput_pattern _ _), fun hst hl hn => ?_,
    fun hst hn => ?_, fun hst hn => ?_⟩
  · obtain ⟨hu, hc⟩ := hout (decideView_newer (hnew hn) (h.imp_right (.imp_right (.imp_right hno))))
      (formOutput_compose _ _)
    obtain ⟨f, hf⟩ := hslot hn
    have hwin : windowOf ((takeLive sd w).side sd).view = windowOf (w.side sd).view := by
      rw [takeLive, modView_side_view]
      exact changeView_window w sd sd .live
    have hcodes := composeSlot_of_window hf hwin (by simp [takeLive]) (by simp [takeLive])
    rw [hcal, hglare] at hcodes
    rw [← hc] at hu hcodes
    exact ⟨⟨f, hf, hcodes⟩, hu.trans (modView_modView (changeView sd .live w) sd _ _)⟩
  · obtain ⟨hu, hc⟩ := hout ((decideView_starting hst (hno hl) (hnot hn)).trans (if_neg (by rw [hcal]; omega)))
      (formOutput_black _ _)
    exact ⟨hu.trans (modView_congr w sd rfl), hc⟩
  · exact (hout ((decideView_starting hst (hno hl) (hnot hn)).trans (if_pos (by rw [hcal]; exact hge)))
      (formOutput_pattern _ _)).symm
  · have hdec := (decideView_held hst (hnot hn) hheld).trans (if_neg (by rw [hcal]; omega))
    rw [changeView_modView (g := fun x => { x with heldCount := held }) _ (fun _ => rfl) fun _ => rfl,
      modView_modView] at hdec
    obtain ⟨hu, hc⟩ := hout hdec (formOutput_hold _ _)
    have hwin := changeView_window w sd sd .holding
    simp only [windowOf, Prod.mk.injEq] at hwin
    obtain ⟨-, -, -, -, -, -, hlast⟩ := hwin
    rw [modView_side_view] at hc
    exact ⟨hc.trans (congrArg (Option.getD · blackCodes) hlast), hu⟩
  · have hdec := (decideView_held hst (hnot hn) hheld).trans (if_pos (by rw [hcal]; exact hge))
    rw [enterInvalid_held, raiseStale, modView_modView] at hdec
    exact (hout hdec (formOutput_pattern _ _)).symm
  · have hdec := decideView_invalid hst (hno hl) (hnot hn)
    rw [hcal] at hdec
    by_cases hge : s.cal.integrity.startLimit ≤ (w.side sd).view.startCount + 1
    · rw [if_pos hge, raiseStale, modView_modView] at hdec
      obtain ⟨hu, hc⟩ := hout hdec (formOutput_pattern _ _)
      exact ⟨hc, fun hlt => absurd hge (by omega), fun _ => hu⟩
    · rw [if_neg hge] at hdec
      obtain ⟨hu, hc⟩ := hout hdec (formOutput_pattern _ _)
      exact ⟨hc, fun _ => hu.trans (modView_congr w sd rfl), fun h => absurd h hge⟩
  · obtain ⟨hu, hc⟩ := hout ((decideView_test hst).trans (if_pos (hnew hn))) (formOutput_compose _ _)
    obtain ⟨f, hf⟩ := hslot hn
    have hcodes := composeSlot_of_window (u := w.modView sd fun x => { x with fresh := false, testComposed := true }) hf
      (by rw [modView_side_view]; rfl) (by simp) (by simp)
    rw [hcal, hglare] at hcodes
    rw [← hc] at hu hcodes
    exact ⟨⟨f, hf, hcodes⟩, hu.trans (modView_modView w sd _ _)⟩
  · have hdec := (decideView_test hst).trans (if_neg (by simp [hnot hn]))
    by_cases hc : (w.side sd).view.testComposed = true
    · rw [if_pos hc]
      exact hout (hdec.trans (if_pos hc)) (formOutput_hold _ _)
    · rw [if_neg hc]
      exact hout (hdec.trans (if_neg hc)) (formOutput_black _ _)

end Sys2Proof.Machine


/-! PROOF. Transactions and replies, the status, the back channel, the dropped-frame report, tests, and the requests of
the view group: O11, O14, O25, O26, O27, O30, O36. -/

namespace Sys2Proof.Machine

theorem modPort_congr (s : State) (p : Port) {f g : PortState → PortState} (h : f (s.port p) = g (s.port p)) :
    s.modPort p f = s.modPort p g := by
  cases p
  · exact congrArg (fun x => { s with portV := x }) h
  · exact congrArg (fun x => { s with portC := x }) h

theorem modPort_self (s : State) (p : Port) {f : PortState → PortState} (h : f (s.port p) = s.port p) :
    s.modPort p f = s := by
  cases p
  · exact congrArg (fun x => { s with portV := x }) h
  · exact congrArg (fun x => { s with portC := x }) h

/-! ### Transactions (R160, R161, R165) -/

theorem chipSelectFall_none {s : State} {p : Port} (h : (s.port p).txn = .none) :
    chipSelectFall p s = s.modPort p (if s.phase = .resetHeld then beginCut else beginTransaction) := by
  simp only [chipSelectFall, h]

theorem replyHead_notReady (r : Option Reply) : replyHead (notReadyReply r) =
    [0, 0x21, (r.map (·.code)).getD 0, (0#4 ++ (r.map (·.tag)).getD 0 : BitVec 8)] := by
  cases r <;> simp [replyHead, notReadyReply, byte_eq, statusByte]

theorem replyBytes_notReady (r : Reply) : replyBytes (notReadyReply (some r)) =
    [0, 0x21, r.code, 0#4 ++ r.tag, crc8 [0, 0x21, r.code, 0#4 ++ r.tag]] := by
  rw [replyBytes, replyHead_notReady]
  simp only [Option.map_some, Option.getD_some, List.cons_append, List.nil_append]

theorem replyBytes_noRequest : replyBytes (notReadyReply none) = [0, 0x21, 0, 0, crc8 [0, 0x21, 0, 0]] := by
  rw [replyBytes, replyHead_notReady]
  rfl

/-- Settles O11: what the slot holds is what the transaction begins on and sends. -/
theorem transactionsAndReplies : Obligations.TransactionsAndReplies := by
  intro s p
  have hfall {t : State} (h : chipSelectFall p s = t) : exec (.chipSelectFall p) s = .next t :=
    congrArg Host.Outcome.next h
  refine ⟨fun htxn hphase => ?_, fun htxn hphase => ?_, fun htxn => ?_, fun r hr => ?_, fun h => ?_⟩
  · have hbegin : chipSelectFall p s = s.modPort p beginTransaction := by
      rw [chipSelectFall_none htxn, if_neg hphase]
    refine ⟨fun r hr => hfall (hbegin.trans (modPort_congr s p ?_)),
      fun r hr => hfall (hbegin.trans (modPort_congr s p ?_)), fun hr => hfall (hbegin.trans (modPort_congr s p ?_))⟩
    · simp only [beginTransaction, hr, replyBytes]
    · simp only [beginTransaction, hr, replyBytes_notReady]
    · simp only [beginTransaction, hr, replyBytes_noRequest]
  · refine hfall ?_
    rw [chipSelectFall_none htxn, if_pos hphase]
    rfl
  · refine hfall ?_
    unfold chipSelectFall
    split
    · contradiction
    all_goals rfl
  · exact congrArg Host.Outcome.next (modPort_congr s p (by simp only [slotReady, hr]))
  · refine congrArg Host.Outcome.next (modPort_self s p ?_)
    unfold slotReady
    split
    next r hr => exact absurd hr (h r)
    all_goals rfl

/-! ### The status (R166, R168, R169) -/

theorem anyNotice_iff (n : NoticeSet) : anyNotice n = true ↔ n ≠ noNotices := by
  obtain ⟨a, b, c, d, e⟩ := n
  revert a b c d e
  decide

theorem unacknowledged_iff (t : FaultTable) (p : Port) : unacknowledged t p = true ↔
    ∃ r ∈ t.records, (p = .v ∧ r.ackedBy.v = false)
      ∨ (p = .c ∧ severityOf r.code = .viewLoss ∧ r.ackedBy.c = false) := by
  cases p <;> simp [unacknowledged]

theorem flagByte_eq (b : Bool) : flagByte b = [if b then 1 else 0] := by
  cases b <;> rfl

theorem word16_toNat (w : BitVec 16) : word16 w.toNat = [w.extractLsb' 8 8, w.extractLsb' 0 8] := by
  simp only [word16, bytesOfNat, BitVec.extractLsb', Nat.shiftRight_eq_div_pow]
  rfl

theorem stampBytes_eq (t : Stamp) : stampBytes t =
    [t.epoch, t.ms.extractLsb' 24 8, t.ms.extractLsb' 16 8, t.ms.extractLsb' 8 8, t.ms.extractLsb' 0 8] := by
  simp only [stampBytes, bytesOfNat_four, byte_toNat, List.singleton_append]

theorem orZero_word (o : Option (BitVec 16)) : orZero 2 (o.map (·.toNat)) = word16 (o.getD 0).toNat := by
  cases o <;> rfl

theorem orZero_mode (o : Option OutputMode) :
    orZero 1 (o.map outputModeNumber) = [if o = some .m30 then 1 else 0] := by
  obtain _ | _ | _ := o <;> rfl

theorem word16_length (n : Nat) : (word16 n).length = 2 := bytesOfNat_length 2 n

/-- The part of a side as 11 section 11.4 lays it out. -/
theorem statusSide_eq (s : State) (sd : Side) : statusSide s sd =
    [BitVec.ofNat 8 (viewNumber (s.side sd).view.state), BitVec.ofNat 8 (dayNightNumber (s.side sd).expo.dayNight),
        BitVec.ofNat 8 (exposureModeNumber (s.side sd).expo.mode), BitVec.ofNat 8 (policyNumber (s.side sd).expo.policy),
        if (s.side sd).testFlag then 1 else 0, if (s.side sd).view.panLimited then 1 else 0,
        BitVec.ofNat 8 (negNumber (s.side sd).dlt.state),
        BitVec.ofNat 8 (bitsOf [(s.side sd).dlt.chosen.isSome, (s.side sd).dlt.ambient.isSome,
          (s.side sd).dlt.actual.isSome]),
        if (s.side sd).dlt.chosen = some .m30 then 1 else 0]
      ++ word16 (s.side sd).dlt.blSent ++ word16 ((s.side sd).dlt.ambient.getD 0).toNat
      ++ word16 ((s.side sd).dlt.actual.getD 0).toNat
      ++ [BitVec.ofNat 8 (s.side sd).dlt.pref, BitVec.ofNat 8 (recorderNumber (s.side sd).recorder.state),
        BitVec.ofNat 8 (s.side sd).recorder.frozen, BitVec.ofNat 8 (sideRecords s.table sd),
        BitVec.ofNat 8 (activeViewLoss s.table sd)]
      ++ word16 s.table.generation.toNat := by
  simp only [statusSide, byte_eq, flagByte_eq, orZero_word, orZero_mode, List.append_assoc, List.cons_append,
    List.nil_append]

theorem activeViewLoss_eq (t : FaultTable) (sd : Side) : activeViewLoss t sd = t.records.countP fun r =>
    decide (r.active = true ∧ severityOf r.code = .viewLoss ∧ r.side = faultSideOf sd) := by
  unfold activeViewLoss
  refine List.countP_congr fun r _ => ?_
  simp [and_assoc]

/-- Settles O14: the bytes of the status one field after another. -/
theorem statusRequests : Obligations.StatusRequests := by
  refine ⟨fun s p => ?_, ?_⟩
  · rw [attnLine, Bool.or_eq_true, unacknowledged_iff, anyNotice_iff]
  rintro s p tag gen part htxn hgen hpart
  have hgen : word16 s.table.generation.toNat = gen := (word16_toNat _).trans hgen.symm
  have hside (sd : Side) : statusSide s sd = part sd := by
    rw [hpart sd _ rfl, statusSide_eq, hgen, activeViewLoss_eq]
    rfl
  refine ⟨fun sd => ?_, ?_, ?_⟩
  · rw [← hside sd, statusSide_eq]
    simp [word16_length]
  · exact congrArg Host.Outcome.next (takeRequest_open s p .noOperation tag [] _ rfl htxn rfl)
  · refine congrArg Host.Outcome.next ((takeRequest_open s p .getStatus tag [] _ rfl htxn rfl).trans ?_)
    have hcommon : statusCommon s p = [s.time.epoch, s.time.ms.extractLsb' 24 8, s.time.ms.extractLsb' 16 8,
        s.time.ms.extractLsb' 8 8, s.time.ms.extractLsb' 0 8, if isFresh s then 1 else 0,
        BitVec.ofNat 8 s.table.records.length] ++ gen ++ [if s.store.programming.isSome then 1 else 0,
          BitVec.ofNat 8 (noticeBits (s.port p).notices), if unacknowledged s.table p then 1 else 0] := by
      simp only [statusCommon, stampBytes_eq, byte_eq, flagByte_eq, hgen, List.append_assoc,
        List.cons_append, List.nil_append]
    simp only [getStatus, hcommon, hside]

/-! ### The back channel (R15) -/

theorem modClr_congr (s : State) (sd : Side) {f g : Clr → Clr} (h : f (s.side sd).clr = g (s.side sd).clr) :
    s.modClr sd f = s.modClr sd g :=
  modSide_congr s sd _ _ (congrArg (fun c => { s.side sd with clr := c }) h)

/-- Settles O25: the transmitter by what it holds. -/
theorem backChannelTransmitter : Obligations.BackChannelTransmitter := by
  refine ⟨fun k c => ⟨fun hl => if_pos (by simp [hl]), fun hl hs => ?_, fun hl hs => ?_⟩,
    fun s sd hrun => ⟨fun hs => ?_, fun hs => ?_⟩⟩
  · exact (if_neg (by simp [hl])).trans (if_pos (by simp [hs]))
  · exact (if_neg (by simp [hl])).trans (if_neg (by simpa [Option.isSome_iff_ne_none] using hs))
  · exact next_whileRunning hrun (modClr_congr s sd (if_neg (by simpa [Option.isSome_iff_ne_none] using hs)))
  · refine next_whileRunning hrun (modSide_self s sd _ ?_)
    have hstay : transmissionDone (s.side sd).clr = (s.side sd).clr := if_pos (by simp [hs])
    rw [hstay]

/-! ### The dropped-frame report (R25) -/

theorem digestReadings_dropped (s : State) (sd : Side) (r : DroppedReport) :
    DigestReadings s s sd (droppedDigest sd r s) := by
  obtain ⟨hle, hall, hex⟩ := minGain_spec (s.side sd).glare
  exact ⟨rfl, hle, hall, hex, rfl, rfl, rfl, rfl, rfl, rfl⟩

/-- Settles O30: the digest is formed from the state, which the taking of the report leaves but for the inputs. -/
theorem droppedReportWritesDigest : Obligations.DroppedReportWritesDigest := by
  refine fun s sd hrun => ⟨fun h => next_whileRunning hrun ?_, fun r rest hnone hin =>
    ⟨droppedDigest sd r s, next_whileRunning hrun ?_, rfl, rfl, rfl, rfl, rfl, rfl, rfl, rfl, rfl, rfl, rfl, rfl,
      digestReadings_dropped s sd r⟩⟩
  · unfold runDropped
    split
    next d rest hnone hin =>
      obtain h | h := h
      · simp [hnone] at h
      · exact absurd hin (h d rest)
    · rfl
  · have hdigest : droppedDigest sd r (s.modSide sd fun x => { x with inputs := rest }) = droppedDigest sd r s := by
      cases sd <;> rfl
    simp only [runDropped, hnone, hin, completeDrop, hdigest]

/-! ### Tests (R19, R20, R78) -/

theorem notify_modSide (s : State) (p : Port) (k : NoticeKind) (sd : Side) (f : SideState → SideState) :
    (notify p k s).modSide sd f = notify p k (s.modSide sd f) := modPort_modSide s p sd _ _

theorem clearTest_set {s : State} {sd : Side} (hf : (s.side sd).testFlag = true) (ht : (s.side sd).view.state = .test) :
    clearTest sd s = notifyBoth .view (s.modSide sd fun x =>
      { x with testFlag := false, view := { x.view with state := .starting, fresh := false, startCount := 0 } }) := by
  have hstate : ¬ ((s.modSide sd fun x => { x with testFlag := false }).side sd).view.state = .starting := by
    rw [modSide_side]
    simp [ht]
  unfold clearTest leaveTest changeView
  rw [if_pos hf, if_neg hstate]
  unfold notifyBoth State.modView
  rw [notify_modSide, notify_modSide, modSide_modSide, modSide_modSide]

/-- Settles O26: the synthetic frame by the last header, and the end of a test from TEST. -/
theorem testFramesAndTestEnd : Obligations.TestFramesAndTestEnd := by
  refine ⟨fun s sd hrun => ⟨fun hf => ⟨syntheticFrame ((s.side sd).testNumber + 1) (patternOf s.cal s.activePattern.val)
    (s.side sd).clr.lastHeader, rfl, rfl, rfl, rfl, fun t g h => ?_, fun h => ?_, next_whileRunning hrun ?_⟩,
    fun hf => next_whileRunning hrun (if_neg (by simp [hf]))⟩,
    fun s sd hs => ⟨fun hf => ?_, fun hf => if_neg (by simp [hf])⟩⟩
  · simp [syntheticFrame, h]
  · simp [syntheticFrame, h]
  · unfold testFrameEnd
    rw [if_pos hf]
    exact modSide_congr s sd _ _ rfl
  · rw [TestSound, hf] at hs
    exact clearTest_set hf (by simpa using hs)

/-- A valid side set, and a fold over the sides that it names: the left one first. -/
theorem sidesOfParam_fold (sides : Byte) (h1 : 1 ≤ sides.toNat) (h3 : sides.toNat ≤ 3) :
    ∃ l, sidesOfParam sides.toNat = some l ∧ ∀ (f : State → Side → State) (s : State),
      l.foldl f s = (fun u => if sides.getLsbD 1 then f u .right else u) (if sides.getLsbD 0 then f s .left else s) := by
  have hs : sides = 1 ∨ sides = 2 ∨ sides = 3 := by bv_omega
  obtain rfl | rfl | rfl := hs
  · exact ⟨[.left], rfl, fun _ _ => rfl⟩
  · exact ⟨[.right], rfl, fun _ _ => rfl⟩
  · exact ⟨[.left, .right], rfl, fun _ _ => rfl⟩

end Sys2Proof.Machine


/-! PROOF. TEST_IMAGE and the requests of the view group (R20, R41, R73, R78, R99): O27, O36. -/

namespace Sys2Proof.Machine

/-! ### The start of tests (R20 step 4) -/

theorem setTest_other (s : State) (sd : Side) : (setTest sd s).side (otherSide sd) = s.side (otherSide sd) := by
  unfold setTest enterTest
  split
  · rfl
  · unfold changeView State.modView
    split
    · rw [modSide_side_other, modSide_side_other]
    · rw [modSide_side_other]
      unfold notifyBoth notify
      simp

/-- A side in no test enters it (R78). -/
theorem setTest_clear {s : State} {sd : Side} (hf : (s.side sd).testFlag = false) :
    (setTest sd s).side sd = { s.side sd with
      testFlag := true, testNumber := 0
      view := { (s.side sd).view with state := .test, fresh := false, heldCount := 0, startCount := 0
                                      testComposed := false } } := by
  unfold setTest enterTest
  rw [if_neg (by simp [hf])]
  unfold changeView State.modView
  split
  next h =>
    rw [modSide_side] at h
    have h : (s.side sd).view.state = .test := h
    simp [h]
  · unfold notifyBoth notify
    simp

theorem setTest_set {s : State} {sd : Side} (hf : (s.side sd).testFlag = true) : setTest sd s = s := if_pos hf

/-- The VIEW notice of both masters is set where the view state changes. -/
theorem setTest_port (s : State) (sd : Side) (q : Port) : (setTest sd s).port q =
    if (s.side sd).testFlag = false ∧ (s.side sd).view.state ≠ .test then
      { s.port q with notices := { (s.port q).notices with view := true } }
    else s.port q := by
  unfold setTest enterTest
  split
  next hf => rw [if_neg (by simp [hf])]
  next hf =>
    unfold changeView
    split
    next h =>
      rw [modSide_side] at h
      have h : (s.side sd).view.state = .test := h
      rw [if_neg (by simp [h]), modView_port, modSide_port]
    next h =>
      rw [modSide_side] at h
      have h : (s.side sd).view.state ≠ .test := h
      rw [if_pos ⟨by simpa using hf, h⟩]
      cases q <;> cases sd <;> rfl

/-- A side named by a flag enters TEST; one not named is left. -/
def startNamed (named : Bool) (sd : Side) (s : State) : State := if named then setTest sd s else s

section
variable {b : Bool} {sd : Side} {s : State}

theorem startNamed_side (hb : b = true) (hf : (s.side sd).testFlag = false) :
    (startNamed b sd s).side sd = { s.side sd with
      testFlag := true, testNumber := 0
      view := { (s.side sd).view with state := .test, fresh := false, heldCount := 0, startCount := 0
                                      testComposed := false } } := by
  subst hb
  exact setTest_clear hf

theorem startNamed_left (h : b = false ∨ (s.side sd).testFlag = true) : startNamed b sd s = s := by
  obtain rfl | hf := h
  · rfl
  · cases b
    · rfl
    · exact setTest_set hf

theorem startNamed_other : (startNamed b sd s).side (otherSide sd) = s.side (otherSide sd) := by
  cases b
  · rfl
  · exact setTest_other s sd

theorem startNamed_port (q : Port) : (startNamed b sd s).port q =
    if b = true ∧ (s.side sd).testFlag = false ∧ (s.side sd).view.state ≠ .test then
      { s.port q with notices := { (s.port q).notices with view := true } }
    else s.port q := by
  cases b
  · rfl
  · simpa [startNamed] using setTest_port s sd q

/-- What the start of a test leaves of the part. -/
theorem startNamed_rest : (startNamed b sd s).table = s.table ∧ (startNamed b sd s).vehicle = s.vehicle
    ∧ (startNamed b sd s).store = s.store ∧ (startNamed b sd s).time = s.time ∧ (startNamed b sd s).phase = s.phase
    ∧ (startNamed b sd s).supplyOk = s.supplyOk ∧ (startNamed b sd s).eventIn = s.eventIn
    ∧ (startNamed b sd s).pending = s.pending ∧ (startNamed b sd s).freeIndex = s.freeIndex
    ∧ (startNamed b sd s).pauses = s.pauses ∧ (startNamed b sd s).activePattern = s.activePattern := by
  cases b <;> simp [startNamed]

end

/-- Tests started on the named sides: each side by its own flag, whichever comes first. -/
theorem startBoth_side (named : Side → Bool) (s : State) (sd : Side) :
    (startNamed (named .right) .right (startNamed (named .left) .left s)).side sd
      = (startNamed (named sd) sd s).side sd := by
  cases sd
  · exact startNamed_other (sd := .right)
  · have hleft : (startNamed (named .left) .left s).side .right = s.side .right := startNamed_other (sd := .left)
    by_cases h : named .right = false ∨ (s.side .right).testFlag = true
    · rw [startNamed_left h, startNamed_left (hleft ▸ h), hleft]
    · have hb : named .right = true := by simpa using fun hb => h (.inl hb)
      have hf : (s.side .right).testFlag = false := by simpa using fun hf => h (.inr hf)
      rw [startNamed_side hb hf, startNamed_side hb (hleft ▸ hf), hleft]

/-- Whether a named side enters TEST from another view state. -/
def EntersTest (named : Side → Bool) (s : State) (sd : Side) : Prop :=
  named sd = true ∧ (s.side sd).testFlag = false ∧ (s.side sd).view.state ≠ .test

theorem startNamed_port_enters {named : Side → Bool} {s : State} {sd : Side} (h : EntersTest named s sd) (q : Port) :
    (startNamed (named sd) sd s).port q = { s.port q with notices := { (s.port q).notices with view := true } } :=
  (startNamed_port q).trans (if_pos h)

theorem startNamed_port_stays {named : Side → Bool} {s : State} {sd : Side} (h : ¬ EntersTest named s sd) (q : Port) :
    (startNamed (named sd) sd s).port q = s.port q := (startNamed_port q).trans (if_neg h)

theorem startBoth_port (named : Side → Bool) (s : State) (q : Port) :
    ((∃ sd, EntersTest named s sd) →
        (startNamed (named .right) .right (startNamed (named .left) .left s)).port q
          = { s.port q with notices := { (s.port q).notices with view := true } })
      ∧ ((∀ sd, ¬ EntersTest named s sd) →
        (startNamed (named .right) .right (startNamed (named .left) .left s)).port q = s.port q) := by
  have hright : EntersTest named (startNamed (named .left) .left s) .right ↔ EntersTest named s .right := by
    unfold EntersTest
    rw [show (startNamed (named .left) .left s).side .right = s.side .right from startNamed_other (sd := .left)]
  refine ⟨fun h => ?_, fun h => ?_⟩
  · by_cases hr : EntersTest named s .right
    · rw [startNamed_port_enters (hright.mpr hr)]
      by_cases hl : EntersTest named s .left
      · rw [startNamed_port_enters hl]
      · rw [startNamed_port_stays hl]
    · have hl : EntersTest named s .left := by
        obtain ⟨_ | _, h⟩ := h
        · exact h
        · exact absurd h hr
      rw [startNamed_port_stays (mt hright.mp hr), startNamed_port_enters hl]
  · rw [startNamed_port_stays (mt hright.mp (h .right)), startNamed_port_stays (h .left)]

/-! ### TEST_IMAGE (R20) -/

theorem atRest_iff (s : State) : atRest s = true ↔ presentedSpeed s = some 0 := by simp [atRest]

theorem testImage_refusedParam {s : State} {on sides pat : Byte}
    (h : 1 < on.toNat ∨ sides.toNat = 0 ∨ 3 < sides.toNat ∨ (on = 1 ∧ 3 < pat.toNat)) :
    testImage [on, sides, pat] s = (s, plain .refusedParam) := by
  unfold testImage
  split
  next hon hsides =>
    obtain h | h | h | ⟨rfl, -⟩ := h
    · rw [show param [on, sides, pat] 0 = on.toNat from rfl, flagOfParam_eq_none h] at hon
      cases hon
    · rw [show param [on, sides, pat] 1 = sides.toNat from rfl, sidesOfParam_eq_none (.inl h)] at hsides
      cases hsides
    · rw [show param [on, sides, pat] 1 = sides.toNat from rfl, sidesOfParam_eq_none (.inr h)] at hsides
      cases hsides
    · cases hon
  next hon hsides =>
    obtain h | h | h | ⟨-, h⟩ := h
    · rw [show param [on, sides, pat] 0 = on.toNat from rfl, flagOfParam_eq_none h] at hon
      cases hon
    · rw [show param [on, sides, pat] 1 = sides.toNat from rfl, sidesOfParam_eq_none (.inl h)] at hsides
      cases hsides
    · rw [show param [on, sides, pat] 1 = sides.toNat from rfl, sidesOfParam_eq_none (.inr h)] at hsides
      cases hsides
    · have hpat : patternOfParam (param [on, sides, pat] 2) = none :=
        dif_neg (show ¬ pat.toNat < 4 by omega)
      rw [hpat]
  · rfl

/-- Settles O27: TEST_IMAGE by its parameters; each named side enters TEST or is left by its own flag. -/
theorem testImageRequest : Obligations.TestImageRequest := by
  intro s p tag on sides pat hreach
  have hexec {a : State × Answer} (h : testImage [on, sides, pat] s = a) :
      exec (.testImage p tag [on, sides, pat]) s
        = .next (answered p .testImage tag a.2.status a.2.payload a.1) := by
    subst h
    exact congrArg Host.Outcome.next (takeRequest_reaches s p .testImage tag _ _ hreach rfl)
  refine ⟨fun h => hexec (testImage_refusedParam h), fun _ h1 h3 => ?_⟩
  obtain ⟨l, hl, hfold⟩ := sidesOfParam_fold sides h1 h3
  have hparam : sidesOfParam (param [on, sides, pat] 1) = some l := hl
  refine ⟨?_, ?_, ?_⟩
  · rintro rfl hpat hspeed
    have hrest : atRest s = false := by rw [Bool.eq_false_iff]; exact fun h => hspeed ((atRest_iff s).mp h)
    have hn : patternOfParam (param [1, sides, pat] 2) = some ⟨pat.toNat, by omega⟩ := dif_pos (Nat.lt_succ_of_le hpat)
    have hon : flagOfParam (param [1, sides, pat] 0) = some true := rfl
    refine hexec (a := (s, plain .refusedState)) ?_
    simp only [testImage, hon, hparam, hn, hrest]
    rfl
  · rintro rfl hpat hspeed
    have hn : patternOfParam (param [1, sides, pat] 2) = some ⟨pat.toNat, hpat⟩ := dif_pos hpat
    have hon : flagOfParam (param [1, sides, pat] 0) = some true := rfl
    have hstart : startTests l ⟨pat.toNat, hpat⟩ s = startNamed (sides.getLsbD (sideNumber .right)) .right
        (startNamed (sides.getLsbD (sideNumber .left)) .left { s with activePattern := ⟨pat.toNat, hpat⟩ }) :=
      hfold (fun s sd => setTest sd s) _
    have hside (sd : Side) : ({ s with activePattern := ⟨pat.toNat, hpat⟩ } : State).side sd = s.side sd := by
      cases sd <;> rfl
    have hport (q : Port) : ({ s with activePattern := ⟨pat.toNat, hpat⟩ } : State).port q = s.port q := by
      cases q <;> rfl
    have hsideT := startBoth_side (fun sd => sides.getLsbD (sideNumber sd)) { s with activePattern := ⟨pat.toNat, hpat⟩ }
    have hportT := startBoth_port (fun sd => sides.getLsbD (sideNumber sd)) { s with activePattern := ⟨pat.toNat, hpat⟩ }
    have hr := startNamed_rest (b := sides.getLsbD (sideNumber .right)) (sd := .right)
      (s := startNamed (sides.getLsbD (sideNumber .left)) .left { s with activePattern := ⟨pat.toNat, hpat⟩ })
    have hl := startNamed_rest (b := sides.getLsbD (sideNumber .left)) (sd := .left)
      (s := { s with activePattern := ⟨pat.toNat, hpat⟩ })
    rw [← hstart] at hsideT hportT hr
    simp only [EntersTest, hside, hport] at hportT
    obtain ⟨rtable, rvehicle, rstore, rtime, rphase, rok, rin, rpending, rfree, rpauses, rpattern⟩ := hr
    obtain ⟨ltable, lvehicle, lstore, ltime, lphase, lok, lin, lpending, lfree, lpauses, lpattern⟩ := hl
    have hnamed (sd : Side) (hb : sides.getLsbD (sideNumber sd) = true) (hf : (s.side sd).testFlag = false) :
        (startTests l ⟨pat.toNat, hpat⟩ s).side sd = { s.side sd with
          testFlag := true, testNumber := 0
          view := { (s.side sd).view with state := .test, fresh := false, heldCount := 0, startCount := 0
                                          testComposed := false } } := by
      rw [hsideT, startNamed_side hb ((hside sd).symm ▸ hf), hside]
    refine ⟨startTests l ⟨pat.toNat, hpat⟩ s, hexec (a := (startTests l ⟨pat.toNat, hpat⟩ s, plain .ok)) ?_,
      rpattern.trans lpattern, fun sd hb hf => ⟨hnamed sd hb hf, by simp [validLine, hnamed sd hb hf]⟩,
      fun h q => (hportT q).1 h, fun h q => (hportT q).2 fun sd hn => ?_, fun sd h => ?_,
      rtable.trans ltable, rvehicle.trans lvehicle, rstore.trans lstore, rtime.trans ltime, rphase.trans lphase,
      rok.trans lok, rin.trans lin, rpending.trans lpending, rfree.trans lfree, rpauses.trans lpauses⟩
    · simp only [testImage, hon, hparam, hn, (atRest_iff s).mpr hspeed]
      rfl
    · obtain ⟨hb, hf, hst⟩ := hn
      obtain h | h := h sd hb
      · simp [hf] at h
      · exact hst h
    · rw [hsideT, startNamed_left ((hside sd).symm ▸ h), hside]
  · rintro rfl
    have hoff : flagOfParam (param [0, sides, pat] 0) = some false := rfl
    refine (hexec (a := (stopTests l s, plain .ok)) ?_).trans ?_
    · simp only [testImage, hoff, hparam]
    · exact congrArg (fun u => Host.Outcome.next (answered p .testImage tag .ok [] u))
        (hfold (fun s sd => clearTest sd s) s)

/-! ### SET_VIEW_OFFSET, SET_NIGHT_POLICY and SET_BRIGHTNESS (R41, R73, R99) -/

section
variable (b0 b1 : Bool) (s : State)

theorem modView_named (f : Composer → Composer) :
    (fun u => if b1 then State.modView u .right f else u) (if b0 then s.modView .left f else s)
      = { s with left := if b0 then { s.left with view := f s.left.view } else s.left
                 right := if b1 then { s.right with view := f s.right.view } else s.right } := by
  cases b0 <;> cases b1 <;> rfl

theorem modExpo_named (f : Exposure → Exposure) :
    (fun u => if b1 then State.modExpo u .right f else u) (if b0 then s.modExpo .left f else s)
      = { s with left := if b0 then { s.left with expo := f s.left.expo } else s.left
                 right := if b1 then { s.right with expo := f s.right.expo } else s.right } := by
  cases b0 <;> cases b1 <;> rfl

theorem modDlt_named (f : Dlt → Dlt) :
    (fun u => if b1 then State.modDlt u .right f else u) (if b0 then s.modDlt .left f else s)
      = { s with left := if b0 then { s.left with dlt := f s.left.dlt } else s.left
                 right := if b1 then { s.right with dlt := f s.right.dlt } else s.right } := by
  cases b0 <;> cases b1 <;> rfl

end

theorem policyOfParam_eq_none {v : Nat} (h : 2 < v) : policyOfParam v = none := by
  unfold policyOfParam
  split
  case h_4 => rfl
  all_goals omega

theorem field_pair (ps : List Byte) (o : Nat) (a b : Byte) (ha : ps.getD o 0 = a) (hb : ps.getD (o + 1) 0 = b) :
    field ps o 2 = (a ++ b).toNat := by
  rw [← natOfBytes_pair, ← ha, ← hb]
  rfl

/-- The status of a request whose values are as sent, or clamped. -/
theorem okIf_sent {P : Prop} [Decidable P] {Q : Prop} [Decidable Q] (h : P ↔ ¬ Q) :
    okIf (decide P) = if Q then .ok else .okClamped := by
  by_cases hq : Q
  · simp [okIf, h, hq]
  · simp [okIf, h, hq]

/-- Settles O36: the clamps, and the change of each side that the request names. -/
theorem viewGroupRequests : Obligations.ViewGroupRequests := by
  intro s p tag sides a b c d
  have hnone {v : List Byte} (h : sides.toNat = 0 ∨ 3 < sides.toNat) : sidesOfParam (param (sides :: v) 0) = none :=
    sidesOfParam_eq_none h
  have hoffset (hr : Reaches s p .setViewOffset) {x : State × Answer} (h : setViewOffset [sides, a, b, c, d] s = x) :
      exec (.setViewOffset p tag [sides, a, b, c, d]) s
        = .next (answered p .setViewOffset tag x.2.status x.2.payload x.1) := by
    subst h
    exact congrArg Host.Outcome.next (takeRequest_reaches s p .setViewOffset tag _ _ hr rfl)
  have hpolicy (hr : Reaches s p .setNightPolicy) {x : State × Answer} (h : setNightPolicy [sides, a] s = x) :
      exec (.setNightPolicy p tag [sides, a]) s
        = .next (answered p .setNightPolicy tag x.2.status x.2.payload x.1) := by
    subst h
    exact congrArg Host.Outcome.next (takeRequest_reaches s p .setNightPolicy tag _ _ hr rfl)
  have hbright (hr : Reaches s p .setBrightness) {x : State × Answer} (h : setBrightness [sides, a] s = x) :
      exec (.setBrightness p tag [sides, a]) s
        = .next (answered p .setBrightness tag x.2.status x.2.payload x.1) := by
    subst h
    exact congrArg Host.Outcome.next (takeRequest_reaches s p .setBrightness tag _ _ hr rfl)
  refine ⟨fun hr h => ?_, fun hr h => ?_, fun hr h => ?_, fun h1 h3 => ?_⟩
  · refine hoffset hr (x := (s, plain .refusedParam)) ?_
    simp only [setViewOffset, hnone h]
  · refine hpolicy hr (x := (s, plain .refusedParam)) ?_
    obtain h | h | h := h
    · simp only [setNightPolicy, hnone (.inl h)]
    · simp only [setNightPolicy, hnone (.inr h)]
    · have hn : policyOfParam (param [sides, a] 1) = none := policyOfParam_eq_none h
      cases hs : sidesOfParam (param [sides, a] 0) <;> simp only [setNightPolicy, hs, hn]
  · refine hbright hr (x := (s, plain .refusedParam)) ?_
    simp only [setBrightness, hnone h]
  obtain ⟨l, hl, hfold⟩ := sidesOfParam_fold sides h1 h3
  have hparam (v : List Byte) : sidesOfParam (param (sides :: v) 0) = some l := hl
  refine ⟨fun hr => ⟨max (-960) (min (a ++ b).toInt 960), max (-720) (min (c ++ d).toInt 720),
    fun x => { x with driverDx := max (-960) (min (a ++ b).toInt 960), driverDy := max (-720) (min (c ++ d).toInt 720) },
    rfl, rfl, fun _ => rfl, ?_⟩, fun v hv hr => ⟨fun x => { x with policy := v, nightRun := 0, dayRun := 0 },
    fun _ => rfl, ?_⟩, fun hr => ⟨max 10 (min a.toNat 100), fun x => { x with pref := max 10 (min a.toNat 100) }, rfl,
    fun _ => rfl, ?_⟩⟩
  · refine (hoffset hr rfl).trans ?_
    have hx : signedOf16 (field [sides, a, b, c, d] 1 2) = (a ++ b).toInt := by
      rw [field_pair _ _ a b rfl rfl, signedOf16_toNat]
    have hy : signedOf16 (field [sides, a, b, c, d] 3 2) = (c ++ d).toInt := by
      rw [field_pair _ _ c d rfl rfl, signedOf16_toNat]
    simp only [setViewOffset, hparam, hx, hy, clampInt_eq _ (-960) 960 (by decide),
      clampInt_eq _ (-720) 720 (by decide)]
    rw [okIf_sent (Q := max (-960) (min (a ++ b).toInt 960) = (a ++ b).toInt
      ∧ max (-720) (min (c ++ d).toInt 720) = (c ++ d).toInt) (by tauto)]
    exact congrArg (fun u => Host.Outcome.next (answered p .setViewOffset tag _ [] u))
      ((hfold (fun s sd => s.modView sd _) s).trans (modView_named _ _ s _))
  · have hv : policyOfParam (param [sides, a] 1) = some v := by
      obtain ⟨rfl, rfl⟩ | ⟨rfl, rfl⟩ | ⟨rfl, rfl⟩ := hv <;> rfl
    refine (hpolicy hr rfl).trans ?_
    simp only [setNightPolicy, hparam, hv]
    exact congrArg (fun u => Host.Outcome.next (answered p .setNightPolicy tag _ [] u))
      ((hfold (fun s sd => s.modExpo sd _) s).trans (modExpo_named _ _ s _))
  · have hsent : param [sides, a] 1 = a.toNat := rfl
    refine (hbright hr rfl).trans ?_
    simp only [setBrightness, hparam, hsent, clampNat_eq _ 10 100 (by decide)]
    rw [okIf_sent (Q := max 10 (min a.toNat 100) = a.toNat) Iff.rfl]
    exact congrArg (fun u => Host.Outcome.next (answered p .setBrightness tag _ [] u))
      ((hfold (fun s sd => s.modDlt sd _) s).trans (modDlt_named _ _ s _))

end Sys2Proof.Machine


/-! PROOF. The fault table (R112 to R124): reports, reading and acknowledgement: O43, O45, O46. -/

namespace Sys2Proof.Machine

/-! ### A list with one member of a kind -/

section OneMember
variable {α : Type} {p : α → Bool} {l : List α} {i : Nat} {r : α}

/-- At most one member of a list is of a kind. -/
def AtMostOne (p : α → Bool) (l : List α) : Prop := l.Pairwise fun x y => p x = true → p y = false

/-- Two ways to stand in a list with one member of a kind: at its front, or past another member. -/
theorem atMostOne_cons {x : α} : AtMostOne p (x :: l) ↔ (∀ y ∈ l, p x = true → p y = false) ∧ AtMostOne p l :=
  List.pairwise_cons

theorem not_of_later {x : α} (h : AtMostOne p (x :: l)) (hi : l[i]? = some r) (hr : p r = true) : p x = false := by
  by_contra hx
  have := (atMostOne_cons.1 h).1 r (List.mem_of_getElem? hi) (by simpa using hx)
  simp [hr] at this

theorem map_where_none (f : α → α) (h : ∀ y ∈ l, p y = false) : (l.map fun x => if p x then f x else x) = l := by
  induction l with
  | nil => rfl
  | cons x xs ih =>
    rw [List.map_cons, ih fun y hy => h y (List.mem_cons_of_mem _ hy), h x (List.mem_cons_self ..)]
    simp

theorem map_where_one (f : α → α) (h : AtMostOne p l) (hi : l[i]? = some r) (hr : p r = true) :
    (l.map fun x => if p x then f x else x) = l.set i (f r) := by
  induction l generalizing i with
  | nil => simp at hi
  | cons x xs ih =>
    cases i with
    | zero =>
      obtain rfl : x = r := by simpa using hi
      rw [List.map_cons, if_pos hr, map_where_none f fun y hy => (atMostOne_cons.1 h).1 y hy hr]
      rfl
    | succ i =>
      have hi : xs[i]? = some r := by simpa using hi
      rw [List.map_cons, not_of_later h hi hr, ih (atMostOne_cons.1 h).2 hi]
      simp

theorem find_where_one (h : AtMostOne p l) (hi : l[i]? = some r) (hr : p r = true) : l.find? p = some r := by
  induction l generalizing i with
  | nil => simp at hi
  | cons x xs ih =>
    cases i with
    | zero =>
      obtain rfl : x = r := by simpa using hi
      exact List.find?_cons_of_pos hr
    | succ i =>
      have hi : xs[i]? = some r := by simpa using hi
      rw [List.find?_cons_of_neg (by simp [not_of_later h hi hr]), ih (atMostOne_cons.1 h).2 hi]

theorem findIdx_where_one (h : AtMostOne p l) (hi : l[i]? = some r) (hr : p r = true) : l.findIdx p = i := by
  induction l generalizing i with
  | nil => simp at hi
  | cons x xs ih =>
    cases i with
    | zero =>
      obtain rfl : x = r := by simpa using hi
      simp [List.findIdx_cons, hr]
    | succ i =>
      have hi : xs[i]? = some r := by simpa using hi
      simp [List.findIdx_cons, not_of_later h hi hr, ih (atMostOne_cons.1 h).2 hi]

theorem filter_where_one (q : α → Bool) (h : AtMostOne p l) (hi : l[i]? = some r) (hr : p r = true) :
    (l.filter fun x => !(p x && q x)) = if q r then l.eraseIdx i else l := by
  induction l generalizing i with
  | nil => simp at hi
  | cons x xs ih =>
    cases i with
    | zero =>
      obtain rfl : x = r := by simpa using hi
      have hx : (xs.filter fun y => !(p y && q y)) = xs :=
        List.filter_eq_self.2 fun y hy => by simp [(atMostOne_cons.1 h).1 y hy hr]
      cases hq : q x
      · rw [List.filter_cons_of_pos (by simp [hq]), hx]; rfl
      · rw [List.filter_cons_of_neg (by simp [hr, hq]), hx]; rfl
    | succ i =>
      have hi : xs[i]? = some r := by simpa using hi
      rw [List.filter_cons_of_pos (by simp [not_of_later h hi hr]), ih (atMostOne_cons.1 h).2 hi]
      split <;> rfl

theorem any_where_one (q : α → Bool) (h : AtMostOne p l) (hi : l[i]? = some r) (hr : p r = true) :
    (l.any fun x => p x && q x) = q r := by
  induction l generalizing i with
  | nil => simp at hi
  | cons x xs ih =>
    cases i with
    | zero =>
      obtain rfl : x = r := by simpa using hi
      have hx : (xs.any fun y => p y && q y) = false :=
        List.any_eq_false.2 fun y hy => by simp [(atMostOne_cons.1 h).1 y hy hr]
      simp [hr, hx]
    | succ i =>
      have hi : xs[i]? = some r := by simpa using hi
      simp [not_of_later h hi hr, ih (atMostOne_cons.1 h).2 hi]

end OneMember

/-! ### The record of a key -/

section OneRecord
variable {t : FaultTable} {c : FaultCode} {sd : FaultSide} {i : Nat} {r : FaultRecord}

theorem keyOf_eq_iff : keyOf r = (c, sd) ↔ hasKey c sd r = true := by
  rw [hasKey_iff]
  simp [keyOf]

/-- R113: a table without two records of one key. -/
theorem atMostOne_of_nodup (h : (t.records.map keyOf).Nodup) : AtMostOne (hasKey c sd) t.records := by
  rw [List.nodup_iff_pairwise_ne, List.pairwise_map] at h
  refine h.imp fun {x y} hne hx => ?_
  by_contra hy
  exact hne ((keyOf_eq_iff.2 hx).trans (keyOf_eq_iff.2 (by simpa using hy)).symm)

theorem findRecord_eq_none (h : ∀ x ∈ t.records, keyOf x ≠ (c, sd)) : findRecord t c sd = none :=
  List.find?_eq_none.2 fun x hx hk => h x hx (keyOf_eq_iff.2 hk)

variable (hn : (t.records.map keyOf).Nodup) (hi : t.records[i]? = some r) (hk : keyOf r = (c, sd))
include hn hi hk

theorem findRecord_at : findRecord t c sd = some r :=
  find_where_one (atMostOne_of_nodup hn) hi (keyOf_eq_iff.1 hk)

theorem positionOf_at : positionOf t c sd = i :=
  findIdx_where_one (atMostOne_of_nodup hn) hi (keyOf_eq_iff.1 hk)

theorem changeRecord_at (f : FaultRecord → FaultRecord) :
    changeRecord t c sd f = { records := t.records.set i (f r), generation := t.generation + 1 } :=
  congrArg (FaultTable.mk · (t.generation + 1))
    (map_where_one f (atMostOne_of_nodup hn) hi (keyOf_eq_iff.1 hk))

theorem removalTest_at : removalTest t c sd =
    if complete r then { records := t.records.eraseIdx i, generation := t.generation + 1 } else t := by
  have ho := atMostOne_of_nodup (c := c) (sd := sd) hn
  have hr := keyOf_eq_iff.1 hk
  unfold removalTest
  rw [any_where_one complete ho hi hr, filter_where_one complete ho hi hr]
  split <;> rfl

/-- A change of a record that keeps its key, and the removal test after it (R117). -/
theorem removalTest_changeRecord_at (f : FaultRecord → FaultRecord) (hf : ∀ x, keyOf (f x) = keyOf x) :
    removalTest (changeRecord t c sd f) c sd =
      if complete (f r) then { records := t.records.eraseIdx i, generation := t.generation + 2 }
      else { records := t.records.set i (f r), generation := t.generation + 1 } := by
  have hlt : i < t.records.length := (List.getElem?_eq_some_iff.1 hi).1
  have hn' := hn
  rw [← changeRecord_keys t c sd f hf, changeRecord_at hn hi hk f] at hn'
  rw [changeRecord_at hn hi hk f,
    removalTest_at (i := i) (r := f r) hn' (by simp [hlt]) ((hf r).trans hk)]
  split
  · simp [List.eraseIdx_set_eq, BitVec.add_assoc]
  · rfl

end OneRecord

/-! ### Reports (R114 to R116) -/

theorem complete_iff (r : FaultRecord) : complete r = true ↔ r.active = false ∧ r.ackedBy.v = true
    ∧ (r.ackedBy.c = true ∨ severityOf r.code ≠ .viewLoss) := by
  simp only [complete, fullyMarked, audienceOf]
  cases r.active <;> cases r.ackedBy.v <;> cases r.ackedBy.c <;> simp

/-- Settles O43: on a key without a record the report creates one or changes nothing; on the record of a key each
report is the change of that record in its place, or its removal. -/
theorem reportsOnTheTable : Obligations.ReportsOnTheTable := by
  intro t c sd d now hn
  refine ⟨fun hnone => ?_, fun i r hi hk => ?_⟩
  · have hf := findRecord_eq_none hnone
    exact ⟨by simp [tableRaise, hf, appendRecord, newRecord], by simp [tableClear, hf],
      by simp [tableEvent, hf, appendRecord, newRecord]⟩
  · have hf := findRecord_at hn hi hk
    obtain rfl : r.code = c := congrArg Prod.fst hk
    have hclear (ha : r.active = true) : tableClear t r.code sd now =
        if complete { r with active := false, lastClear := some now } then
          { records := t.records.eraseIdx i, generation := t.generation + 2 }
        else { records := t.records.set i { r with active := false, lastClear := some now }
               generation := t.generation + 1 } := by
      rw [← removalTest_changeRecord_at hn hi hk (fun r => { r with active := false, lastClear := some now })
        fun _ => rfl]
      simp [tableClear, hf, ha]
    refine ⟨fun ha => by simp [tableRaise, hf, ha], fun ha => ?_, fun ha => by simp [tableClear, hf, ha],
      fun ha hm => ?_, fun ha hv hc => ?_, ?_⟩
    · simp only [tableRaise, hf, ha]
      exact changeRecord_at hn hi hk _
    · rw [hclear ha, if_neg]
      rw [complete_iff]
      rintro ⟨-, hv, hc⟩
      rcases hm with hm | ⟨hm, hs⟩
      · exact Bool.false_ne_true (hm.symm.trans hv)
      · exact hc.elim (fun h => Bool.false_ne_true (hm.symm.trans h)) fun h => h hs
    · rw [hclear ha]
      exact if_pos ((complete_iff { r with active := false, lastClear := some now }).2 ⟨rfl, hv, hc⟩)
    · simp only [tableEvent, hf]
      exact changeRecord_at hn hi hk _

/-! ### The key that two parameter bytes name (R121 steps 1 and 2) -/

theorem faultCodeOfParam_number (c : FaultCode) : faultCodeOfParam (faultCodeNumber c) = some c := by
  cases c <;> rfl

theorem faultSideOfParam_number (sd : FaultSide) : faultSideOfParam (faultSideNumber sd) = some sd := by
  cases sd <;> rfl

theorem faultCodeOfParam_common : ∀ n < 14, (faultCodeOfParam n).map isCommon = some (decide (10 ≤ n)) := by decide

theorem keyOfParams_some {code side : Byte} {c : FaultCode} {sd : FaultSide} (hc : code.toNat = faultCodeNumber c)
    (hs : side.toNat = faultSideNumber sd) (ha : sideAllowed c sd = true) : keyOfParams [code, side] = some (c, sd) := by
  have h0 : param [code, side] 0 = faultCodeNumber c := hc
  have h1 : param [code, side] 1 = faultSideNumber sd := hs
  simp [keyOfParams, h0, h1, faultCodeOfParam_number, faultSideOfParam_number, ha]

/-- A code outside the fourteen, a side outside the three, or a side that the class of the code does not allow. -/
theorem keyOfParams_none {code side : Byte}
    (h : 13 < code.toNat ∨ 2 < side.toNat ∨ (code.toNat < 10 ∧ side.toNat = 2) ∨ (10 ≤ code.toNat ∧ side.toNat < 2)) :
    keyOfParams [code, side] = none := by
  have h0 : param [code, side] 0 = code.toNat := rfl
  have h1 : param [code, side] 1 = side.toNat := rfl
  unfold keyOfParams
  rw [h0, h1]
  rcases Nat.lt_or_ge 13 code.toNat with hbig | hsmall
  · have hc : faultCodeOfParam code.toNat = none := List.getElem?_eq_none (show faultCodes.length ≤ code.toNat from hbig)
    rw [hc]
  · obtain ⟨c, hc, hcommon⟩ := Option.map_eq_some_iff.1 (faultCodeOfParam_common code.toNat (by omega))
    rw [hc]
    match hs : side.toNat with
    | 0 => simp [faultSideOfParam, sideAllowed, hcommon]; omega
    | 1 => simp [faultSideOfParam, sideAllowed, hcommon]; omega
    | 2 => simp [faultSideOfParam, sideAllowed, hcommon]; omega
    | n + 3 => rfl

/-! ### Reading (R120, R121) -/

theorem tableBytes_eq (t : FaultTable) : tableBytes t =
    [BitVec.ofNat 8 t.records.length, t.generation.extractLsb' 8 8, t.generation.extractLsb' 0 8] := by
  simp [tableBytes, byte_eq, word16_toNat]

theorem audienceByte (c : FaultCode) :
    byte (masterBits (audienceOf c)) = [if severityOf c = .viewLoss then 3 else 1] := by
  by_cases h : severityOf c = .viewLoss <;> simp [byte_eq, masterBits, bitsOf, audienceOf, h]

/-- The bytes of a record before its stamps. -/
theorem recordBytes_eq (removed : Bool) (r : FaultRecord) : recordBytes removed r =
    [BitVec.ofNat 8 (bitsOf [removed, r.lastClear.isSome]), BitVec.ofNat 8 (faultCodeNumber r.code),
      BitVec.ofNat 8 (faultSideNumber r.side), BitVec.ofNat 8 (severityNumber (severityOf r.code)),
      if r.active then 1 else 0, BitVec.ofNat 8 (bitsOf [r.ackedBy.v, r.ackedBy.c]),
      if severityOf r.code = .viewLoss then 3 else 1, BitVec.ofNat 8 r.onsets,
      r.detail.extractLsb' 8 8, r.detail.extractLsb' 0 8] ++ recordStamps r := by
  have ha : byte r.active.toNat = [if r.active then 1 else 0] := flagByte_eq r.active
  rw [recordBytes, ha, audienceByte]
  simp only [byte_eq, word16_toNat, masterBits, List.cons_append, List.nil_append]

theorem recordStamps_eq (r : FaultRecord) : recordStamps r = stampBytes r.firstRaise ++ stampBytes r.lastRaise
    ++ r.lastClear.elim [0, 0, 0, 0, 0] stampBytes := by
  unfold recordStamps
  cases r.lastClear <;> rfl

theorem recordStamps_length (r : FaultRecord) : (recordStamps r).length = 15 := by
  rw [recordStamps_eq]
  cases r.lastClear <;> simp [stampBytes_eq]

theorem recordAnswer_payload (removed : Bool) (i : Nat) (t : FaultTable) (r : FaultRecord) :
    (recordAnswer removed i t r).payload = [BitVec.ofNat 8 i, BitVec.ofNat 8 t.records.length,
      t.generation.extractLsb' 8 8, t.generation.extractLsb' 0 8] ++ recordBytes removed r := by
  simp [recordAnswer, byte_eq, tableBytes_eq]

/-- Settles O45: the record at a position or of a key, the counts alone where there is none, and the refusal of what
names no key. -/
theorem faultRecordsRead : Obligations.FaultRecordsRead := by
  rintro s p tag ⟨hn, hsound⟩ counts rfl
  refine ⟨fun i ho => ⟨fun hlen => ?_, fun r hi => ?_⟩, fun code side ho => ⟨fun i r hi hc hs => ?_,
    fun c sd hc hs ha hnone => ?_, fun hbad => ?_⟩, fun removed r _ => ⟨?_, ?_, ?_⟩⟩
  · have hr : readFault [i] s = noRecord s.table := by
      simp [readFault, param, List.getElem?_eq_none hlen]
    refine congrArg _ ((takeRequest_open s p .readFault tag [i] _ rfl ho rfl).trans ?_)
    rw [← tableBytes_eq, readOnly, hr]
    rfl
  · have hr : readFault [i] s = recordAnswer false i.toNat s.table r := by
      simp [readFault, param, hi]
    refine congrArg _ ((takeRequest_open s p .readFault tag [i] _ rfl ho rfl).trans ?_)
    rw [← tableBytes_eq, readOnly, hr]
    simp [recordAnswer, byte_eq]
  · have hk := keyOfParams_some hc hs (hsound r (List.mem_of_getElem? hi)).1
    have hr : readFaultKey [code, side] s = recordAnswer false i s.table r := by
      simp only [readFaultKey, hk, findRecord_at hn hi rfl, positionOf_at hn hi rfl]
    refine congrArg _ ((takeRequest_open s p .readFaultKey tag _ _ rfl ho rfl).trans ?_)
    rw [← tableBytes_eq, readOnly, hr]
    simp [recordAnswer, byte_eq]
  · have hr : readFaultKey [code, side] s = noRecord s.table := by
      simp only [readFaultKey, keyOfParams_some hc hs ha, findRecord_eq_none hnone]
    refine congrArg _ ((takeRequest_open s p .readFaultKey tag _ _ rfl ho rfl).trans ?_)
    rw [← tableBytes_eq, readOnly, hr]
    rfl
  · have hr : readFaultKey [code, side] s = plain .refusedParam := by
      simp only [readFaultKey, keyOfParams_none hbad]
    refine congrArg _ ((takeRequest_open s p .readFaultKey tag _ _ rfl ho rfl).trans ?_)
    rw [readOnly, hr]
    rfl
  · simp [recordBytes_eq, recordStamps_length]
  · simp [recordBytes_eq]
  · have hdrop : (recordBytes removed r).drop 10 = recordStamps r := by
      rw [recordBytes_eq]
      rfl
    rw [hdrop, recordStamps_eq]
    cases r.lastClear <;> rfl

/-! ### Acknowledgement (R123, R124) -/

/-- A record erased leaves none of its key. -/
theorem findRecord_eraseIdx {t : FaultTable} {c : FaultCode} {sd : FaultSide} {i : Nat} {r : FaultRecord}
    (hn : (t.records.map keyOf).Nodup) (hi : t.records[i]? = some r) (hk : keyOf r = (c, sd)) (g : BitVec 16) :
    findRecord { records := t.records.eraseIdx i, generation := g } c sd = none := by
  have h := filter_where_one (fun _ => true) (atMostOne_of_nodup hn) hi (keyOf_eq_iff.1 hk)
  rw [if_pos rfl] at h
  refine List.find?_eq_none.2 fun x hx => ?_
  rw [← h, List.mem_filter] at hx
  simpa using hx.2

theorem masterIn_addMaster (m : MasterSet) (p : Port) : masterIn (addMaster m p) p = true := by cases p <;> rfl

theorem addMaster_of_masterIn {m : MasterSet} {p : Port} (h : masterIn m p = true) : addMaster m p = m := by
  cases p <;> (obtain ⟨v, c⟩ := m; simp only [masterIn] at h; simp [addMaster, h])

theorem markedRecord_eq (p : Port) (r : FaultRecord) : markedRecord p r =
    { r with ackedBy := { v := r.ackedBy.v || decide (p = .v), c := r.ackedBy.c || decide (p = .c) } } := by
  cases p <;> simp [markedRecord, addMaster]

theorem markedRecord_eq_self (p : Port) (r : FaultRecord) : markedRecord p r = r ↔ masterIn r.ackedBy p = true := by
  constructor
  · intro h
    rw [← h]
    exact masterIn_addMaster _ _
  · intro h
    simp [markedRecord, addMaster_of_masterIn h]

theorem masterIn_audienceOf (c : FaultCode) (p : Port) :
    masterIn (audienceOf c) p = true ↔ p = .v ∨ severityOf c = .viewLoss := by
  cases p <;> simp [masterIn, audienceOf]

/-- What a mark does to the record of a key in a sound table: nothing where it is there, else the record is changed
in its place, or removed where its set is then complete. -/
theorem tableMark_at {t : FaultTable} {i : Nat} {r : FaultRecord} (ht : TableSound t) (hi : t.records[i]? = some r)
    (p : Port) : tableMark t r.code r.side p =
      if markedRecord p r = r then t
      else if complete (markedRecord p r) then { records := t.records.eraseIdx i, generation := t.generation + 2 }
      else { records := t.records.set i (markedRecord p r), generation := t.generation + 1 } := by
  unfold tableMark
  rw [findRecord_at ht.1 hi rfl]
  simp only [markedRecord_eq_self]
  split
  · rfl
  · exact removalTest_changeRecord_at ht.1 hi rfl (markedRecord p) fun _ => rfl

theorem findRecord_set {t : FaultTable} {i : Nat} {r : FaultRecord} (hn : (t.records.map keyOf).Nodup)
    (hi : t.records[i]? = some r) (f : FaultRecord → FaultRecord) (hf : ∀ x, keyOf (f x) = keyOf x) (g : BitVec 16) :
    findRecord { records := t.records.set i (f r), generation := g } r.code r.side = some (f r) := by
  have hlt : i < t.records.length := (List.getElem?_eq_some_iff.1 hi).1
  have hn' := hn
  rw [← changeRecord_keys t r.code r.side f hf, changeRecord_at hn hi rfl f] at hn'
  exact findRecord_at (i := i) hn' (by simp [hlt]) (hf r)

theorem newlyMarked_v : newlyMarked .v = fun r => !r.ackedBy.v := funext fun _ => Bool.true_and _

theorem newlyMarked_c : newlyMarked .c = fun r => decide (severityOf r.code = .viewLoss) && !r.ackedBy.c := rfl

theorem unacknowledged_eq (t : FaultTable) (p : Port) : unacknowledged t p = t.records.any (newlyMarked p) := by
  cases p
  · rw [newlyMarked_v]
    rfl
  · rfl

theorem newlyMarked_markedRecord (p : Port) (r : FaultRecord) : newlyMarked p (markedRecord p r) = false := by
  simp [newlyMarked, markedRecord, masterIn_addMaster]

/-- After ACK_ALL no record lacks the mark of its master. -/
theorem markAll_marked {t : FaultTable} {p : Port} {r : FaultRecord} (hr : r ∈ (markAll p t).records) :
    newlyMarked p r = false := by
  obtain ⟨x, -, rfl⟩ := List.mem_map.1 hr
  split
  · exact newlyMarked_markedRecord p x
  next h => simpa using h

theorem congr_filter_map {α β : Type} {p q : α → Bool} {f g : α → β} {l : List α} (hp : ∀ x ∈ l, p x = q x)
    (hf : ∀ x ∈ l, f x = g x) : (l.filter p).map f = (l.filter q).map g := by
  rw [List.filter_congr hp]
  exact List.map_congr_left fun x hx => hf x (List.mem_filter.1 hx).1

/-- Settles O46: the mark of one record, its removal where its set is then complete, and ACK_ALL, which does so for
every record of the master's audience that lacks the mark. -/
theorem acknowledgementsMarkAndRemove : Obligations.AcknowledgementsMarkAndRemove := by
  intro s p tag ht ho
  have hack (ps : List Byte) (hl : lengthOk .ackFault ps.length = true) (u : State) (a : Answer)
      (h : ackFault p ps s = (u, a)) :
      exec (.ackFault p tag ps) s = .next (answered p .ackFault tag a.status a.payload u) := by
    refine congrArg _ ((takeRequest_open s p .ackFault tag ps _ rfl ho hl).trans ?_)
    rw [h]
  refine ⟨?_, fun code side c sd hc hs ha hnone => ?_, fun code side hbad => ?_, ?_⟩
  · rintro code side i r m hi hc hs rfl
    rw [← markedRecord_eq]
    have hk := keyOfParams_some hc hs (ht.2 r (List.mem_of_getElem? hi)).1
    have hf := findRecord_at ht.1 hi rfl
    refine ⟨fun hp hsev => ?_, fun haud t hsame hkept hremoved => ?_⟩
    · refine hack _ rfl s (plain .refusedAuthority) ?_
      have : masterIn (audienceOf r.code) p = false := by
        simp [← Bool.not_eq_true, masterIn_audienceOf, hp, hsev]
      simp only [ackFault, hk, hf, this]
      rfl
    · have hm : tableMark s.table r.code r.side p = t := by
        rw [tableMark_at ht hi p]
        split
        next h => exact (hsame h).symm
        next h =>
          split
          next hcomplete => exact (hremoved hcomplete).symm
          next hcomplete => exact (hkept h (by simpa using hcomplete)).symm
      have hgone : (findRecord t r.code r.side).isNone = complete (markedRecord p r) := by
        cases hcomplete : complete (markedRecord p r)
        · by_cases h : markedRecord p r = r
          · rw [hsame h, hf]; rfl
          · rw [hkept h hcomplete, findRecord_set ht.1 hi (markedRecord p) fun _ => rfl]; rfl
        · rw [hremoved hcomplete, findRecord_eraseIdx ht.1 hi rfl]; rfl
      rw [← recordAnswer_payload]
      refine hack [code, side] rfl { s with table := t } (recordAnswer _ i t _) ?_
      simp only [ackFault, hk, hf, (masterIn_audienceOf _ _).2 haud, hm, hgone, positionOf_at ht.1 hi rfl]
      rfl
  · rw [← tableBytes_eq]
    refine hack [code, side] rfl s (noRecord s.table) ?_
    simp only [ackFault, keyOfParams_some hc hs ha, findRecord_eq_none hnone]
  · refine hack [code, side] rfl s (plain .refusedParam) ?_
    simp only [ackFault, keyOfParams_none hbad]
  · refine ⟨markAll p s.table, s.table.records.countP (newlyMarked p), s.table.records.countP (newlyRemoved p),
      ?_, ?_, ?_, ?_, ?_, ?_⟩
    · refine congrArg _ ((takeRequest_open s p .ackAll tag [] _ rfl ho rfl).trans ?_)
      simp [ackAll, byte_eq, word16_toNat]
    · simp [markAll, BitVec.ofNat_add, BitVec.add_assoc]
    · rw [markAll, List.length_map, ← List.countP_eq_length_filter,
        List.length_eq_countP_add_countP (newlyRemoved p), Nat.add_comm]
      simp
    · rintro rfl
      refine ⟨congrArg (List.countP · _) newlyMarked_v, congr_filter_map (fun r _ => ?_) fun r _ => ?_⟩
      · simp [newlyRemoved, newlyMarked_v, complete, fullyMarked, markedRecord, addMaster, audienceOf, Bool.or_assoc]
        rfl
      · rw [newlyMarked_v]
        split
        · rfl
        next h => exact ((markedRecord_eq_self .v r).2 (by simpa [masterIn] using h)).symm
    · rintro rfl
      refine ⟨rfl, congr_filter_map (fun r _ => ?_) fun r _ => ?_⟩
      · simp [newlyRemoved, newlyMarked_c, complete, fullyMarked, markedRecord, addMaster, audienceOf, Bool.or_assoc]
      · by_cases hs : severityOf r.code = .viewLoss
        · rw [if_pos hs, newlyMarked_c]
          split
          · rfl
          next h => exact ((markedRecord_eq_self .c r).2 (by simpa [hs, masterIn] using h)).symm
        · rw [if_neg hs, if_neg (by simp [newlyMarked_c, hs])]
    · rw [unacknowledged_eq]
      exact List.any_eq_false.2 fun r hr => by simp [markAll_marked hr]

end Sys2Proof.Machine


/-! PROOF. What a report brings about beyond the table (R77, R114 to R116, R128): O44. -/

namespace Sys2Proof.Machine

theorem raiseIsOnset_iff (t : FaultTable) (c : FaultCode) (sd : FaultSide) :
    raiseIsOnset t c sd = true ↔ ∀ r, findRecord t c sd = some r → r.active = false := by
  unfold raiseIsOnset
  cases findRecord t c sd <;> simp

/-- R128: a code of the mask hands its trigger to the one recorder of a side. -/
theorem handTriggers_one (trg : Trigger) (sd : Side) (s : State) : handTriggers trg [sd] s = takeTrigger sd trg s := rfl

/-- Two recorders take a trigger in an order that a free choice settles (log 6). -/
theorem handTriggers_both (trg : Trigger) (s : State) : ∃ first, handTriggers trg [.left, .right] s =
    takeTrigger (otherSide first) trg (takeTrigger first trg { s with freeIndex := s.freeIndex + 1 }) := by
  unfold handTriggers drawOrder
  rw [if_neg (by decide)]
  have hrot : ∀ n : Nat, [Side.left, Side.right].rotateLeft n = [.left, .right]
      ∨ [Side.left, Side.right].rotateLeft n = [.right, .left] := by
    intro n
    rcases Nat.mod_two_eq_zero_or_one n with h | h <;> simp [List.rotateLeft, h]
  rcases hrot (Config.freeOrder s.freeIndex) with h | h <;> simp only [h]
  · exact ⟨.left, rfl⟩
  · exact ⟨.right, rfl⟩

theorem faultTriggers_masked {c : FaultCode} {s : State} (h : inTriggerMask s.cal c = true) (sd : FaultSide) :
    faultTriggers c sd s = handTriggers (.fault c) (sidesOf sd) s := if_pos h

theorem faultTriggers_unmasked {c : FaultCode} {s : State} (h : inTriggerMask s.cal c = false) (sd : FaultSide) :
    faultTriggers c sd s = s := if_neg (by simp [h])

theorem inTriggerMask_captureLost (k : Calibration) : inTriggerMask k .captureLost = false := rfl

/-- A COMMON code is not of severity VIEW_LOSS (R112). -/
theorem severityOf_common {c : FaultCode} (h : sideAllowed c .common = true) : severityOf c ≠ .viewLoss := by
  revert h
  cases c <;> decide

theorem sendRaise_again {s : State} {c : FaultCode} {sd : FaultSide} {r : FaultRecord} (d : BitVec 16)
    (hf : findRecord s.table c sd = some r) (ha : r.active = true) : sendRaise c sd d s = s :=
  if_neg (by simp [raiseIsOnset, hf, ha])

theorem sendRaise_onset {s : State} {c : FaultCode} {sd : FaultSide} (d : BitVec 16)
    (h : ∀ r, findRecord s.table c sd = some r → r.active = false) :
    sendRaise c sd d s = afterOnset c sd { s with table := tableRaise s.table c sd d s.time } :=
  if_pos ((raiseIsOnset_iff _ _ _).2 h)

/-- R77 at the activation of a VIEW_LOSS record of a side in STARTING, LIVE or HOLDING. -/
theorem activateView_shown {s : State} {sd : Side} (h : (s.side sd).view.state = .starting
    ∨ (s.side sd).view.state = .live ∨ (s.side sd).view.state = .holding) : activateView sd s =
      ((s.modView sd fun x => { x with state := .invalid, fresh := false, heldCount := 0, startCount := 0 }).modPort .v
        fun y => { y with notices := { y.notices with view := true } }).modPort .c fun y =>
        { y with notices := { y.notices with view := true } } := by
  have hne : (s.side sd).view.state ≠ .invalid := by rcases h with h | h | h <;> simp [h]
  have hact : activateView sd s = (enterInvalid sd s).modView sd fun x => { x with heldCount := 0 } := by
    unfold activateView
    rcases h with h | h | h <;> simp only [h]
  rw [hact, enterInvalid, changeView, if_neg hne, notifyBoth, modView_modView, ← notify_modView, ← notify_modView,
    modView_modView]
  rfl

theorem activateView_dark {s : State} {sd : Side} (h : (s.side sd).view.state = .invalid
    ∨ (s.side sd).view.state = .test) : activateView sd s = s := by
  unfold activateView
  rcases h with h | h <;> simp only [h]

/-- Settles O44: after the table's own change an onset moves the view of a VIEW_LOSS code's side and hands the
triggers of a code in the mask; no other report does. -/
theorem onsetsReachViewAndRecorder : Obligations.OnsetsReachViewAndRecorder := by
  intro s c sd d
  refine ⟨rfl, fun r hf ha => sendRaise_again d hf ha, fun honset => ?_, ?_, fun e he => ?_, ?_⟩
  · obtain ⟨u, hu⟩ : ∃ u : State, u = { s with table := tableRaise s.table c (faultSideOf sd) d s.time } := ⟨_, rfl⟩
    have hside : u.side sd = s.side sd := by rw [hu]; cases sd <;> rfl
    have hcal : u.cal = s.cal := by rw [hu]; rfl
    have hsend := sendRaise_onset d honset
    rw [← hu, afterOnset, sidesOf_faultSideOf] at hsend
    rw [← hside]
    refine ⟨u, if severityOf c = .viewLoss then activateView sd u else u, hu, fun hsev hshown => ?_, fun hdark => ?_,
      fun hm => ?_, fun hm => ?_⟩
    · rw [if_pos hsev, activateView_shown hshown]
      exact ⟨by cases sd <;> rfl, rfl⟩
    · split
      next hsev => exact activateView_dark (hdark.resolve_left (not_not_intro hsev))
      · rfl
    · rw [hsend, faultTriggers_masked, sidesOf_faultSideOf, handTriggers_one]
      · rfl
      · split <;> simpa [hcal] using hm
    · rw [hsend, faultTriggers_unmasked]
      · rfl
      · split <;> simpa [hcal] using hm
  · exact faultTriggers_unmasked (inTriggerMask_captureLost _) _
  · rintro rfl
    exact Bool.false_ne_true ((inTriggerMask_captureLost _).symm.trans he)
  · intro e u v hcommon
    refine ⟨rfl, fun r hf ha => sendRaise_again d hf ha, fun hreport => ?_⟩
    have hv : v = faultTriggers e .common u ∧ u.cal = s.cal := by
      rcases hreport with ⟨-, honset, rfl, rfl⟩ | ⟨-, rfl, rfl⟩
      · rw [sendRaise_onset d honset, afterOnset, if_neg (severityOf_common hcommon)]
        exact ⟨rfl, rfl⟩
      · exact ⟨rfl, rfl⟩
    obtain ⟨rfl, hcal⟩ := hv
    refine ⟨fun hm => ?_, fun hm => faultTriggers_unmasked (hcal ▸ hm) _⟩
    rw [faultTriggers_masked (hcal ▸ hm)]
    exact handTriggers_both _ _

end Sys2Proof.Machine


/-! PROOF. What a recorder does with a trigger, and the triggers from outside (R138 to R144): O47, O48. -/

namespace Sys2Proof.Machine

/-! ### A recorder takes a trigger (R138) -/

theorem modRec_congr {s : State} {sd : Side} {f g : Recorder → Recorder}
    (h : f (s.side sd).recorder = g (s.side sd).recorder) : s.modRec sd f = s.modRec sd g :=
  modSide_congr s sd _ _ (congrArg (fun r => { s.side sd with recorder := r }) h)

section Take
variable {s : State} {sd : Side} {trg : Trigger}

theorem takeTrigger_stopped (h : (s.side sd).recorder.state = .stopped) : takeTrigger sd trg s = s := by
  simp only [takeTrigger, h]

theorem takeTrigger_lost (h : (s.side sd).recorder.state = .full
      ∨ (s.side sd).recorder.state = .filling ∧ faultClass (sourceOf trg) = true) :
    takeTrigger sd trg s = loseTrigger sd (sourceOf trg) s := by
  rcases h with h | ⟨h, hc⟩ <;> simp only [takeTrigger, h]
  exact if_pos hc

theorem takeTrigger_waits (h : (s.side sd).recorder.state = .filling ∨ (s.side sd).recorder.state = .post)
    (hc : faultClass (sourceOf trg) = false) : takeTrigger sd trg s =
      s.modRec sd fun r => { r with waiting := addSource r.waiting (sourceOf trg) } := by
  rcases h with h | h <;> simp only [takeTrigger, h, hc] <;> rfl

theorem takeTrigger_merged {k : Capture} (h : (s.side sd).recorder.state = .post)
    (hk : (s.side sd).recorder.current = some k) (hc : faultClass (sourceOf trg) = true) : takeTrigger sd trg s =
      s.modRec sd fun r => { r with current := some (mergeTrigger trg k) } := by
  simp only [takeTrigger, h, hc, if_true]
  refine modRec_congr ?_
  rw [hk]
  rfl

theorem takeTrigger_accepted (h : (s.side sd).recorder.state = .armed) : takeTrigger sd trg s =
    acceptTriggers sd (addSource noSources (sourceOf trg)) (triggerCodes trg) (s.side sd).recorder.npre false s := by
  simp only [takeTrigger, h]

end Take

theorem faultClass_sourceOf (trg : Trigger) :
    faultClass (sourceOf trg) = true ↔ ¬ (trg = .masterV ∨ trg = .masterC ∨ trg = .eventIn) := by
  cases trg <;> simp [sourceOf, faultClass]

theorem hasNonCross_sourceOf (trg : Trigger) :
    hasNonCross (addSource noSources (sourceOf trg)) = true ↔ trg ≠ .cross := by
  cases trg <;> simp [sourceOf, addSource, noSources, hasNonCross, hasBypass]

/-- R139: a FAULT trigger merged: its code is listed unless it is known or the list is full. -/
theorem mergeTrigger_fault (c : FaultCode) (k : Capture) : mergeTrigger (.fault c) k =
    { k with sources := { k.sources with fault := true }
             seen := if c ∈ k.seen then k.seen else k.seen ++ [c]
             faultCodes := if c ∈ k.seen ∨ 4 ≤ k.faultCodes.length then k.faultCodes else k.faultCodes ++ [c]
             extraCodes := if c ∈ k.seen ∨ k.faultCodes.length < 4 then k.extraCodes
                           else min (k.extraCodes + 1) 255 } := by
  simp only [mergeTrigger, mergeCode, sourceOf, addSource]
  by_cases hseen : c ∈ k.seen
  · simp [hseen]
  · by_cases hlen : k.faultCodes.length < 4
    · simp [hseen, hlen, Nat.not_le.2 hlen]
    · simp [hseen, hlen, Nat.not_lt.1 hlen]

/-- Settles O47: the reaction to a trigger by the recorder's state and the trigger's class, and CROSS_TRIGGER. -/
theorem triggersTakenByState : Obligations.TriggersTakenByState := by
  refine ⟨?_, fun s sd hrun => ⟨fun h0 => ?_, fun hpos => ?_⟩⟩
  · rintro s sd trg r bypass lost rfl rfl hbypass
    rw [← not_iff_not, ← faultClass_sourceOf] at hbypass
    refine ⟨takeTrigger_stopped, fun h => ?_, fun h hb => ?_, fun h => ?_, fun k h hk hc => ?_, ?_⟩
    · rw [takeTrigger_lost (h.imp_right fun h => ⟨h.1, hbypass.1 h.2⟩), loseTrigger, lostDetail, Nat.mul_comm]
    · exact takeTrigger_waits h (by simpa using fun hc => hbypass.2 hc hb)
    · refine ⟨_, rfl, fun hlink hcross => ?_, fun hno => ?_⟩
      · rw [takeTrigger_accepted h, acceptTriggers, if_pos (by simp [hlink, hasNonCross_sourceOf, hcross])]
        exact congrArg (State.modRec · _ _) (modRec_congr (by cases trg <;> rfl))
      · rw [takeTrigger_accepted h, acceptTriggers, if_neg]
        · exact modRec_congr (by cases trg <;> rfl)
        · rw [Bool.and_eq_true, hasNonCross_sourceOf]
          rintro ⟨hcross, hlink⟩
          exact hno.elim (fun h => Bool.false_ne_true (h.symm.trans hlink)) hcross
    · subst hc
      rw [takeTrigger_merged h hk rfl]
      rfl
    · rintro k m c h hk rfl rfl
      rw [takeTrigger_merged h hk rfl, mergeTrigger_fault]
  · exact next_whileRunning hrun (if_pos h0)
  · exact next_whileRunning hrun (if_neg (Nat.ne_of_gt hpos))

/-! ### EVENT_IN and TRIGGER_CAPTURE (R143, R144) -/

/-- A side set names the sides of its bits. -/
theorem mem_sidesOfParam {sides : Byte} {named : List Side} (hn : sidesOfParam sides.toNat = some named) (sd : Side) :
    sd ∈ named ↔ sides.getLsbD (sideNumber sd) = true := by
  have hs : sides = 1 ∨ sides = 2 ∨ sides = 3 := by
    by_contra h
    rw [sidesOfParam_eq_none (by bv_omega)] at hn
    simp at hn
  obtain rfl | rfl | rfl := hs <;> (obtain rfl := Option.some.inj hn.symm; cases sd <;> decide)

theorem disposition_byte {sides : Byte} {named : List Side} (hn : sidesOfParam sides.toNat = some named) (s : State)
    (sd : Side) : byte (disposition named sd s) = [if sides.getLsbD (sideNumber sd) = false then 0
      else BitVec.ofNat 8 (dispositionNumber (s.side sd).recorder.state)] := by
  simp only [byte_eq, disposition, mem_sidesOfParam hn]
  cases sides.getLsbD (sideNumber sd) <;> rfl

/-- Settles O48: an edge hands one trigger to each recorder, a request one to each side it names. -/
theorem outsideTriggersHanded : Obligations.OutsideTriggersHanded := by
  refine ⟨fun s => ⟨rfl, fun h => congrArg _ (if_pos h), fun h hheld => ?_, fun h hrun => ?_⟩, ?_⟩
  · refine congrArg _ ((if_neg (by simp [h])).trans ?_)
    exact whileRunning_held _ _ hheld
  · obtain ⟨first, hfirst⟩ := handTriggers_both .eventIn { s with eventIn := true }
    refine ⟨first, congrArg _ ((if_neg (by simp [h])).trans ?_)⟩
    exact (whileRunning_running (handTriggers .eventIn [.left, .right]) { s with eventIn := true } hrun).trans hfirst
  · rintro s p tag sides trg did hreach htrg hdid
    obtain rfl : trg = masterTrigger p := by rw [htrg]; cases p <;> rfl
    have hparam : param [sides] 0 = sides.toNat := rfl
    have hreply (named : List Side) (hn : sidesOfParam sides.toNat = some named) (u : State)
        (hu : handTriggers (masterTrigger p) named s = u) : exec (.triggerCapture p tag [sides]) s =
          .next (answered p .triggerCapture tag .ok [did .left, did .right] u) := by
      refine congrArg _ ((takeRequest_reaches s p .triggerCapture tag [sides] _ hreach rfl).trans ?_)
      have hbyte (sd : Side) : byte (disposition named sd s) = [did sd] := by
        rw [disposition_byte hn, hdid]
        cases (s.side sd).recorder.state <;> rfl
      simp only [triggerCapture, hparam, hn, hu, hbyte]
      rfl
    refine ⟨fun hbad => ?_, fun sd hone => ?_, fun hboth => ?_⟩
    · refine congrArg _ ((takeRequest_reaches s p .triggerCapture tag [sides] _ hreach rfl).trans ?_)
      simp only [triggerCapture, hparam, sidesOfParam_eq_none hbad]
      rfl
    · refine hreply [sd] ?_ _ (handTriggers_one _ _ _)
      rw [hone]
      cases sd <;> rfl
    · obtain ⟨first, hfirst⟩ := handTriggers_both (masterTrigger p) s
      exact ⟨first, hreply [.left, .right] (by rw [hboth]; rfl) _ hfirst⟩

end Sys2Proof.Machine


/-! PROOF. The requests to a recorder: readout, release and control (R148 to R156): O50, O51. -/

namespace Sys2Proof.Machine

/-- The byte of a side names it. -/
theorem sideOfParam_sideByte (sd : Side) (ps : List Byte) :
    sideOfParam (param (BitVec.ofNat 8 (sideNumber sd) :: ps) 0) = some sd := by
  cases sd <;> rfl

theorem modRec_side (s : State) (sd : Side) (f : Recorder → Recorder) :
    ((s.modRec sd f).side sd).recorder = f (s.side sd).recorder := modRec_side_recorder s sd f

theorem modRec_const (s : State) (sd : Side) (f : Recorder → Recorder) :
    s.modRec sd f = s.modRec sd fun _ => f (s.side sd).recorder := modRec_congr rfl

/-! ### The status of a recorder (R156) -/

theorem word16_eq (n : Nat) : word16 n = [BitVec.ofNat 8 (n / 256), BitVec.ofNat 8 n] := by
  simp [word16, bytesOfNat]

theorem padTo_map {α : Type} (f : α → Byte) (n : Nat) (l : List α) :
    padTo n (l.map f) = (List.range n).map fun i => (l[i]?).elim 0 f := by
  refine List.ext_getElem (by simp [padTo]; omega) fun i h1 h2 => ?_
  have hi : i < n := by simpa using h2
  simp only [padTo, List.getElem_append, List.getElem_map, List.getElem_range, List.length_take, List.length_map]
  split
  next h =>
    have hl : i < l.length := by omega
    simp [hl]
  next h =>
    have hl : ¬ i < l.length := by omega
    simp [List.getElem?_eq_none (Nat.not_lt.1 hl)]

theorem codeBytes_eq (codes : List FaultCode) : padTo 4 (codes.flatMap fun c => byte (faultCodeNumber c)) =
    (List.range 4).map fun i => (codes[i]?).elim 0 fun c => BitVec.ofNat 8 (faultCodeNumber c) := by
  rw [← padTo_map, List.map_eq_flatMap]
  simp only [byte_eq]

/-- The status as 11 section 11.4 lays it out, a word as its two bytes. -/
theorem captureStatusBytes_eq (p : Port) (r : Recorder) : captureStatusBytes p r =
    ([BitVec.ofNat 8 (recorderNumber r.state)] ++ word16 r.size ++ [BitVec.ofNat 8 (bufferCount r)]
      ++ word16 r.npre ++ word16 (postSize r)
      ++ [if r.crossLink then 1 else 0, BitVec.ofNat 8 r.rp, BitVec.ofNat 8 (writePointer r), BitVec.ofNat 8 r.frozen,
        BitVec.ofNat 8 (bitsOf [hasActiveBuffer r, decide (r.state = .filling), decide (r.state = .post),
          !r.headers.isEmpty])]
      ++ word16 (if hasActiveBuffer r then r.w else 0) ++ word16 (if r.state = .filling then r.fill else 0)
      ++ word16 (if r.state = .post then r.post else 0)
      ++ [BitVec.ofNat 8 (if r.state = .post then sourceBits ((r.current.map (·.sources)).getD noSources) else 0),
        BitVec.ofNat 8 (if r.state = .post then (r.current.map (·.faultCodes)).getD [] else []).length]
      ++ ((List.range 4).map fun i =>
          ((if r.state = .post then (r.current.map (·.faultCodes)).getD [] else [])[i]?).elim 0 fun c =>
            BitVec.ofNat 8 (faultCodeNumber c))
      ++ [BitVec.ofNat 8 (sourceBits r.waiting), BitVec.ofNat 8 r.headers.length,
        (r.headers.head?.map (·.seq)).getD 0, r.seq]
      ++ word16 (cursorOf r p)) := by
  have hseq : orZero 1 (r.headers.head?.map (·.seq.toNat)) = [(r.headers.head?.map (·.seq)).getD 0] := by
    cases r.headers.head? with
    | none => rfl
    | some h => exact (byte_toNat h.seq :)
  have hlink : flagByte r.crossLink = [if r.crossLink then 1 else 0] := flagByte_eq _
  unfold captureStatusBytes
  dsimp only
  rw [codeBytes_eq, hseq, hlink, byte_toNat]
  simp only [byte_eq, decide_eq_true_eq, List.append_assoc]
  simp only [List.cons_append, List.nil_append]

/-! ### Requests as their bodies (R149 to R156) -/

section Requests
variable (s : State) (p : Port) (tag : BitVec 4)

/-- R148, R150: the reply that carries digest k of the head. -/
theorem slotAnswer_eq (r : Recorder) (h : CaptureHeader) (k : Nat) : slotAnswer r h k =
    { status := .ok
      payload := [h.seq] ++ word16 k ++ word16 (timeSlot r h k)
        ++ (slotRead r.slots (h.buffer * r.size + timeSlot r h k)).elim [0] fun d => 1 :: digestBytes d } := by
  simp only [slotAnswer, byte_toNat, slotIndex, flagByte_eq]
  cases slotRead r.slots (h.buffer * r.size + timeSlot r h k) <;> simp

/-- R152: a release frees the head's buffer, which a FULL recorder starts. -/
theorem releaseHead_eq {r : Recorder} {h : CaptureHeader} {rest : List CaptureHeader} (hr : r.headers = h :: rest)
    {e : Recorder} (he : e = { r with headers := rest, rp := (r.rp + 1) % bufferCount r, frozen := r.frozen - 1
                                      cursorV := 0, cursorC := 0 }) :
    releaseHead r = if r.state = .full then
        { e with state := .filling, fill := 0, w := 0
                 slots := slotClear e.slots (writePointer e * e.size) ((writePointer e + 1) * e.size) }
      else e := by
  subst he
  simp only [releaseHead, zeroCursors, hr, List.drop_one, List.tail_cons]
  rfl

end Requests

/-- What a readout request of a side answers, by its body. -/
theorem exec_readCapture {s : State} {p : Port} (tag : BitVec 4) (ho : (s.port p).txn = .onReady) {side : Byte} :
    (∀ x, readCaptureHeader p [side] s = x → exec (.readCaptureHeader p tag [side]) s
        = .next (answered p .readCaptureHeader tag x.2.status x.2.payload x.1))
      ∧ (∀ x, readCaptureNext p [side] s = x → exec (.readCaptureNext p tag [side]) s
        = .next (answered p .readCaptureNext tag x.2.status x.2.payload x.1))
      ∧ (∀ k1 k0 x, readCaptureSlot [side, k1, k0] s = x → exec (.readCaptureSlot p tag [side, k1, k0]) s
        = .next (answered p .readCaptureSlot tag x.status x.payload s))
      ∧ (∀ q x, authorised s p .releaseCapture = true → releaseCapture [side, q] s = x →
        exec (.releaseCapture p tag [side, q]) s = .next (answered p .releaseCapture tag x.2.status x.2.payload x.1))
      ∧ (∀ x, getCaptureStatus p [side] s = x → exec (.getCaptureStatus p tag [side]) s
        = .next (answered p .getCaptureStatus tag x.status x.payload s)) := by
  refine ⟨?_, ?_, ?_, ?_, ?_⟩
  · rintro x rfl
    exact congrArg _ (takeRequest_open s p .readCaptureHeader tag [side] _ rfl ho rfl)
  · rintro x rfl
    exact congrArg _ (takeRequest_open s p .readCaptureNext tag [side] _ rfl ho rfl)
  · rintro k1 k0 x rfl
    exact congrArg _ (takeRequest_open s p .readCaptureSlot tag [side, k1, k0] _ rfl ho rfl)
  · rintro q x ha rfl
    exact congrArg _ (takeRequest_reaches s p .releaseCapture tag [side, q] _ ⟨ho, ha⟩ rfl)
  · rintro x rfl
    exact congrArg _ (takeRequest_open s p .getCaptureStatus tag [side] _ rfl ho rfl)

/-- Settles O50: the head's header, its digests in time order, its release, and the status. -/
theorem capturesReadAndReleased : Obligations.CapturesReadAndReleased := by
  rintro s p tag sd r side rfl hside ho
  obtain ⟨hheader, hnext, hslot, hrelease, hstatus⟩ := exec_readCapture tag ho (side := side)
  have hsd (ps : List Byte) : sideOfParam (param (side :: ps) 0) = some sd := hside ▸ sideOfParam_sideByte sd ps
  have hk (k1 k0 : Byte) : field [side, k1, k0] 1 2 = (k1 ++ k0).toNat := field_pair _ 1 k1 k0 rfl rfl
  refine ⟨fun hempty => ⟨hheader (s, plain .notFound) ?_, hnext (s, plain .notFound) ?_,
      fun k1 k0 hlt => hslot k1 k0 (plain .notFound) ?_, fun ha q => hrelease q (s, plain .notFound) ha ?_⟩,
    fun k1 k0 hle => hslot k1 k0 (plain .refusedParam) ?_,
    ⟨captureStatusBytes p (s.side sd).recorder, ?_,
      hstatus { status := .ok, payload := captureStatusBytes p (s.side sd).recorder } ?_,
      ?_, ?_, ?_⟩, ?_,
    fun h rest hhead => ⟨?_, ?_, ?_⟩⟩
  · simp only [readCaptureHeader, hsd, hempty]
  · simp only [readCaptureNext, hsd, hempty]
  · simp only [readCaptureSlot, hsd, hk, hempty, if_neg (Nat.not_le.2 hlt)]
  · simp only [releaseCapture, hsd, hempty]
  · simp only [readCaptureSlot, hsd, hk, if_pos hle]
  · simp [captureStatusBytes_eq, word16_length]
  · simp only [getCaptureStatus, hsd]
  · rw [captureStatusBytes_eq]
    rfl
  · rw [captureStatusBytes_eq]
    rfl
  · rw [captureStatusBytes_eq]
    rfl
  · intro active sources codes hactive hpost hother
    have ha : hasActiveBuffer (s.side sd).recorder = active := by
      rw [Bool.eq_iff_iff, hactive]
      unfold hasActiveBuffer
      cases (s.side sd).recorder.state <;> simp
    have hshown : (if (s.side sd).recorder.state = .post
          then ((s.side sd).recorder.current.map (·.faultCodes)).getD [] else []) = codes
        ∧ (if (s.side sd).recorder.state = .post
          then sourceBits (((s.side sd).recorder.current.map (·.sources)).getD noSources) else 0)
            = sourceBits sources := by
      by_cases h : (s.side sd).recorder.state = .post
      · obtain ⟨k, hcur, rfl, rfl⟩ := hpost h
        simp [h, hcur]
      · obtain ⟨rfl, rfl⟩ := hother h
        simp [h]
        rfl
    rw [hstatus { status := .ok, payload := captureStatusBytes p (s.side sd).recorder }
      (by simp only [getCaptureStatus, hsd]), captureStatusBytes_eq, hshown.1, hshown.2, ha]
    have hqueue : (!(s.side sd).recorder.headers.isEmpty) = decide ((s.side sd).recorder.headers ≠ []) := by
      cases (s.side sd).recorder.headers <;> rfl
    have hcodes : ((List.range 4).map fun i => (codes[i]?).elim 0 fun c => BitVec.ofNat 8 (faultCodeNumber c))
        = (List.range 4).map fun i =>
          match codes[i]? with | some c => BitVec.ofNat 8 (faultCodeNumber c) | none => 0 :=
      List.map_congr_left fun i _ => by cases codes[i]? <;> rfl
    have hseq : ((s.side sd).recorder.headers.head?.map (·.seq)).getD 0 =
        match (s.side sd).recorder.headers with | h :: _ => h.seq | [] => 0 := by
      cases (s.side sd).recorder.headers <;> rfl
    rw [hqueue, hcodes, hseq]
    cases p <;> rfl
  · have hbody : readCaptureHeader p [side] s = (s.modRec sd (setCursor p 0),
        { status := .ok
          payload := byte (s.side sd).recorder.headers.length ++ byte (recorderNumber (s.side sd).recorder.state)
            ++ byte (s.side sd).recorder.frozen ++ headerBytes h }) := by
      simp only [readCaptureHeader, hsd, hhead]
    rw [hheader _ hbody]
    simp only [byte_eq]
    cases p <;> rfl
  · rintro k slot reply hlt hsize rfl hreply
    have hanswer : slotAnswer (s.side sd).recorder h k = { status := .ok, payload := reply } := by
      rw [hreply, slotAnswer_eq]
      unfold timeSlot
      cases slotRead _ _ <;> rfl
    have hfield : field (side :: word16 k) 1 2 = k := by
      rw [word16_eq, hk, ← natOfBytes_pair, ← word16_eq, word16, natOfBytes_bytesOfNat]
      exact Nat.mod_eq_of_lt (by omega)
    refine ⟨?_, fun hcur => ?_⟩
    · have hbody : readCaptureSlot (side :: word16 k) s = { status := .ok, payload := reply } := by
        simp only [readCaptureSlot, hsd, hfield, hhead, if_neg (Nat.not_le.2 hlt), hanswer]
      exact hslot _ _ _ hbody
    · have hcursor : cursorOf (s.side sd).recorder p = k := by
        rw [← hcur]
        cases p <;> rfl
      have hnextk : (k + 1) % (s.side sd).recorder.size = if k + 1 = (s.side sd).recorder.size then 0 else k + 1 := by
        split
        next hlast => rw [hlast, Nat.mod_self]
        next hlast => exact Nat.mod_eq_of_lt (by omega)
      have hbody : readCaptureNext p [side] s = (s.modRec sd (setCursor p ((k + 1) % (s.side sd).recorder.size)),
          { status := .ok, payload := reply }) := by
        simp only [readCaptureNext, hsd, hhead, hcursor, hanswer]
      rw [hnext _ hbody, hnextk]
      refine congrArg (fun u => Host.Outcome.next (answered p .readCaptureNext tag .ok reply u)) (modRec_congr ?_)
      cases p <;> rfl
  · refine fun ha q => ⟨fun hne => hrelease q (s, plain .notFound) ha ?_, fun heq => ⟨_, rfl, ?_⟩⟩
    · have hseq : ¬ h.seq.toNat = param [side, q] 1 := fun he => hne (BitVec.eq_of_toNat_eq he).symm
      simp only [releaseCapture, hsd, hhead, if_neg hseq]
    · have hseq : h.seq.toNat = param [side, q] 1 := congrArg BitVec.toNat heq.symm
      have hbody : releaseCapture [side, q] s = (s.modRec sd releaseHead,
          { status := .ok
            payload := byte h.seq.toNat ++ byte ((s.modRec sd releaseHead).side sd).recorder.frozen }) := by
        simp only [releaseCapture, hsd, hhead, if_pos hseq]
      have hfrozen : (releaseHead (s.side sd).recorder).frozen = (s.side sd).recorder.frozen - 1 := by
        unfold releaseHead
        split <;> rfl
      rw [hrelease q _ ha hbody, modRec_side, hfrozen, byte_toNat, byte_eq, modRec_const, releaseHead_eq hhead rfl]
      rfl

/-! ### Control (R153 to R155) -/

theorem flagOfParam_bit {v : Byte} (h : v.toNat ≤ 1) : flagOfParam v.toNat = some (decide (v = 1)) := by
  have hv : v = 0 ∨ v = 1 := by bv_omega
  obtain rfl | rfl := hv <;> rfl

/-- R153: a STOP discards the buffer that is written, if there is one. -/
theorem stopRecorder_eq (r : Recorder) : stopRecorder r =
    { r with state := .stopped, current := none, waiting := noSources
             slots := if hasActiveBuffer r then
                 slotClear r.slots (writePointer r * r.size) ((writePointer r + 1) * r.size) else r.slots } := by
  unfold stopRecorder
  cases hasActiveBuffer r <;> rfl

/-- R154: parameters taken; a change of the size frees every buffer. -/
theorem takeParams_same {r : Recorder} {size : Nat} (h : size = r.size) (npre : Nat) (cross : Bool) :
    takeParams size npre cross r = { r with npre := npre, crossLink := cross } := by
  subst h
  simp [takeParams]

theorem takeParams_new {r : Recorder} {size : Nat} (h : size ≠ r.size) (npre : Nat) (cross : Bool) :
    takeParams size npre cross r =
      { r with size := size, npre := npre, crossLink := cross, slots := [], headers := [], rp := 0, frozen := 0
               cursorV := 0, cursorC := 0 } := by
  simp only [takeParams, if_neg h]
  rfl

/-- Settles O51: START, STOP, the parameters and CLEAR_CAPTURE, by the recorder's state. -/
theorem recorderControlled : Obligations.RecorderControlled := by
  rintro s p tag sd r side rfl hside ho -
  have hsd (ps : List Byte) : sideOfParam (param (side :: ps) 0) = some sd := hside ▸ sideOfParam_sideByte sd ps
  refine ⟨fun ha action => ?_, fun ha s1 s0 n1 n0 x size npre hsize hnpre => ?_, fun ha => ?_⟩
  · have hexec {y : State × Answer} (h : captureControl [side, action] s = y) :
        exec (.captureControl p tag [side, action]) s
          = .next (answered p .captureControl tag y.2.status y.2.payload y.1) := by
      subst h
      exact congrArg _ (takeRequest_reaches s p .captureControl tag [side, action] _ ⟨ho, ha⟩ rfl)
    have hparam : param [side, action] 1 = action.toNat := rfl
    refine ⟨fun hbad => hexec (y := (s, plain .refusedParam)) ?_, fun hle =>
      ⟨controlRecorder (decide (action = 1)) (s.side sd).recorder, ?_, ?_, ?_, ?_, ?_, ?_⟩⟩
    · simp only [captureControl, hsd, hparam, flagOfParam_eq_none hbad]
    · rw [hexec (y := (s.modRec sd (controlRecorder (decide (action = 1))), _))
        (by simp only [captureControl, hsd, hparam, flagOfParam_bit hle]; rfl)]
      rw [modRec_side, byte_eq, modRec_const]
    · rintro (⟨rfl, hrun⟩ | ⟨rfl, hstop⟩)
      · exact if_neg hrun
      · exact if_pos hstop
    · rintro rfl hstop hall
      simp [controlRecorder, hstop, startRecorder, hall]
    · rintro rfl hstop hfree
      simp [controlRecorder, hstop, startRecorder, hfree, startFilling, startBuffer, emptyBuffer, slotIndex]
    · rintro rfl hfull
      simp [controlRecorder, hfull, stopRecorder_eq, hasActiveBuffer]
    · rintro rfl hactive
      have hrun : (s.side sd).recorder.state ≠ .stopped := fun h => by simp [hasActiveBuffer, h] at hactive
      simp [controlRecorder, hrun, stopRecorder_eq, hactive]
  · have hexec {y : State × Answer} (h : setCaptureParams [side, s1, s0, n1, n0, x] s = y) :
        exec (.setCaptureParams p tag [side, s1, s0, n1, n0, x]) s
          = .next (answered p .setCaptureParams tag y.2.status y.2.payload y.1) := by
      subst h
      exact congrArg _ (takeRequest_reaches s p .setCaptureParams tag _ _ ⟨ho, ha⟩ rfl)
    have hf1 : field [side, s1, s0, n1, n0, x] 1 2 = size := (field_pair _ 1 s1 s0 rfl rfl).trans hsize.symm
    have hf3 : field [side, s1, s0, n1, n0, x] 3 2 = (n1 ++ n0).toNat := field_pair _ 3 n1 n0 rfl rfl
    have hparam : param [side, s1, s0, n1, n0, x] 5 = x.toNat := rfl
    have hsizes : bufferSizes = [128, 256, 512, 1024] := rfl
    rw [← hsizes]
    refine ⟨fun hbad => hexec (y := (s, plain .refusedParam)) ?_,
      fun hmem hx hrun => hexec (y := (s, plain .refusedState)) ?_, fun hmem hx hstop =>
        ⟨takeParams size npre (decide (x = 1)) (s.side sd).recorder, ?_, fun h => takeParams_same h _ _,
          fun h => takeParams_new h _ _⟩⟩
    · simp only [setCaptureParams, hsd, hf1, hparam]
      rcases Nat.lt_or_ge 1 x.toNat with hx | hx
      · rw [flagOfParam_eq_none hx]
      · rw [flagOfParam_bit hx]
        exact if_pos (hbad.resolve_right (Nat.not_lt.2 hx))
    · simp only [setCaptureParams, hsd, hf1, hparam, flagOfParam_bit hx]
      rw [if_neg (not_not_intro hmem), if_pos hrun]
    · have hle : 1 ≤ size - 1 := by
        rw [hsizes] at hmem
        simp only [List.mem_cons, List.not_mem_nil, or_false] at hmem
        omega
      have hstatus : okIf (decide (npre ≠ (n1 ++ n0).toNat)) = if npre = (n1 ++ n0).toNat then .ok else .okClamped :=
        okIf_sent Iff.rfl
      rw [hexec (y := (s.modRec sd (takeParams size npre (decide (x = 1))), plain (okIf _))), modRec_const, ← hstatus]
      · rfl
      · simp only [setCaptureParams, hsd, hf1, hf3, hparam, flagOfParam_bit hx, clampNat_eq _ _ _ hle, ← hnpre]
        rw [if_neg (not_not_intro hmem), if_neg (not_not_intro hstop)]
  · refine ⟨clearRecorder (s.side sd).recorder, ?_, fun hstop => ?_, fun hrun => ?_⟩
    · refine congrArg _ ((takeRequest_reaches s p .clearCapture tag [side] _ ⟨ho, ha⟩ rfl).trans ?_)
      simp only [clearCapture, hsd]
      rw [modRec_const]
      rfl
    · simp [clearRecorder, hstop, freeAll, zeroCursors]
    · simp [clearRecorder, hrun, freeAll, zeroCursors, startFilling, startBuffer, emptyBuffer, slotClear]

end Sys2Proof.Machine


/-! PROOF. The Calibration Store: staging, reading, protection and programming (R176 to R180): O52, O53, O54. -/

namespace Sys2Proof.Machine

theorem regionOfParam_number (r : Region) : regionOfParam (regionNumber r) = some r := by cases r <;> rfl

theorem regionOfParam_eq_none {v : Nat} (h : 4 < v) : regionOfParam v = none := List.getElem?_eq_none h

/-! ### Staging (R177) -/

section PutBytes
variable {old bs : List Byte} {o i : Nat}

theorem putBytes_in (h : o + bs.length ≤ old.length) (hi : i < bs.length) : (putBytes old o bs)[o + i]? = bs[i]? := by
  rw [putBytes, List.append_assoc, List.getElem?_append_right (by simp), List.length_take,
    List.getElem?_append_left (by omega)]
  congr 1
  omega

theorem putBytes_out (h : o + bs.length ≤ old.length) (hi : i < o ∨ o + bs.length ≤ i) :
    (putBytes old o bs)[i]? = old[i]? := by
  rcases hi with hi | hi
  · rw [putBytes, List.append_assoc, List.getElem?_append_left (by simp; omega), List.getElem?_take_of_lt hi]
  · rw [putBytes, List.getElem?_append_right (by simp; omega), List.getElem?_drop]
    congr 1
    simp only [List.length_append, List.length_take]
    omega

end PutBytes

/-! ### Reading (R178) -/

theorem word16_pair (a b : Byte) : word16 (a ++ b).toNat = [a, b] := by
  rw [← natOfBytes_pair]
  exact bytesOfNat_natOfBytes [a, b]

/-- Settles O52: the bytes staged within a region, the discard, and the bytes and the summary read. -/
theorem stagingAndReading : Obligations.StagingAndReading := by
  intro s p tag ho himages
  refine ⟨fun ha hidle region o1 o0 bs hb1 hb2 => ?_, fun ha hidle => ?_, fun source region o1 o0 count => ?_⟩
  · have hl : lengthOk .calStage (region :: o1 :: o0 :: bs).length = true := by
      simp only [lengthOk, List.length_cons, Bool.and_eq_true, decide_eq_true_eq]
      omega
    have hexec {y : State × Answer} (h : calStage (region :: o1 :: o0 :: bs) s = y) :
        exec (.calStage p tag (region :: o1 :: o0 :: bs)) s
          = .next (answered p .calStage tag y.2.status y.2.payload y.1) := by
      subst h
      exact congrArg _ (takeRequest_reaches s p .calStage tag _ _ ⟨ho, ha⟩ hl)
    have hfield : field (region :: o1 :: o0 :: bs) 1 2 = (o1 ++ o0).toNat := field_pair _ 1 o1 o0 rfl rfl
    have hparam : param (region :: o1 :: o0 :: bs) 0 = region.toNat := rfl
    have hdrop : (region :: o1 :: o0 :: bs).drop 3 = bs := rfl
    have hbusy : ¬ s.store.programming.isSome = true := by simp [hidle]
    refine ⟨fun hbad => hexec (y := (s, plain .refusedParam)) ?_, fun r hr => ⟨fun hlong => hexec
      (y := (s, plain .refusedParam)) ?_, fun hfit => ⟨putBytes (perRegionGet s.store.staging r) (o1 ++ o0).toNat bs,
        hexec (y := (s.modStore (stageBytes r (o1 ++ o0).toNat bs), plain .ok)) ?_, ?_, fun i hi => putBytes_in ?_ hi,
        fun i hi => putBytes_out ?_ hi⟩⟩⟩
    · simp only [calStage, hparam, regionOfParam_eq_none hbad, if_neg hbusy]
    · simp only [calStage, hparam, hr, regionOfParam_number, hfield, hdrop, if_neg hbusy, if_pos hlong]
    · simp only [calStage, hparam, hr, regionOfParam_number, hfield, hdrop, if_neg hbusy, if_neg (Nat.not_lt.2 hfit)]
    · rw [putBytes_length, (himages r (mem_regions r)).2]
      rwa [(himages r (mem_regions r)).2]
    · rwa [(himages r (mem_regions r)).2]
    · rwa [(himages r (mem_regions r)).2]
  · refine congrArg _ ((takeRequest_reaches s p .calDiscard tag [] _ ⟨ho, ha⟩ rfl).trans ?_)
    have hbody : calDiscard s = (s.modStore discardStaged, plain .ok) := if_neg (by simp [hidle])
    rw [hbody]
    rfl
  · have hexec {y : Answer} (h : calRead [source, region, o1, o0, count] s = y) :
        exec (.calRead p tag [source, region, o1, o0, count]) s
          = .next (answered p .calRead tag y.status y.payload s) := by
      subst h
      exact congrArg _ (takeRequest_open s p .calRead tag _ _ rfl ho rfl)
    have hp0 : param [source, region, o1, o0, count] 0 = source.toNat := rfl
    have hp1 : param [source, region, o1, o0, count] 1 = region.toNat := rfl
    have hp4 : param [source, region, o1, o0, count] 4 = count.toNat := rfl
    have hfield : field [source, region, o1, o0, count] 2 2 = (o1 ++ o0).toNat := field_pair _ 2 o1 o0 rfl rfl
    have hcount : count.toNat = 0 ↔ count = 0 := ⟨fun h => BitVec.eq_of_toNat_eq h, fun h => by rw [h]; rfl⟩
    refine ⟨fun hbad => hexec (y := plain .refusedParam) ?_, fun r bytes n hr hbytes => ⟨fun hpast =>
      hexec (y := plain .refusedParam) ?_, fun hne hin hn => ?_⟩⟩
    · simp only [calRead, hp0, hp1, hp4, hfield, hcount]
      rcases hbad with hbad | hbad | hbad
      · rw [flagOfParam_eq_none hbad]
      · rw [regionOfParam_eq_none hbad]
        cases flagOfParam source.toNat <;> rfl
      · split
        · exact if_pos (.inr hbad)
        · rfl
    · have hflag : ∃ b, flagOfParam source.toNat = some b := by
        rcases hbytes with ⟨rfl, -⟩ | ⟨rfl, -⟩ <;> exact ⟨_, rfl⟩
      obtain ⟨b, hb⟩ := hflag
      simp only [calRead, hp0, hp1, hfield, hr, regionOfParam_number, hb]
      exact if_pos (.inl hpast)
    · have hflag : ∃ b, flagOfParam source.toNat = some b ∧ sourceBytes s.store b r = bytes := by
        rcases hbytes with ⟨rfl, rfl⟩ | ⟨rfl, rfl⟩
        · exact ⟨false, rfl, rfl⟩
        · exact ⟨true, rfl, rfl⟩
      obtain ⟨b, hb, hsource⟩ := hflag
      have hstatus : okIf (decide (n ≠ count.toNat)) = if n = count.toNat then .ok else .okClamped := okIf_sent Iff.rfl
      have hbody : calRead [source, region, o1, o0, count] s =
          { status := okIf (decide (n ≠ count.toNat))
            payload := byte (regionSummary s.store r) ++ word16 (o1 ++ o0).toNat ++ byte n
              ++ (bytes.drop (o1 ++ o0).toNat).take n } := by
        have hgood : ¬ (regionLength r ≤ (o1 ++ o0).toNat ∨ count = 0) := by
          rw [not_or, Nat.not_le]
          exact ⟨hin, hne⟩
        simp only [calRead, hp0, hp1, hp4, hfield, hcount, hr, regionOfParam_number, hb, hsource, usedCount, ← hn,
          if_neg hgood]
      rw [hexec hbody, hstatus, word16_pair, byte_eq, byte_eq]
      rfl

/-! ### Protection and the start of programming (R176, R179) -/

theorem noRegion_iff (x : RegionSet) : noRegion x = true ↔ ∀ r, perRegionGet x r = false :=
  noRegion_perRegion (perRegionGet x)

theorem any_regions (f : Region → Bool) : regions.any f = true ↔ ∃ r, f r = true := by
  rw [List.any_eq_true]
  exact ⟨fun ⟨r, _, h⟩ => ⟨r, h⟩, fun ⟨r, h⟩ => ⟨r, mem_regions r, h⟩⟩

theorem regionSetOfByte_some {b : Byte} (h : b.toNat ≤ 31) :
    regionSetOfByte b = some (perRegion fun r => b.getLsbD (regionNumber r)) := if_pos (Nat.lt_succ_of_le h)

theorem regionBits_byte : ∀ b : Byte, b.toNat ≤ 31 →
    BitVec.ofNat 8 (regionBits (perRegion fun r => b.getLsbD (regionNumber r))) = b := by decide

/-- R179: the regions with staged changes, where there are none. -/
theorem startProgramming_none {st : Store} (h : ∀ r, stagedChange st r = false) (hi : st.programming = none) :
    startProgramming st = st := by
  have hno : noRegion (stagedRegions st) = true := (noRegion_perRegion _).2 h
  unfold startProgramming
  rw [if_pos hno, ← hi]

theorem startProgramming_some {st : Store} (h : ∃ r, stagedChange st r = true) :
    startProgramming st = { st with programming := some (stagedRegions st) } := by
  have hno : ¬ noRegion (stagedRegions st) = true := by
    rw [stagedRegions, noRegion_perRegion]
    rintro hn
    obtain ⟨r, hr⟩ := h
    exact Bool.false_ne_true ((hn r).symm.trans hr)
  unfold startProgramming
  rw [if_neg hno]

theorem regionBits_none {st : Store} (h : ∀ r, stagedChange st r = false) : regionBits (stagedRegions st) = 0 := by
  have hset : stagedRegions st = perRegion fun _ => false := congrArg perRegion (funext h)
  rw [hset]
  rfl

theorem protectedChange_iff (st : Store) : protectedChange st = true ↔
    ∃ r, stagedChange st r = true ∧ perRegionGet st.mask r = true := by
  rw [protectedChange, any_regions]
  simp

/-- R179: what CAL_PROGRAM asks for outside a period: rest, SUPPLY_OK and no protected change. -/
theorem calProgram_refused {s : State} (hidle : s.store.programming = none) (h : s.supplyOk = false
    ∨ presentedSpeed s ≠ some 0 ∨ ∃ r, stagedChange s.store r = true ∧ perRegionGet s.store.mask r = true) :
    calProgram s = (s, plain .refusedState) := by
  rw [← protectedChange_iff] at h
  unfold calProgram
  rw [if_neg (by simp [hidle])]
  cases hrest : atRest s
  · rfl
  · cases hsupply : s.supplyOk
    · rfl
    · exact if_pos ((h.resolve_left (by simp [hsupply])).resolve_left (not_not_intro ((atRest_iff s).1 hrest)))

theorem calProgram_taken {s : State} (hidle : s.store.programming = none) (hsupply : s.supplyOk = true)
    (hrest : presentedSpeed s = some 0)
    (hfree : ∀ r, stagedChange s.store r = true → perRegionGet s.store.mask r = false) : calProgram s =
      (s.modStore startProgramming, { status := .ok, payload := byte (regionBits (stagedRegions s.store)) }) := by
  have hnot : ¬ protectedChange s.store = true := by
    rw [protectedChange_iff]
    rintro ⟨r, hr, hmask⟩
    exact Bool.false_ne_true ((hfree r hr).symm.trans hmask)
  unfold calProgram
  rw [if_neg (by simp [hidle]), if_neg (by simp [(atRest_iff s).2 hrest]), if_neg (by simp [hsupply]), if_neg hnot]

/-- Settles O53: the requests refused while a period runs, the window, the mask, and the start of a period. -/
theorem protectionAndProgramming : Obligations.ProtectionAndProgramming := by
  refine ⟨fun s p tag ps hsupply hbusy ho c hc ha hl => ?_, fun s hrun => congrArg _ (whileRunning_running _ s hrun),
    fun s p tag ho hidle => ⟨fun ha b lowering hlow => ?_, fun ha supply u hu => ?_⟩⟩
  · have hrestart : c = .restart → (s.port p).txn = .onReady → restartRefusal p ps s ≠ none := by
      rintro rfl -
      simp [restartRefusal, ha, hl, hbusy]
    rw [exec_request hsupply p c tag ps hrestart, takeRequest_reaches s p c tag ps _ ⟨ho, ha⟩ hl]
    have hbody : requestBody p ps c s = (s, plain .busy) := by
      simp only [List.mem_cons, List.not_mem_nil, or_false] at hc
      rcases hc with rfl | rfl | rfl | rfl | rfl
      · exact if_pos hbusy
      · exact if_pos hbusy
      · exact if_pos hbusy
      · exact if_pos hbusy
      · rfl
    rw [hbody]
    rfl
  · have hexec {y : State × Answer} (h : calProtect [b] s = y) :
        exec (.calProtect p tag [b]) s = .next (answered p .calProtect tag y.2.status y.2.payload y.1) := by
      subst h
      exact congrArg _ (takeRequest_reaches s p .calProtect tag _ _ ⟨ho, ha⟩ rfl)
    have hidle' : ¬ s.store.programming.isSome = true := by simp [hidle]
    have hget : [b].getD 0 0 = b := rfl
    have hlowers : lowers (perRegion fun r => b.getLsbD (regionNumber r)) s.store.mask = true ↔ lowering := by
      rw [hlow, lowers, any_regions]
      simp
    refine ⟨fun hbad => hexec (y := (s, plain .refusedParam)) ?_,
      fun hle hdown hclosed => hexec (y := (s, plain .refusedState)) ?_, fun hle hopen =>
        ⟨s.store.lowered || lowers (perRegion fun r => b.getLsbD (regionNumber r)) s.store.mask, ?_, ?_⟩⟩
    · have hnone : regionSetOfByte b = none := if_neg (by omega)
      simp only [calProtect, hget, hnone, if_neg hidle']
    · have hcond : (!s.store.window || s.store.lowered) = true := by
        rcases hclosed with h | h <;> simp [h]
      simp only [calProtect, hget, regionSetOfByte_some hle, if_neg hidle', hlowers.2 hdown, hcond, Bool.and_self,
        if_true]
    · rw [Bool.or_eq_true, hlowers, or_comm]
    · have hcond : ¬ (lowers (perRegion fun r => b.getLsbD (regionNumber r)) s.store.mask
          && (!s.store.window || s.store.lowered)) = true := by
        rw [Bool.and_eq_true, hlowers]
        rintro ⟨hdown, hclosed⟩
        obtain ⟨hw, hlo⟩ := hopen.resolve_left (not_not_intro hdown)
        simp [hw, hlo] at hclosed
      rw [hexec (y := (s.modStore _, _)) (by
        simp only [calProtect, hget, regionSetOfByte_some hle, if_neg hidle', if_neg hcond]; rfl)]
      rw [byte_eq, regionBits_byte b hle]
      rfl
  · subst hu
    have hexec {y : State × Answer} (h : calProgram { s with supplyOk := supply } = y) :
        exec (.calProgram p tag [] supply) s = .next (answered p .calProgram tag y.2.status y.2.payload y.1) := by
      subst h
      change Host.Outcome.next (takeRequest p .calProgram tag [] calProgram
        { s with supplyOk := s.store.programming.isSome || supply }) = _
      rw [hidle]
      exact congrArg _ (takeRequest_reaches { s with supplyOk := supply } p .calProgram tag [] _ ⟨ho, ha⟩ rfl)
    refine ⟨fun hbad => hexec (calProgram_refused hidle hbad), fun hok hstill hfree => ?_⟩
    have htaken := calProgram_taken (s := { s with supplyOk := supply }) hidle hok hstill hfree
    rw [hexec htaken]
    refine ⟨fun hnone => ?_, fun hsome => ⟨stagedRegions s.store, fun r => perRegionGet_perRegion _ r, ?_⟩⟩
    · simp only [State.modStore, startProgramming_none hnone hidle, regionBits_none hnone]
      rfl
    · simp only [State.modStore, startProgramming_some hsome, byte_eq]

/-! ### The end of a period (R180) -/

/-- A record changed in its place is found changed. -/
theorem findRecord_change (t : FaultTable) (c : FaultCode) (sd : FaultSide) (f : FaultRecord → FaultRecord)
    (hf : ∀ x, keyOf (f x) = keyOf x) : findRecord (changeRecord t c sd f) c sd = (findRecord t c sd).map f := by
  unfold findRecord changeRecord
  induction t.records with
  | nil => rfl
  | cons x xs ih =>
    cases hx : hasKey c sd x
    · simpa [hx] using ih
    · have hfx : hasKey c sd (f x) = true := keyOf_eq_iff.1 ((hf x).trans (keyOf_eq_iff.2 hx))
      simp [hx, hfx]

/-- R116: the record of the key after an event. -/
theorem findRecord_event (t : FaultTable) (c : FaultCode) (sd : FaultSide) (d : BitVec 16) (now : Stamp) :
    ∃ x, findRecord (tableEvent t c sd d now) c sd = some x ∧ x.detail = d ∧ x.lastRaise = now := by
  unfold tableEvent
  split
  next hnone =>
    refine ⟨newRecord c sd false d now, ?_, rfl, rfl⟩
    unfold findRecord at *
    simp [appendRecord, List.find?_append, hnone, hasKey, newRecord]
  next r hr =>
    rw [findRecord_change _ _ _ (reportAgain d now) fun _ => rfl, hr]
    exact ⟨_, rfl, rfl, rfl⟩

theorem checksumOk_withChecksum (items : List Byte) : checksumOk (withChecksum items) = true := beq_self_eq_true _

/-- The report of a failed period, and what it leaves (R180). -/
theorem reportFailure_same (cause : ProgramFailure) (failed : RegionSet) (s : State) :
    SameButReports s (reportFailure cause failed s) := by
  unfold reportFailure
  split
  · exact .refl s
  · exact sendEvent_same _ _ _ _

/-- What the end of a period leaves as it was. -/
theorem finishProgramming_rest (cause : ProgramFailure) (done failed : RegionSet) (s : State) :
    (finishProgramming cause done failed s).store = (endPeriod done failed s).store
      ∧ (finishProgramming cause done failed s).supplyOk = s.supplyOk
      ∧ (finishProgramming cause done failed s).portV.notices = { s.portV.notices with cal := true }
      ∧ (finishProgramming cause done failed s).portC = s.portC
      ∧ (finishProgramming cause done failed s).vehicle = s.vehicle
      ∧ (finishProgramming cause done failed s).time = s.time
      ∧ (finishProgramming cause done failed s).pending = s.pending
      ∧ ∀ x, { (finishProgramming cause done failed s).side x with recorder := (s.side x).recorder } = s.side x := by
  obtain ⟨hpending, hpauses, hphase, hpins, hevent, htime, hpattern, hvehicle, hstore, hport, hside⟩ :=
    reportFailure_same cause failed (endPeriod done failed s)
  refine ⟨hstore, hpins, ?_, hport .c, hvehicle, htime, hpending, hside⟩
  exact congrArg (fun y : PortState => { y.notices with cal := true }) (hport .v)

/-- The report of a period that failed in some region, and none of one that did not (R180). -/
theorem finishProgramming_table (cause : ProgramFailure) (done failed : RegionSet) (s : State) :
    ((∀ r, perRegionGet failed r = false) → (finishProgramming cause done failed s).table = s.table)
      ∧ ((∃ r, perRegionGet failed r = true) →
        ∃ x, findRecord (finishProgramming cause done failed s).table .calProgramFail .common = some x
          ∧ x.detail = failDetail cause failed ∧ x.lastRaise = s.time) := by
  have htable : (finishProgramming cause done failed s).table =
      (reportFailure cause failed (endPeriod done failed s)).table :=
    rfl
  rw [htable]
  refine ⟨fun hnone => ?_, fun ⟨r, hr⟩ => ?_⟩
  · rw [reportFailure, if_pos ((noRegion_iff failed).2 hnone)]
    rfl
  · have hsome : ¬ noRegion failed = true := fun h => Bool.false_ne_true (((noRegion_iff failed).1 h r).symm.trans hr)
    rw [reportFailure, if_neg hsome, sendEvent, faultTriggers_find _ _ _ _ _ (by decide)]
    exact findRecord_event _ _ _ _ _

theorem regionSet_ext {a b : RegionSet} (h : ∀ r, perRegionGet a r = perRegionGet b r) : a = b := by
  have hself (x : RegionSet) : x = perRegion (perRegionGet x) := rfl
  rw [hself a, hself b, funext h]

/-- The two ends of a period (R180), as one operation on the state with SUPPLY_OK as it then is. -/
theorem exec_endOfPeriod {s : State} {bad done failed : RegionSet} {c : Instr} {cause : Nat}
    (hrun : blocksRun s.phase = true) (hdone : s.store.programming = some done)
    (hc : (c = .programmingPeriodEnd bad ∧ cause = 1
        ∧ ∀ r, perRegionGet failed r = (perRegionGet bad r && perRegionGet done r))
      ∨ (c = .supplyFail ∧ cause = 2 ∧ failed = done)) :
    ∃ k, failDetail k failed = BitVec.ofNat 16 (256 * cause + regionBits failed)
      ∧ exec c s = .next (finishProgramming k done failed
          { s with supplyOk := if cause = 2 then false else s.supplyOk }) := by
  rcases hc with ⟨rfl, rfl, hfailed⟩ | ⟨rfl, rfl, rfl⟩
  · obtain rfl : failed = bothSets bad done :=
      regionSet_ext fun r => (hfailed r).trans
        (perRegionGet_perRegion (fun r => perRegionGet bad r && perRegionGet done r) r).symm
    refine ⟨.verify, rfl, next_whileRunning hrun ?_⟩
    simp only [periodEnd, hdone]
    rfl
  · refine ⟨.supply, rfl, ?_⟩
    change Host.Outcome.next (supplyFall s) = _
    simp only [supplyFall, hdone]
    rfl

/-- The region that a period leaves: damaged where it failed, else as staged where it was programmed (R180). -/
theorem endPeriod_region (s : State) (done failed : RegionSet) (r : Region) :
    (perRegionGet failed r = true →
        checksumOk (perRegionGet (endPeriod done failed s).store.stored r) = false
          ∧ (perRegionGet (endPeriod done failed s).store.stored r).items.length = regionLength r)
      ∧ (perRegionGet failed r = false → perRegionGet done r = true →
        (perRegionGet (endPeriod done failed s).store.stored r).items = perRegionGet s.store.staging r
          ∧ checksumOk (perRegionGet (endPeriod done failed s).store.stored r) = true
          ∧ stagedChange (endPeriod done failed s).store r = false)
      ∧ (perRegionGet failed r = false → perRegionGet done r = false →
        perRegionGet (endPeriod done failed s).store.stored r = perRegionGet s.store.stored r) := by
  have hstaging : (endPeriod done failed s).store.staging = s.store.staging := rfl
  unfold stagedChange
  rw [endPeriod_stored, hstaging]
  refine ⟨fun hf => ?_, fun hf hd => ?_, fun hf hd => ?_⟩
  · rw [if_pos hf]
    exact ⟨damagedRegion_checksum _ r, damagedRegion_length _ r⟩
  · rw [if_neg (by simp [hf]), if_pos hd]
    exact ⟨rfl, checksumOk_withChecksum _, by rw [checksumOk_withChecksum]; simp [withChecksum]⟩
  · rw [if_neg (by simp [hf]), if_neg (by simp [hd])]

/-- Settles O54: the image that a period leaves by its failed regions, its report, and the notice of Port V. -/
theorem programmingPeriodEnds : Obligations.ProgrammingPeriodEnds := by
  intro s bad hrun
  refine ⟨fun hidle => ⟨?_, ?_⟩, fun done failed c cause hdone hc => ?_⟩
  · refine next_whileRunning hrun ?_
    simp only [periodEnd, hidle]
  · change Host.Outcome.next (supplyFall s) = _
    simp only [supplyFall, hidle]
  · obtain ⟨k, hdetail, hexec⟩ := exec_endOfPeriod hrun hdone hc
    obtain ⟨hstore, hsupply, hv, hportC, hvehicle, htime, hpending, hside⟩ :=
      finishProgramming_rest k done failed { s with supplyOk := if cause = 2 then false else s.supplyOk }
    obtain ⟨hquiet, hreport⟩ :=
      finishProgramming_table k done failed { s with supplyOk := if cause = 2 then false else s.supplyOk }
    rw [hdetail] at hreport
    refine ⟨_, hexec, ?_, hsupply, fun r => ?_, ?_, hv, hportC, hquiet, hreport, hvehicle, htime, hpending, fun x => ?_⟩
    · rw [hstore]
      rfl
    · rw [hstore]
      exact endPeriod_region _ done failed r
    · rw [hstore]
      rfl
    · refine Eq.trans ?_ ((hside x).trans ?_)
      · cases x <;> rfl
      · cases x <;> rfl

end Sys2Proof.Machine


/-! PROOF. The Camera Link Receiver: its lock, a drop, a frame's start and its lines (R2 to R9): O19, O20, O21, O22. -/

namespace Sys2Proof.Machine

theorem modClr_modClr (s : State) (sd : Side) (f g : Clr → Clr) :
    (s.modClr sd f).modClr sd g = s.modClr sd fun c => g (f c) := modSide_modSide s sd _ _

/-! ### Changes of one side -/

/-- What changes one side and reports leaves everything of the other but its recorder. -/
theorem sameElsewhere_iff {sd : Side} {s t : State} : SameElsewhere sd s t ↔
    t.pending = s.pending ∧ t.pauses = s.pauses ∧ t.phase = s.phase ∧ t.supplyOk = s.supplyOk ∧ t.eventIn = s.eventIn
      ∧ t.time = s.time ∧ t.activePattern = s.activePattern ∧ t.vehicle = s.vehicle ∧ t.store = s.store
      ∧ (∀ p, t.port p = s.port p)
      ∧ { t.side (otherSide sd) with recorder := (s.side (otherSide sd)).recorder } = s.side (otherSide sd) := by
  have hside (u : State) : (∀ x, { u.side x with recorder := (s.side x).recorder } = s.side x)
      ↔ { u.left with recorder := s.left.recorder } = s.left ∧ { u.right with recorder := s.right.recorder } = s.right :=
    ⟨fun h => ⟨h .left, h .right⟩, fun h x => by cases x; exacts [h.1, h.2]⟩
  unfold SameElsewhere SameButReports
  rw [hside]
  cases sd <;> simp only [State.side, otherSide, reduceCtorEq, if_true, if_false, and_true, true_and] <;> exact Iff.rfl

theorem SameElsewhere.refl (sd : Side) (s : State) : SameElsewhere sd s s :=
  sameElsewhere_iff.2 ⟨rfl, rfl, rfl, rfl, rfl, rfl, rfl, rfl, rfl, fun _ => rfl, rfl⟩

theorem SameElsewhere.modSide {sd : Side} {s t : State} (h : SameElsewhere sd s t) (f : SideState → SideState) :
    SameElsewhere sd s (t.modSide sd f) := by
  rw [sameElsewhere_iff] at h ⊢
  simpa using h

theorem SameElsewhere.same {sd : Side} {s t u : State} (h : SameElsewhere sd s t) (k : SameButReports t u) :
    SameElsewhere sd s u := by
  rw [sameElsewhere_iff] at h ⊢
  obtain ⟨h1, h2, h3, h4, h5, h6, h7, h8, h9, hport, hside⟩ := h
  obtain ⟨k1, k2, k3, k4, k5, k6, k7, k8, k9, kport, kside⟩ := k
  refine ⟨k1.trans h1, k2.trans h2, k3.trans h3, k4.trans h4, k5.trans h5, k6.trans h6, k7.trans h7, k8.trans h8,
    k9.trans h9, fun p => (kport p).trans (hport p), ?_⟩
  rw [← hside, ← kside (otherSide sd)]

/-! ### The lock (R2, R3) -/

theorem cameraUnlock_eq {s : State} {sd : Side} (hl : (s.side sd).clr.locked = true) : cameraUnlock sd s =
    (if (s.side sd).clr.frame.state = .receiving then
        dropFrame sd (sendRaise .linkLoss (faultSideOf sd) 0 (s.modClr sd fun c => { c with locked := false }))
      else sendRaise .linkLoss (faultSideOf sd) 0 (s.modClr sd fun c => { c with locked := false })).modClr sd fun c =>
        { c with frame := idleFrame, lastAccepted := none, sending := none, waiting := none } := by
  unfold cameraUnlock
  rw [if_neg (by simp [hl])]
  exact modClr_modClr _ _ _ _

/-- Settles O19: a change of the lock and its report; the loss closes the frame record and empties the
transmitter. -/
theorem cameraLockFollowsLink : Obligations.CameraLockFollowsLink := by
  intro s sd hrun
  refine ⟨fun hl => ⟨next_whileRunning hrun (if_neg (by simp [hl])), next_whileRunning hrun (if_pos (by simp [hl]))⟩,
    fun hl => ⟨next_whileRunning hrun (if_pos hl), _, _, rfl, next_whileRunning hrun (cameraUnlock_eq hl),
      rfl, ?_, ?_, ?_⟩⟩
  · rw [modClr_side_clr]
    split
    · rw [(dropFrame_clrAfter _ sd).clr_eq]
      simp [droppedClr]
    · simp
  · intro hf
    rw [if_neg hf, modClr_side_clr]
    simp
  · have hactive := sendRaise_active (s.modClr sd fun c => { c with locked := false }) .linkLoss (faultSideOf sd) 0
      (by decide)
    rw [modClr_table]
    split
    · rw [dropFrame_find _ _ _ _ (by decide) (by decide)]
      exact hactive
    · exact hactive

/-! ### The drop of a frame (R9, R13) -/

theorem headerOk_iff (h : Header) : headerOk h = true ↔ WellFormedHeader h := by
  simp [headerOk, inRange, inRangeInt, WellFormedHeader, and_assoc]

/-- R13: the report of LINE_CRC by the sum of the window after the push. -/
theorem pushWindow_eq (s : State) (sd : Side) (n : Nat) {w : List Nat} (hw : w = pushCount (s.side sd).clr.window n)
    {u : State} (hu : u = s.modClr sd fun c => { c with window := w }) :
    (s.cal.integrity.crcLimit ≤ w.sum →
        pushWindow sd n s = sendRaise .lineCrc (faultSideOf sd) (BitVec.ofNat 16 (min w.sum 65535)) u)
      ∧ (w.sum < s.cal.integrity.crcLimit → w.sum < s.cal.integrity.crcLimit / 2 →
        pushWindow sd n s = sendClear .lineCrc (faultSideOf sd) u)
      ∧ (w.sum < s.cal.integrity.crcLimit → s.cal.integrity.crcLimit / 2 ≤ w.sum → pushWindow sd n s = u) := by
  have hmod : s.modClr sd (fun c => { c with window := pushCount c.window n }) = u := by
    rw [hu, hw]
    exact modClr_congr s sd rfl
  have hwin : (u.side sd).clr.window = w := by rw [hu, modClr_side_clr]
  unfold pushWindow
  dsimp only
  rw [hmod, hwin]
  refine ⟨fun h => if_pos h, fun h1 h2 => ?_, fun h1 h2 => ?_⟩
  · rw [if_neg (Nat.not_le.2 h1), if_pos h2]
  · rw [if_neg (Nat.not_le.2 h1), if_neg (Nat.not_lt.2 h2)]

theorem dropFrame_elsewhere (s : State) (sd : Side) : SameElsewhere sd s (dropFrame sd s) := by
  have hpush := (((SameElsewhere.refl sd s).modSide _).modSide _).same (pushWindow_same
    (s.modClr sd fun c => { c with framesDropped := c.framesDropped + 1 }) sd (s.side sd).clr.frame.badCount)
  unfold dropFrame
  dsimp only
  split
  · exact hpush
  · exact hpush.modSide _

theorem dropFrame_cal (s : State) (sd : Side) : (dropFrame sd s).cal = s.cal := by
  obtain ⟨-, -, -, -, -, -, -, -, hstore, -⟩ := sameElsewhere_iff.1 (dropFrame_elsewhere s sd)
  exact congrArg Store.cal hstore

/-- Settles O20: the counters, the window and its report, and the dropped-frame report handed on. -/
theorem dropEvent : Obligations.DropEvent := by
  rintro s sd h w hh hlen rfl
  rw [← pushCount_eq _ _ hlen]
  have hu : (s.modClr sd fun c => { c with framesDropped := c.framesDropped + 1
                                           window := pushCount (s.side sd).clr.window (s.side sd).clr.frame.badCount })
      = (s.modClr sd fun c => { c with framesDropped := c.framesDropped + 1 }).modClr sd fun c =>
        { c with window := pushCount (s.side sd).clr.window (s.side sd).clr.frame.badCount } := by
    rw [modClr_modClr]
  obtain ⟨hraise, hclear, hquiet⟩ := pushWindow_eq _ sd (s.side sd).clr.frame.badCount
    (by rw [modClr_side_clr]) hu
  rw [modClr_cal] at hraise hclear hquiet
  have hdrop : dropFrame sd s = handCamera sd (.dropped (reportOf h)) (pushWindow sd (s.side sd).clr.frame.badCount
      (s.modClr sd fun c => { c with framesDropped := c.framesDropped + 1 })) := by
    simp only [dropFrame, hh]
  refine ⟨_, _, reportOf h, rfl, hraise, hclear, hquiet, hdrop, rfl, fun hok => ?_, fun hbad => ?_,
    dropFrame_elsewhere s sd⟩
  · exact if_pos ((headerOk_iff h).2 hok)
  · exact if_neg fun hok => hbad ((headerOk_iff h).1 hok)

/-! ### The start of a frame (R4, R5, R14) -/

theorem checkTemperature_eq (s : State) (sd : Side) (h : Header) :
    (s.cal.integrity.tempLimit ≤ h.sensorTemp.toInt →
        checkTemperature sd h s = sendRaise .sensorTemp (faultSideOf sd) h.sensorTemp s)
      ∧ (h.sensorTemp.toInt ≤ s.cal.integrity.tempLimit - 5 →
        checkTemperature sd h s = sendClear .sensorTemp (faultSideOf sd) s)
      ∧ (s.cal.integrity.tempLimit - 5 < h.sensorTemp.toInt → h.sensorTemp.toInt < s.cal.integrity.tempLimit →
        checkTemperature sd h s = s) := by
  unfold checkTemperature
  dsimp only
  refine ⟨fun h => if_pos h, fun h => ?_, fun h1 h2 => ?_⟩
  · rw [if_neg (by omega), if_pos h]
  · rw [if_neg (by omega), if_neg (by omega)]

theorem takeFrameStart_eq {s : State} {sd : Side} (h : Header) (hl : (s.side sd).clr.locked = true) :
    takeFrameStart sd h s =
      openFrame sd h (if (s.side sd).clr.frame.state = .receiving then dropFrame sd s else s) := by
  unfold takeFrameStart
  dsimp only
  rw [if_neg (by simp [hl])]
  cases (s.side sd).clr.frame.state <;> rfl

/-- Settles O21: the open frame dropped, the new one opened, and its header judged. -/
theorem frameStartOpens : Obligations.FrameStartOpens := by
  intro s sd h hrun
  refine ⟨fun hl => next_whileRunning hrun (if_pos (by simp [hl])), fun hl => ⟨_, _, rfl, rfl, fun hok =>
    ⟨_, rfl, fun ht => ?_, fun ht => ?_, fun ht1 ht2 => ?_⟩, fun hbad => ?_⟩⟩
  all_goals
    refine next_whileRunning hrun ((takeFrameStart_eq h hl).trans ?_)
    unfold openFrame
    dsimp only
  case refine_4 =>
    rw [if_neg fun hok => hbad ((headerOk_iff h).1 hok)]
    rfl
  all_goals
    rw [if_pos ((headerOk_iff h).2 hok)]
    have hcal (u : State) (f g : Clr → Clr) (hu : u.cal = s.cal) : ((u.modClr sd f).modClr sd g).cal = s.cal := by
      rw [modClr_cal, modClr_cal, hu]
    have hlimit := hcal (if (s.side sd).clr.frame.state = .receiving then dropFrame sd s else s)
      (fun c => { c with frame := openedFrame h })
      (fun c => { c with lastHeader := some (h.tRep.toNat, h.gRep.toNat) })
      (by split; exacts [dropFrame_cal s sd, rfl])
    obtain ⟨hraise, hclear, hquiet⟩ := checkTemperature_eq _ sd h
    rw [hlimit] at hraise hclear hquiet
  case refine_1 => exact hraise ht
  case refine_2 => exact hclear ht
  case refine_3 => exact hquiet ht1 ht2

/-! ### The lines of a frame (R6) -/

theorem takeLine_idle {s : State} {sd : Side} (i : BitVec 16) (px : List Byte) (crc : BitVec 16)
    (h : (s.side sd).clr.locked = false ∨ (s.side sd).clr.frame.state ≠ .receiving) : takeLine sd i px crc s = s := by
  unfold takeLine
  dsimp only
  rcases h with hl | hr
  · exact if_pos (by simp [hl])
  · split
    · rfl
    · cases hstate : (s.side sd).clr.frame.state
      · rfl
      · exact absurd hstate hr
      · rfl

theorem takeLine_open {s : State} {sd : Side} (i : BitVec 16) (px : List Byte) (crc : BitVec 16)
    (hl : (s.side sd).clr.locked = true) (hr : (s.side sd).clr.frame.state = .receiving) : takeLine sd i px crc s =
      if Config.lines ≤ (s.side sd).clr.frame.nextLine then discardFrame sd (dropFrame sd s)
      else if crc ≠ lineCrc i px then s.modClr sd fun c => { c with frame := takeBadLine (pixelsOfBytes px) c.frame }
      else if i.toNat = (s.side sd).clr.frame.nextLine then
        s.modClr sd fun c => { c with frame := takeGoodLine (pixelsOfBytes px) c.frame }
      else discardFrame sd (dropFrame sd s) := by
  unfold takeLine
  dsimp only
  rw [if_neg (by simp [hl]), hr]

/-- Settles O22: a line counted bad, taken in order, or dropping the frame; none where no frame is open. -/
theorem lineTaken : Obligations.LineTaken := by
  rintro s sd i px crc f hrun rfl
  refine ⟨fun h => next_whileRunning hrun (takeLine_idle i px crc h), fun hl hr => ⟨fun hlt hbad => ?_,
    fun hlt hgood hi => ?_, fun hout => ?_⟩⟩
  all_goals refine next_whileRunning hrun ((takeLine_open i px crc hl hr).trans ?_)
  · have hin : ¬ Config.lines ≤ (s.side sd).clr.frame.nextLine := Nat.not_le.2 hlt
    rw [if_neg hin, if_pos hbad]
    exact modClr_congr s sd rfl
  · have hin : ¬ Config.lines ≤ (s.side sd).clr.frame.nextLine := Nat.not_le.2 hlt
    rw [if_neg hin, if_neg (not_not_intro hgood), if_pos hi]
    exact modClr_congr s sd rfl
  · by_cases hlt : Config.lines ≤ (s.side sd).clr.frame.nextLine
    · exact if_pos hlt
    · obtain ⟨hgood, hi⟩ := hout.resolve_left hlt
      rw [if_neg hlt, if_neg (not_not_intro hgood), if_neg hi]
      rfl

end Sys2Proof.Machine


/-! PROOF. The end of a frame (R7 to R13, R36 to R38): O23. -/

namespace Sys2Proof.Machine

/-! ### The acceptance of a frame before and after its header report (R10 to R12, R36) -/

/-- The state of an accepted frame before its continuity check. -/
def beforeContinuity (sd : Side) (s : State) : State :=
  pushWindow sd (s.side sd).clr.frame.badCount (s.modClr sd fun c =>
    { c with framesAccepted := c.framesAccepted + 1
             linesRepaired := c.linesRepaired + BitVec.ofNat 32 (s.side sd).clr.frame.badCount })

/-- The state at the header report of an accepted frame: the counters, the window and the continuity check taken. -/
def beforeReport (sd : Side) (h : Header) (s : State) : State :=
  checkContinuity sd h.frameNumber (beforeContinuity sd s)

/-- The state after the header report of an accepted frame. -/
def afterReport (sd : Side) (h : Header) (s : State) : State :=
  headerReport sd h.frameNumber h.appliedTag h.tRep.toNat h.gRep.toNat (beforeReport sd h s)

theorem acceptFrame_eq (sd : Side) (h : Header) (s : State) : acceptFrame sd h s =
    handCamera sd (.accepted (acceptedFrame h (s.side sd).clr.frame)) (afterReport sd h s) := rfl

/-- A frame continues the last accepted one, or is the first (R11). -/
def Continuous (c : Clr) (n : FrameNumber) : Prop := c.lastAccepted = none ∨ c.lastAccepted = some (n - 1)

theorem not_continuous {c : Clr} {n : FrameNumber} (h : ¬ Continuous c n) :
    ∃ last, c.lastAccepted = some last ∧ last ≠ n - 1 := by
  obtain ⟨hfirst, hnext⟩ := not_or.1 h
  obtain ⟨last, hlast⟩ := Option.ne_none_iff_exists'.1 hfirst
  exact ⟨last, hlast, fun he => hnext (he ▸ hlast)⟩

theorem Continuous.of_last {c : Clr} {n last : FrameNumber} (h : Continuous c n) (hl : c.lastAccepted = some last) :
    last = n - 1 := by
  rcases h with h | h
  · simp [hl] at h
  · exact Option.some.inj (hl.symm.trans h)

section Accept
variable (sd : Side) (h : Header) (s : State)

theorem beforeContinuity_same : SameButReports (s.modClr sd fun c =>
    { c with framesAccepted := c.framesAccepted + 1
             linesRepaired := c.linesRepaired + BitVec.ofNat 32 (s.side sd).clr.frame.badCount
             window := pushCount c.window (s.side sd).clr.frame.badCount }) (beforeContinuity sd s) := by
  have hpush := pushWindow_same (s.modClr sd fun c =>
    { c with framesAccepted := c.framesAccepted + 1
             linesRepaired := c.linesRepaired + BitVec.ofNat 32 (s.side sd).clr.frame.badCount }) sd
    (s.side sd).clr.frame.badCount
  rwa [modClr_modClr] at hpush

theorem beforeContinuity_clr : ((beforeContinuity sd s).side sd).clr = { (s.side sd).clr with
    framesAccepted := (s.side sd).clr.framesAccepted + 1
    linesRepaired := (s.side sd).clr.linesRepaired + BitVec.ofNat 32 (s.side sd).clr.frame.badCount
    window := pushCount (s.side sd).clr.window (s.side sd).clr.frame.badCount } := by
  rw [(beforeContinuity_same sd s).side_eq sd, modClr_side_clr]

theorem beforeContinuity_find {c : FaultCode} (hc : c ≠ .captureLost) (hl : .lineCrc ≠ c) (x : FaultSide) :
    findRecord (beforeContinuity sd s).table c x = findRecord s.table c x := by
  rw [beforeContinuity, pushWindow_find _ _ _ _ _ hc hl, modClr_table]

/-- R13: the record of LINE_CRC by the sum of the window. -/
theorem beforeContinuity_lineCrc {w : List Nat}
    (hw : w = pushCount (s.side sd).clr.window (s.side sd).clr.frame.badCount) :
    (s.cal.integrity.crcLimit ≤ w.sum → findRecord (beforeContinuity sd s).table .lineCrc (faultSideOf sd) =
        findRecord (tableRaise s.table .lineCrc (faultSideOf sd) (BitVec.ofNat 16 (min w.sum 65535)) s.time)
          .lineCrc (faultSideOf sd))
      ∧ (w.sum < s.cal.integrity.crcLimit → w.sum < s.cal.integrity.crcLimit / 2 →
        quietKey .lineCrc (faultSideOf sd) (beforeContinuity sd s).table)
      ∧ (w.sum < s.cal.integrity.crcLimit → s.cal.integrity.crcLimit / 2 ≤ w.sum →
        findRecord (beforeContinuity sd s).table .lineCrc (faultSideOf sd)
          = findRecord s.table .lineCrc (faultSideOf sd)) := by
  obtain ⟨hraise, hclear, hquiet⟩ := pushWindow_eq (s.modClr sd fun c =>
    { c with framesAccepted := c.framesAccepted + 1
             linesRepaired := c.linesRepaired + BitVec.ofNat 32 (s.side sd).clr.frame.badCount }) sd
    (s.side sd).clr.frame.badCount (w := w) (by rw [hw, modClr_side_clr]) rfl
  rw [modClr_cal] at hraise hclear hquiet
  unfold beforeContinuity
  refine ⟨fun hsum => ?_, fun h1 h2 => ?_, fun h1 h2 => ?_⟩
  · rw [hraise hsum, sendRaise_find _ _ _ _ (by decide)]
    simp
  · rw [hclear h1 h2]
    exact tableClear_quiet _ _ _ _
  · rw [hquiet h1 h2]
    simp

/-! ### The continuity check (R11, R12) -/

theorem checkContinuity_continuous {u : State} {n : FrameNumber} (hc : Continuous (u.side sd).clr n) :
    checkContinuity sd n u = (countContinuous sd u).modClr sd fun c => { c with lastAccepted := some n } := by
  unfold checkContinuity
  dsimp only
  rcases hc with hc | hc
  · rw [hc]
  · rw [hc]
    dsimp only
    rw [if_pos (by simp)]

theorem checkContinuity_gap {u : State} {n last : FrameNumber} (hl : (u.side sd).clr.lastAccepted = some last)
    (hne : last ≠ n - 1) : checkContinuity sd n u = (sendRaise .seqError (faultSideOf sd) (n - (last + 1))
        (u.modClr sd fun c => { c with seqGaps := c.seqGaps + (n - (last + 1)).setWidth 32, contRun := 0 })).modClr sd
          fun c => { c with lastAccepted := some n } := by
  unfold checkContinuity
  dsimp only
  rw [hl]
  dsimp only
  rw [if_neg fun he => hne (by rw [he]; simp)]

theorem checkContinuity_find {u : State} {n : FrameNumber} {c : FaultCode} (hc : c ≠ .captureLost)
    (hs : .seqError ≠ c) (x : FaultSide) :
    findRecord (checkContinuity sd n u).table c x = findRecord u.table c x := by
  by_cases hcont : Continuous (u.side sd).clr n
  · rw [checkContinuity_continuous sd hcont, modClr_table, countContinuous]
    split
    · exact (findRecord_clear_other _ _ _ _ _ _ hs).trans (by simp)
    · simp
  · obtain ⟨last, hl, hne⟩ := not_continuous hcont
    rw [checkContinuity_gap sd hl hne, modClr_table, sendRaise_find_other _ _ _ _ _ _ hc hs, modClr_table]

theorem checkContinuity_seqError {u : State} {n : FrameNumber} :
    (Continuous (u.side sd).clr n →
        ((u.side sd).clr.contRun = 59 → quietKey .seqError (faultSideOf sd) (checkContinuity sd n u).table)
          ∧ ((u.side sd).clr.contRun ≠ 59 → findRecord (checkContinuity sd n u).table .seqError (faultSideOf sd)
            = findRecord u.table .seqError (faultSideOf sd)))
      ∧ ∀ last, (u.side sd).clr.lastAccepted = some last → last ≠ n - 1 →
        activeKey .seqError (faultSideOf sd) (checkContinuity sd n u).table
          ∧ findRecord (checkContinuity sd n u).table .seqError (faultSideOf sd) = findRecord
            (tableRaise u.table .seqError (faultSideOf sd) (n - (last + 1)) u.time) .seqError (faultSideOf sd) := by
  refine ⟨fun hcont => ?_, fun last hl hne => ?_⟩
  · rw [checkContinuity_continuous sd hcont, modClr_table, countContinuous]
    refine ⟨fun hrun => ?_, fun hrun => ?_⟩
    · rw [if_pos hrun]
      exact tableClear_quiet _ _ _ _
    · rw [if_neg hrun, modClr_table]
  · rw [checkContinuity_gap sd hl hne, modClr_table]
    refine ⟨sendRaise_active _ _ _ _ (by decide), ?_⟩
    rw [sendRaise_find _ _ _ _ (by decide), modClr_table, modClr_time]

/-- R10 to R12: what the acceptance changes before the header report, beyond reports. -/
theorem beforeReport_same : ∃ run gaps,
    SameButReports (s.modClr sd (acceptedClr h.frameNumber (s.side sd).clr.frame.badCount run gaps))
        (beforeReport sd h s)
      ∧ (Continuous (s.side sd).clr h.frameNumber →
        run = min ((s.side sd).clr.contRun + 1) 60 ∧ gaps = (s.side sd).clr.seqGaps)
      ∧ ∀ last, (s.side sd).clr.lastAccepted = some last → last ≠ h.frameNumber - 1 →
        run = 0 ∧ gaps = (s.side sd).clr.seqGaps + (h.frameNumber - (last + 1)).setWidth 32 := by
  obtain ⟨hnext, hgap⟩ := checkContinuity_same (beforeContinuity sd s) sd h.frameNumber _ rfl
  have hlast : ((beforeContinuity sd s).side sd).clr.lastAccepted = (s.side sd).clr.lastAccepted := by
    rw [beforeContinuity_clr]
  rw [hlast] at hnext hgap
  by_cases hcont : Continuous (s.side sd).clr h.frameNumber
  · refine ⟨min ((s.side sd).clr.contRun + 1) 60, (s.side sd).clr.seqGaps, ?_, fun _ => ⟨rfl, rfl⟩,
      fun last hl hne => absurd (hcont.of_last hl) hne⟩
    have hsame := ((beforeContinuity_same sd s).modClr sd _).trans (hnext hcont)
    rw [modClr_modClr] at hsame
    exact modClr_congr s sd (g := acceptedClr _ _ _ _) rfl ▸ hsame
  · obtain ⟨last, hl, hne⟩ := not_continuous hcont
    refine ⟨0, (s.side sd).clr.seqGaps + (h.frameNumber - (last + 1)).setWidth 32, ?_,
      fun hc => absurd hc hcont, fun last' hl' _ => ?_⟩
    · have hsame := ((beforeContinuity_same sd s).modClr sd _).trans (hgap last hl hne)
      rw [modClr_modClr] at hsame
      exact modClr_congr s sd (g := acceptedClr _ _ _ _) rfl ▸ hsame
    · obtain rfl : last = last' := Option.some.inj (hl.symm.trans hl')
      exact ⟨rfl, rfl⟩

theorem beforeReport_find {c : FaultCode} (hc : c ≠ .captureLost) (hs : .seqError ≠ c) (hl : .lineCrc ≠ c)
    (x : FaultSide) : findRecord (beforeReport sd h s).table c x = findRecord s.table c x := by
  rw [beforeReport, checkContinuity_find sd hc hs, beforeContinuity_find sd s hc hl]

theorem beforeReport_time : (beforeReport sd h s).time = s.time := by
  obtain ⟨run, gaps, ⟨-, -, -, -, -, htime, -⟩, -⟩ := beforeReport_same sd h s
  exact htime.trans (modClr_time s sd _)

theorem beforeReport_expo : ((beforeReport sd h s).side sd).expo = (s.side sd).expo := by
  obtain ⟨run, gaps, hsame, -⟩ := beforeReport_same sd h s
  rw [hsame.side_eq sd, modClr_side_expo]

/-- R11, R12: the record of SEQ_ERROR after the continuity check of a frame. -/
theorem beforeReport_seqError :
    (Continuous (s.side sd).clr h.frameNumber →
        ((s.side sd).clr.contRun = 59 → quietKey .seqError (faultSideOf sd) (beforeReport sd h s).table)
          ∧ ((s.side sd).clr.contRun ≠ 59 → findRecord (beforeReport sd h s).table .seqError (faultSideOf sd)
            = findRecord s.table .seqError (faultSideOf sd)))
      ∧ ∀ last, (s.side sd).clr.lastAccepted = some last → last ≠ h.frameNumber - 1 →
        activeKey .seqError (faultSideOf sd) (beforeReport sd h s).table
          ∧ findRecord (beforeReport sd h s).table .seqError (faultSideOf sd) = findRecord (tableRaise s.table .seqError
            (faultSideOf sd) (h.frameNumber - (last + 1)) s.time) .seqError (faultSideOf sd) := by
  obtain ⟨hnext, hgap⟩ := checkContinuity_seqError sd (u := beforeContinuity sd s) (n := h.frameNumber)
  have hfind := beforeContinuity_find sd s (c := .seqError) (by decide) (by decide) (faultSideOf sd)
  have htime : (beforeContinuity sd s).time = s.time := by
    obtain ⟨-, -, -, -, -, htime, -⟩ := beforeContinuity_same sd s
    exact htime.trans (modClr_time s sd _)
  rw [beforeContinuity_clr] at hnext hgap
  refine ⟨fun hc => ?_, fun last hl hne => ?_⟩
  · obtain ⟨hquiet, hkept⟩ := hnext hc
    exact ⟨hquiet, fun h => (hkept h).trans hfind⟩
  · obtain ⟨hactive, hraise⟩ := hgap last hl hne
    rw [htime] at hraise
    exact ⟨hactive, hraise.trans (findRecord_raise_congr _ _ _ _ _ _ hfind)⟩

/-! ### The header report (R36 to R38) -/

/-- What the acceptance of a frame changes, beyond reports, up to the hand-off. -/
theorem afterReport_same : ∃ run gaps list tracked,
    SameButReports ((s.modClr sd (acceptedClr h.frameNumber (s.side sd).clr.frame.badCount run gaps)).modExpo sd
        fun x => { x with commands := list, confirmedRun := tracked, lastReported := some h.appliedTag })
        (afterReport sd h s)
      ∧ (Continuous (s.side sd).clr h.frameNumber →
        run = min ((s.side sd).clr.contRun + 1) 60 ∧ gaps = (s.side sd).clr.seqGaps)
      ∧ ∀ last, (s.side sd).clr.lastAccepted = some last → last ≠ h.frameNumber - 1 →
        run = 0 ∧ gaps = (s.side sd).clr.seqGaps + (h.frameNumber - (last + 1)).setWidth 32 := by
  obtain ⟨run, gaps, hsame, hrun⟩ := beforeReport_same sd h s
  obtain ⟨list, tracked, hreport⟩ :=
    headerReport_same (beforeReport sd h s) sd h.frameNumber h.appliedTag h.tRep.toNat h.gRep.toNat
  exact ⟨run, gaps, list, tracked, (hsame.modExpo sd _).trans hreport, hrun⟩

theorem afterReport_find {c : FaultCode} (hc : c ≠ .captureLost) (he : .exposureTrack ≠ c) (x : FaultSide) :
    findRecord (afterReport sd h s).table c x = findRecord (beforeReport sd h s).table c x :=
  headerReport_find _ _ _ _ _ _ _ _ hc he

/-- R36 to R38: the pending list, the run and the record of EXPOSURE_TRACK after the header report. -/
theorem afterReport_tracks {older newer : List PendingCommand} {found : Option PendingCommand}
    (hcut : CutAt h.appliedTag (s.side sd).expo.commands older newer found) :
    ((afterReport sd h s).side sd).expo.commands = newer.filter (fun e => decide ¬ LateAt h.frameNumber e)
      ∧ ((∃ e ∈ newer, LateAt h.frameNumber e) → ((afterReport sd h s).side sd).expo.confirmedRun = 0
          ∧ activeKey .exposureTrack (faultSideOf sd) (afterReport sd h s).table)
      ∧ ((∀ e ∈ newer, ¬ LateAt h.frameNumber e) →
        Judged sd (s.side sd).expo found h.tRep.toNat h.gRep.toNat s (afterReport sd h s)) := by
  have hexpo := beforeReport_expo sd h s
  have hfind := beforeReport_find sd h s (c := .exposureTrack) (by decide) (by decide) (by decide) (faultSideOf sd)
  have htime := beforeReport_time sd h s
  rw [← hexpo] at hcut
  obtain ⟨hlist, hlate, hjudged⟩ := headerReport_spec _ _ sd h.frameNumber h.appliedTag h.tRep.toNat h.gRep.toNat
    older newer found hcut (rfl : afterReport sd h s = _)
  refine ⟨hlist, hlate, fun hin => ?_⟩
  obtain ⟨hnone, hwrong, hright⟩ := hjudged hin
  rw [hexpo] at hnone hright
  rw [hfind] at hnone hright
  refine ⟨hnone, fun e he hne => ?_, hright⟩
  obtain ⟨hrun, hraise⟩ := hwrong e he hne
  rw [htime] at hraise
  exact ⟨hrun, hraise.trans (findRecord_raise_congr _ _ _ _ _ _ hfind)⟩

/-! ### The frame handed on and the record closed (R7, R10) -/

/-- The state at the end of an accepted frame. -/
def endAccepted : State := closeFrame sd (acceptFrame sd h s)

theorem endAccepted_table : (endAccepted sd h s).table = (afterReport sd h s).table := by
  rw [endAccepted, closeFrame, modClr_table, acceptFrame_eq, handCamera, modSide_table]

theorem endAccepted_expo : ((endAccepted sd h s).side sd).expo = ((afterReport sd h s).side sd).expo := by
  rw [endAccepted, closeFrame, modClr_side_expo, acceptFrame_eq, handCamera_side]

theorem endAccepted_elsewhere : SameElsewhere sd s (endAccepted sd h s) := by
  obtain ⟨run, gaps, list, tracked, hsame, -⟩ := afterReport_same sd h s
  rw [endAccepted, closeFrame, acceptFrame_eq, handCamera]
  exact (((((SameElsewhere.refl sd s).modSide _).modSide _).same hsame).modSide _).modSide _

/-- The side's blocks at the end of an accepted frame. -/
theorem endAccepted_side : ∃ run gaps list tracked r,
    (endAccepted sd h s).side sd = { s.side sd with
        clr := { acceptedClr h.frameNumber (s.side sd).clr.frame.badCount run gaps (s.side sd).clr with
          frame := idleFrame }
        expo := { (s.side sd).expo with commands := list, confirmedRun := tracked, lastReported := some h.appliedTag }
        recorder := r
        inputs := (s.side sd).inputs ++ if (s.side sd).testFlag then []
          else [.accepted (acceptedFrame h (s.side sd).clr.frame)] }
      ∧ (Continuous (s.side sd).clr h.frameNumber →
        run = min ((s.side sd).clr.contRun + 1) 60 ∧ gaps = (s.side sd).clr.seqGaps)
      ∧ ∀ last, (s.side sd).clr.lastAccepted = some last → last ≠ h.frameNumber - 1 →
        run = 0 ∧ gaps = (s.side sd).clr.seqGaps + (h.frameNumber - (last + 1)).setWidth 32 := by
  obtain ⟨run, gaps, list, tracked, hsame, hrun⟩ := afterReport_same sd h s
  refine ⟨run, gaps, list, tracked, ((afterReport sd h s).side sd).recorder, ?_, hrun⟩
  rw [endAccepted, closeFrame, State.modClr, modSide_side, acceptFrame_eq, handCamera_side, hsame.side_eq sd,
    State.modExpo, modSide_side, State.modClr, modSide_side]

theorem takeFrameEnd_accepted {n : BitVec 16} {s : State} {h : Header} (hl : (s.side sd).clr.locked = true)
    (hr : (s.side sd).clr.frame.state = .receiving) (hh : (s.side sd).clr.frame.header = some h)
    (hok : frameComplete s.cal.integrity.lineRepairMax n (s.side sd).clr.frame = true) :
    takeFrameEnd sd n s = endAccepted sd h s := by
  unfold takeFrameEnd
  dsimp only
  rw [if_neg (by simp [hl]), hr, hh]
  exact if_pos hok

theorem frameComplete_iff (limit : Nat) (n : BitVec 16) (f : FrameInProgress) : frameComplete limit n f = true ↔
    f.nextLine = 1440 ∧ n.toNat = 1440 ∧ f.badCount ≤ limit := by
  simp only [frameComplete, Bool.and_eq_true, decide_eq_true_eq, and_assoc]
  rfl

end Accept

/-- Settles O23: the frame closed, dropped or accepted; an accepted one counts, continues, reports its header and is
handed on. -/
theorem frameEndDecides : Obligations.FrameEndDecides := by
  rintro s sd n c f h hrun rfl rfl
  refine ⟨fun hl => next_whileRunning hrun (if_pos (by simp [hl])), fun hl => ⟨fun hidle => next_whileRunning hrun ?_,
    fun hdisc => next_whileRunning hrun ?_, fun hr hh hbad => next_whileRunning hrun ?_,
    fun hr hh hwin hcount hok => ?_⟩⟩
  · unfold takeFrameEnd
    dsimp only
    rw [if_neg (by simp [hl]), hidle]
  · unfold takeFrameEnd
    dsimp only
    rw [if_neg (by simp [hl]), hdisc]
    rfl
  · unfold takeFrameEnd
    dsimp only
    rw [if_neg (by simp [hl]), hr, hh]
    exact if_neg fun h => hbad ((frameComplete_iff _ _ _).1 h)
  · have hexec := next_whileRunning hrun (takeFrameEnd_accepted sd hl hr hh ((frameComplete_iff _ _ _).2 hok))
    obtain ⟨run, gaps, list, tracked, r, hside, hnext, hgap⟩ := endAccepted_side sd h s
    obtain ⟨hseqNext, hseqGap⟩ := beforeReport_seqError sd h s
    have hwindow := pushCount_eq _ (s.side sd).clr.frame.badCount hwin
    obtain ⟨hcrcRaise, hcrcClear, hcrcKept⟩ := beforeContinuity_lineCrc sd s rfl
    refine ⟨endAccepted sd h s, _, hexec, rfl, ?_⟩
    have hexpo : ((afterReport sd h s).side sd).expo =
        { (s.side sd).expo with commands := list, confirmedRun := tracked, lastReported := some h.appliedTag } := by
      rw [← endAccepted_expo, hside]
    have hseq := afterReport_find sd h s (c := .seqError) (by decide) (by decide) (faultSideOf sd)
    have hcrc := (afterReport_find sd h s (c := .lineCrc) (by decide) (by decide) (faultSideOf sd)).trans
      (checkContinuity_find sd (u := beforeContinuity sd s) (n := h.frameNumber) (c := .lineCrc) (by decide)
        (by decide) (faultSideOf sd))
    rw [endAccepted_table, hside, hseq, hcrc]
    refine ⟨rfl, rfl, rfl, hwindow, rfl, rfl, hnext, fun last hlast hne => ?_, fun hc => ?_, ?_, ?_, ⟨list, tracked, rfl⟩,
      ?_, rfl, rfl, rfl, rfl, hl, rfl, rfl, rfl, rfl, rfl, rfl, endAccepted_elsewhere sd h s⟩
    · obtain ⟨hrun0, hgaps⟩ := hgap last hlast hne
      exact ⟨hrun0, hgaps, hseqGap last hlast hne⟩
    · exact hseqNext hc
    · exact hcrcRaise
    · intro hsum
      exact ⟨hcrcClear hsum, hcrcKept hsum⟩
    · rintro x older newer found rfl hall hbefore hhere hnowhere
      obtain ⟨hlist, hlate, hjudged⟩ := afterReport_tracks sd h s ⟨hall, hbefore, hhere, hnowhere⟩
      unfold Judged at hjudged
      rw [hexpo] at hlist hlate hjudged
      exact ⟨hlist, hlate, hjudged⟩

end Sys2Proof.Machine


/-! PROOF. The repair of bad lines (R8): O24. -/

namespace Sys2Proof.Machine

section Repair
variable {bad : List Nat}

theorem repairLine_length (rows : List (List Pixel)) (i : Nat) : (repairLine bad rows i).length = rows.length :=
  List.length_set

theorem repairLine_other {rows : List (List Pixel)} {i k : Nat} (h : k ≠ i) : (repairLine bad rows i)[k]? = rows[k]? :=
  List.getElem?_set_ne h.symm

/-- A repaired line is the line it is taken from. -/
theorem repairLine_at {rows : List (List Pixel)} {i : Nat} (hi : i < rows.length)
    (hg : nearestGood bad < rows.length) :
    (repairLine bad rows i)[i]? = rows[if i = 0 then nearestGood bad else i - 1]? := by
  have hsrc : (if i = 0 then nearestGood bad else i - 1) < rows.length := by
    split
    · exact hg
    · omega
  rw [repairLine, List.getElem?_set_self hi, List.getElem?_eq_getElem hsrc, List.getD_eq_getElem _ _ hsrc]

theorem foldl_repairLine_length (l : List Nat) (rows : List (List Pixel)) :
    (l.foldl (repairLine bad) rows).length = rows.length := by
  induction l generalizing rows with
  | nil => rfl
  | cons a l ih => exact (ih _).trans (repairLine_length rows a)

theorem foldl_repairLine_other {l : List Nat} {rows : List (List Pixel)} {k : Nat} (h : k ∉ l) :
    (l.foldl (repairLine bad) rows)[k]? = rows[k]? := by
  induction l generalizing rows with
  | nil => rfl
  | cons a l ih =>
    obtain ⟨hne, hk⟩ := not_or.1 (mt List.mem_cons.2 h)
    exact (ih hk).trans (repairLine_other hne)

/-- Lines repaired in ascending order: a line is not touched again, nor is the one above it. -/
theorem foldl_repairLine_at {l : List Nat} {rows : List (List Pixel)} (hl : l.Pairwise (· < ·))
    (hin : ∀ i ∈ l, i < rows.length) (hg : nearestGood bad < rows.length) :
    (∀ k, k + 1 ∈ l → (l.foldl (repairLine bad) rows)[k + 1]? = (l.foldl (repairLine bad) rows)[k]?)
      ∧ (0 ∈ l → (l.foldl (repairLine bad) rows)[0]? = rows[nearestGood bad]?) := by
  induction l generalizing rows with
  | nil => exact ⟨fun _ h => absurd h List.not_mem_nil, fun h => absurd h List.not_mem_nil⟩
  | cons a l ih =>
    obtain ⟨ha, hl⟩ := List.pairwise_cons.1 hl
    have hlater {k : Nat} (hk : k ≤ a) : k ∉ l := fun h => absurd (ha k h) (Nat.not_lt.2 hk)
    obtain ⟨ihabove, -⟩ := ih hl (rows := repairLine bad rows a)
      (fun i hi => repairLine_length (bad := bad) rows a ▸ hin i (List.mem_cons_of_mem a hi))
      (repairLine_length (bad := bad) rows a ▸ hg)
    have hat := repairLine_at (bad := bad) (hin a List.mem_cons_self) hg
    rw [List.foldl_cons]
    refine ⟨fun k hk => ?_, fun h0 => ?_⟩
    · rcases List.mem_cons.1 hk with rfl | hk
      · rw [foldl_repairLine_other (hlater le_rfl), foldl_repairLine_other (hlater (Nat.le_succ k)), hat,
          repairLine_other (Nat.succ_ne_self k).symm]
        rfl
      · exact ihabove k hk
    · obtain rfl : 0 = a := (List.mem_cons.1 h0).resolve_right (hlater (Nat.zero_le a))
      rw [foldl_repairLine_other (hlater le_rfl), hat]
      rfl

/-- Among 1440 lines with at most 16 bad ones there is a good line below line 0. -/
theorem nearestGood_spec (hlen : bad.length ≤ 16) : 0 < nearestGood bad ∧ nearestGood bad < 1440
    ∧ nearestGood bad ∉ bad ∧ ∀ k, 0 < k → k < nearestGood bad → k ∈ bad := by
  have hrange : (List.range Config.lines).drop 1 = List.range' 1 1439 := by
    rw [List.range_eq_range', List.drop_range']
    rfl
  unfold nearestGood
  rw [hrange]
  cases hfind : (List.range' 1 1439).find? fun j => !bad.contains j with
  | none =>
    have hsub : List.range' 1 1439 ⊆ bad := fun j hj => by simpa using List.find?_eq_none.1 hfind j hj
    have := ((List.nodup_range' (s := 1) (n := 1439)).subperm hsub).length_le
    rw [List.length_range'] at this
    omega
  | some j =>
    obtain ⟨hgood, hmem, hbefore⟩ := List.find?_range'_eq_some.1 hfind
    rw [List.mem_range'_1] at hmem
    refine ⟨hmem.1, hmem.2, by simpa using hgood, fun k hk hkj => by simpa using hbefore k hk hkj⟩

end Repair

/-- Settles O24: each bad line ends equal to the line above it, and line 0 to the nearest good line below. -/
theorem repairTopToBottom : Obligations.RepairTopToBottom := by
  intro bad rows hsorted hin hlen hrows
  obtain ⟨hpos, hlt, hgood, hbefore⟩ := nearestGood_spec hlen
  obtain ⟨habove, hfirst⟩ := foldl_repairLine_at (bad := bad) hsorted hin (hrows ▸ hlt)
  refine ⟨_, rfl, (foldl_repairLine_length bad rows).trans hrows, fun i hi => foldl_repairLine_other hi, habove,
    fun h0 => ⟨nearestGood bad, hpos, hlt, hgood, fun k hk => ?_, hfirst h0⟩⟩
  rcases Nat.eq_zero_or_pos k with rfl | hk0
  · exact h0
  · exact hbefore k hk0 hk

end Sys2Proof.Machine


/-! PROOF. Tile statistics, metering, the exposure requested and its split, and the tag of a command (R27, R30 to R32,
R35): O31. -/

namespace Sys2Proof.Machine

/-! ### The exposure requested and its split (R31, R32) -/

/-- The integration times the gains that a split takes fit the exposure, and no larger gain does. -/
theorem split_fits {k : ImageCal} {e t g : Nat} (hmin : 16 ≤ k.eMin) (htmax : 1 ≤ k.tMax) (he : k.eMin ≤ e)
    (ht : t = clampNat (e / 16) 1 k.tMax) (hg : g = clampNat (e / t) 16 256) :
    1 ≤ t ∧ t ≤ k.tMax ∧ 16 ≤ g ∧ g ≤ 256 ∧ t * g ≤ e ∧ (g ≠ 256 → e < t * g + t) := by
  rw [clampNat_eq _ _ _ htmax] at ht
  rw [clampNat_eq _ _ _ (by omega)] at hg
  have ht1 : 1 ≤ t := ht ▸ le_max_left _ _
  have ht16 : t * 16 ≤ e := by
    have : t ≤ e / 16 := by omega
    omega
  have hquot : 16 ≤ e / t := (Nat.le_div_iff_mul_le ht1).2 (by omega)
  have hgq : g ≤ e / t := by omega
  refine ⟨ht1, by omega, by omega, by omega, ?_, fun hne => ?_⟩
  · exact (Nat.mul_le_mul_left t hgq).trans (Nat.mul_div_le e t)
  · obtain rfl : g = e / t := by omega
    exact Nat.lt_mul_div_succ e ht1

theorem splitExposure_spec {k : ImageCal} {e t g : Nat} (hmin : 16 ≤ k.eMin) (hmax : k.eMin ≤ 256)
    (htmax : 1 ≤ k.tMax) (he : k.eMin ≤ e) (h : (t, g) = splitExposure k e) :
    1 ≤ t ∧ t ≤ k.tMax ∧ 16 ≤ g ∧ g ≤ 256 ∧ k.eMin ≤ t * g ∧ t * g ≤ e
      ∧ (g ≠ 256 → ¬ (t = 1 ∧ g = k.eMin) → e < t * g + t) := by
  obtain ⟨h1, h2, h3, h4, h5, h6⟩ := split_fits hmin htmax he rfl rfl
  unfold splitExposure at h
  dsimp only at h
  split at h
  · obtain ⟨rfl, rfl⟩ := Prod.mk.inj h
    exact ⟨le_rfl, htmax, hmin, hmax, by omega, by omega, fun _ hn => absurd ⟨rfl, rfl⟩ hn⟩
  next hlow =>
    obtain ⟨rfl, rfl⟩ := Prod.mk.inj h
    exact ⟨h1, h2, h3, h4, Nat.not_lt.1 hlow, h5, fun hg _ => h6 hg⟩

/-! ### The tag of a command (R35) -/

theorem tagTaken_iff (x : Exposure) (tag : BitVec 4) : tagTaken x tag = true ↔
    x.lastReported = some (tag.setWidth 8) ∨ ∃ e ∈ x.commands, e.tag = tag := by
  simp [tagTaken]

/-- The tags that may not be issued: at most one more than there are pending entries. -/
theorem taken_mem {x : Exposure} {tag : BitVec 4} (h : tagTaken x tag = true) :
    tag ∈ (x.lastReported.map (·.setWidth 4)).toList ++ x.commands.map (·.tag) := by
  rw [tagTaken_iff] at h
  rw [List.mem_append]
  refine h.imp (fun hr => ?_) fun ⟨e, he, ht⟩ => List.mem_map.2 ⟨e, he, ht⟩
  have hback : (tag.setWidth 8).setWidth 4 = tag := by
    rw [BitVec.setWidth_setWidth_of_le tag (by omega), BitVec.setWidth_eq]
  simp [hr, hback]

/-- The sixteen tags in the order in which R35 tries them. -/
theorem candidates_nodup (first : BitVec 4) : ((List.range 16).map fun i => first + BitVec.ofNat 4 i).Nodup := by
  refine (List.nodup_map_iff_inj_on List.nodup_range).2 fun i hi j hj h => ?_
  rw [List.mem_range] at hi hj
  have := congrArg BitVec.toNat (add_left_cancel h)
  simpa [Nat.mod_eq_of_lt hi, Nat.mod_eq_of_lt hj] using this

/-- R35: with at most four entries pending one of the sixteen tags is free, and the first of them is taken. -/
theorem nextTag_spec {x : Exposure} (hx : x.commands.length ≤ 4) : ∃ i, i < 16
    ∧ nextTag x = x.lastIssued + 1 + BitVec.ofNat 4 i ∧ tagTaken x (nextTag x) = false
    ∧ ∀ j, j < i → tagTaken x (x.lastIssued + 1 + BitVec.ofNat 4 j) = true := by
  unfold nextTag
  dsimp only
  rw [List.find?_map]
  cases hfind : (List.range 16).find? ((fun t => !tagTaken x t) ∘ fun i => x.lastIssued + 1 + BitVec.ofNat 4 i) with
  | none =>
    have hsub : ((List.range 16).map fun i => x.lastIssued + 1 + BitVec.ofNat 4 i)
        ⊆ (x.lastReported.map (·.setWidth 4)).toList ++ x.commands.map (·.tag) := by
      intro tag htag
      obtain ⟨i, hi, rfl⟩ := List.mem_map.1 htag
      exact taken_mem (by simpa using List.find?_eq_none.1 hfind i hi)
    have hlen := ((candidates_nodup (x.lastIssued + 1)).subperm hsub).length_le
    have hone : (x.lastReported.map (·.setWidth 4) : Option (BitVec 4)).toList.length ≤ 1 := by
      cases x.lastReported <;> simp
    simp only [List.length_map, List.length_range, List.length_append] at hlen
    omega
  | some i =>
    obtain ⟨hfree, hmem, hbefore⟩ := List.find?_range_eq_some.1 hfind
    rw [List.mem_range] at hmem
    exact ⟨i, hmem, rfl, by simpa using hfree, fun j hj => by simpa using hbefore j hj⟩

/-! ### Tile statistics (R27) -/

/-- Members of a list from a place on, read one by one. -/
theorem take_drop_eq {α : Type} {l : List α} {a n : Nat} (d : α) (h : a + n ≤ l.length) :
    (l.drop a).take n = (List.range n).map fun i => l.getD (a + i) d := by
  refine List.ext_getElem (by simp; omega) fun i h1 h2 => ?_
  have hi : i < n := by simpa using h2
  rw [List.getElem_take, List.getElem_drop, List.getElem_map, List.getElem_range,
    List.getD_eq_getElem _ _ (by omega)]

/-- The pixels of a tile, by column and row of the sensor. -/
theorem tileLuminances_eq {rows : List (List Pixel)} {t : Nat} (ht : t < 192) (hrows : rows.length = 1440)
    (hcols : ∀ row ∈ rows, row.length = 1920) : tileLuminances rows t =
      (List.range 120).flatMap fun j => (List.range 120).map fun i =>
        luminance (.camera rows) (120 * (t % 16) + i) (120 * (t / 16) + j) := by
  rw [tileLuminances, take_drop_eq [] (by omega), List.flatMap_map]
  refine List.flatMap_congr fun j hj => ?_
  rw [List.mem_range] at hj
  have hin : 120 * (t / 16) + j < rows.length := by omega
  have hlen : (rows.getD (120 * (t / 16) + j) []).length = 1920 := by
    rw [List.getD_eq_getElem _ _ hin]
    exact hcols _ (List.getElem_mem hin)
  rw [take_drop_eq 0 (by omega), List.map_map]
  rfl

theorem le_foldl_max {l : List Nat} {a : Nat} : a ≤ l.foldl max a ∧ (∀ y ∈ l, y ≤ l.foldl max a)
    ∧ (l.foldl max a = a ∨ l.foldl max a ∈ l) := by
  induction l generalizing a with
  | nil => exact ⟨le_rfl, fun y hy => absurd hy List.not_mem_nil, .inl rfl⟩
  | cons x xs ih =>
    obtain ⟨hstart, hall, hfrom⟩ := ih (a := max a x)
    rw [List.foldl_cons]
    refine ⟨(le_max_left a x).trans hstart, fun y hy => ?_, ?_⟩
    · rcases List.mem_cons.1 hy with rfl | hy
      · exact (le_max_right a y).trans hstart
      · exact hall y hy
    · rcases hfrom with hfrom | hfrom
      · rw [hfrom]
        rcases max_choice a x with h | h
        · exact .inl h
        · exact .inr (List.mem_cons.2 (.inl h))
      · exact .inr (List.mem_cons_of_mem x hfrom)

theorem sum_le_mul {l : List Nat} {b : Nat} (h : ∀ y ∈ l, y ≤ b) : l.sum ≤ l.length * b := by
  simpa using List.sum_le_card_nsmul l b h

theorem luminance_lt (rows : List (List Pixel)) (x y : Nat) : luminance (.camera rows) x y ≤ 4095 := by
  have := ((rows.getD y []).getD x 0).isLt
  unfold luminance
  dsimp only
  omega

theorem getElem?_range_map {α : Type} {f : Nat → α} {n t : Nat} (h : t < n) :
    ((List.range n).map f)[t]? = some (f t) := by
  simp [h]

theorem tileStats_camera (bright : Nat) (rows : List (List Pixel)) {t : Nat} (h : t < 192) :
    (tileStats bright (.camera rows))[t]? = some (statOfLuminances bright (tileLuminances rows t)) := by
  unfold tileStats
  exact getElem?_range_map h

theorem tileStats_synthetic (bright : Nat) (values : List Nat) {t : Nat} (h : t < 192) :
    (tileStats bright (.synthetic values))[t]? = some (statOfFlat bright (values.getD t 0)) := by
  unfold tileStats
  exact getElem?_range_map h

/-- The statistics of a tile of a camera frame (R27). -/
theorem statOfLuminances_spec {bright : Nat} {ys : List Nat} (hlen : ys.length = 14400) (hys : ∀ y ∈ ys, y ≤ 4095) :
    (statOfLuminances bright ys).peak ∈ ys ∧ (∀ y ∈ ys, y ≤ (statOfLuminances bright ys).peak)
      ∧ (statOfLuminances bright ys).mean ≤ (statOfLuminances bright ys).peak
      ∧ (statOfLuminances bright ys).peak ≤ 4095 := by
  obtain ⟨-, hall, hfrom⟩ := le_foldl_max (l := ys) (a := 0)
  have hpeak : ys.foldl max 0 ∈ ys := by
    rcases hfrom with hzero | hmem
    · obtain ⟨y, hy⟩ := List.exists_mem_of_length_pos (l := ys) (by omega)
      have : y = 0 := by have := hall y hy; omega
      rw [hzero, ← this]
      exact hy
    · exact hmem
  refine ⟨hpeak, hall, ?_, hys _ hpeak⟩
  have hsum := sum_le_mul hall
  rw [hlen] at hsum
  exact Nat.div_le_of_le_mul hsum

/-! ### Metering (R30) -/

theorem meteredLevel_eq {weights : List Nat} {g : GlareMap} {st : Stats} {w : Nat → Nat} (hg : g.tiles.length = 192)
    (hst : st.tiles.length = 192)
    (hw : ∀ t o, g.tiles[t]? = some o → w t = if o.ga = 256 then weights.getD t 0 else 0) :
    meteredLevel weights g st = if ((List.range 192).map w).sum = 0 then st.fmean
      else ((List.range 192).map fun t => w t * (tileMeans st).getD t 0).sum / ((List.range 192).map w).sum := by
  have hused : ∀ t ∈ List.range 192, usedWeight weights g t = w t := by
    intro t ht
    have hlt : t < g.tiles.length := by rw [hg]; exact List.mem_range.1 ht
    rw [hw t g.tiles[t] (List.getElem?_eq_getElem hlt), usedWeight, List.getD_eq_getElem _ _ hlt]
  have hmean : ∀ t ∈ List.range 192,
      usedWeight weights g t * (st.tiles.getD t ⟨0, 0, 0⟩).mean = w t * (tileMeans st).getD t 0 := by
    intro t ht
    have hlt : t < st.tiles.length := by rw [hst]; exact List.mem_range.1 ht
    rw [hused t ht, List.getD_eq_getElem _ _ hlt, tileMeans, List.getD_eq_getElem _ _ (by simpa using hlt),
      List.getElem_map]
  unfold meteredLevel
  dsimp only
  rw [show Config.tiles = 192 from rfl, List.map_congr_left hused, List.map_congr_left hmean]

theorem sum_mul_le {l : List Nat} {w m : Nat → Nat} {b : Nat} (h : ∀ t ∈ l, m t ≤ b) :
    (l.map fun t => w t * m t).sum ≤ b * (l.map w).sum := by
  rw [← List.sum_map_mul_left]
  refine List.sum_le_sum fun t ht => ?_
  rw [Nat.mul_comm b]
  exact Nat.mul_le_mul_left _ (h t ht)

/-- A weighted mean of values of at most 4095. -/
theorem meteredLevel_le {weights : List Nat} {g : GlareMap} {st : Stats} {w : Nat → Nat} (hg : g.tiles.length = 192)
    (hst : st.tiles.length = 192)
    (hw : ∀ t o, g.tiles[t]? = some o → w t = if o.ga = 256 then weights.getD t 0 else 0) (hf : st.fmean ≤ 4095)
    (hm : ∀ o ∈ st.tiles, o.mean ≤ 4095) : meteredLevel weights g st ≤ 4095 := by
  rw [meteredLevel_eq hg hst hw]
  split
  · exact hf
  · refine Nat.div_le_of_le_mul ((sum_mul_le (b := 4095) fun t ht => ?_).trans_eq (Nat.mul_comm _ _))
    have hlt : t < st.tiles.length := by rw [hst]; exact List.mem_range.1 ht
    rw [tileMeans, List.getD_eq_getElem _ _ (by simpa using hlt), List.getElem_map]
    exact hm _ (List.getElem_mem hlt)

/-- Settles O31: the split, the tag, the statistics of a tile, the metered level and the exposure requested. -/
theorem commandsInRange : Obligations.CommandsInRange := by
  refine ⟨fun k e t g h1 h2 h3 _ h5 _ h => splitExposure_spec h1 h2 h3 h5 h, fun x hx => ?_,
    fun bright rows t st ys ht hrows hcols hst hys => ?_, fun bright values t p ht hp => ?_, fun bright img => ?_,
    fun weights g st w total hg hst hw htotal => ⟨fun h0 => ?_, fun h1 => ?_, meteredLevel_le hg hst hw⟩,
    fun k m eRep step hle hstep => ?_⟩
  · obtain ⟨i, hi, htag, hfree, hbefore⟩ := nextTag_spec hx
    rw [← Bool.not_eq_true, tagTaken_iff, not_or] at hfree
    exact ⟨i, hi, htag, hfree.1, fun e he hte => hfree.2 ⟨e, he, hte⟩, fun j hj => (tagTaken_iff x _).1 (hbefore j hj)⟩
  · rw [← tileLuminances_eq ht hrows hcols] at hys
    subst hys
    obtain rfl : statOfLuminances bright (tileLuminances rows t) = st :=
      Option.some.inj ((tileStats_camera bright rows ht).symm.trans hst)
    have hlen : (tileLuminances rows t).length = 14400 := by
      rw [tileLuminances_eq ht hrows hcols]
      simp [List.length_flatMap]
    have hle : ∀ y ∈ tileLuminances rows t, y ≤ 4095 := by
      rw [tileLuminances_eq ht hrows hcols]
      intro y hy
      obtain ⟨j, -, hy⟩ := List.mem_flatMap.1 hy
      obtain ⟨i, -, rfl⟩ := List.mem_map.1 hy
      exact luminance_lt rows _ _
    obtain ⟨hmem, hall, hmean, hpeak⟩ := statOfLuminances_spec (bright := bright) hlen hle
    exact ⟨rfl, hmem, hall, hlen, rfl, hmean, hpeak⟩
  · refine (tileStats_synthetic bright values ht).trans ?_
    rw [statOfFlat, List.getD_eq_getElem?_getD, hp]
    rfl
  · cases img <;> simp [tileStats, Config.tiles]
  · rw [meteredLevel_eq hg hst hw, ← htotal, if_pos h0]
  · rw [meteredLevel_eq hg hst hw, ← htotal, if_neg (by omega)]
  · rw [requestedExposure, clampNat_eq _ _ _ hle, clampNat_eq _ _ _ (by omega), ← hstep]

end Sys2Proof.Machine


/-! PROOF. A region read into the working copy and written back (R173, 11 section 11.5): O8. -/

namespace Sys2Proof.Machine

/-! ### Fields written back -/

section Fields
variable {b : List Byte} {o : Nat}

theorem field_lt (b : List Byte) (o n : Nat) : field b o n < 256 ^ n := by
  have h := natOfBytes_lt ((List.range n).map fun i => b.getD (o + i) 0)
  rwa [List.length_map, List.length_range] at h

theorem byte_field (h : o + 1 ≤ b.length) : byte (field b o 1) = (b.drop o).take 1 := bytesOfNat_field b o 1 h

theorem word16_field (h : o + 2 ≤ b.length) : word16 (field b o 2) = (b.drop o).take 2 := bytesOfNat_field b o 2 h

theorem signed16_field (h : o + 2 ≤ b.length) : signed16 (signedOf16 (field b o 2)) = (b.drop o).take 2 := by
  have hlt := field_lt b o 2
  rw [signed16, signedOf16, BitVec.ofInt_toInt, BitVec.toNat_ofNat, Nat.mod_eq_of_lt (by omega), word16_field h]

theorem slice_append (b : List Byte) (o m n : Nat) :
    (b.drop o).take m ++ (b.drop (o + m)).take n = (b.drop o).take (m + n) := by
  rw [List.take_add, List.drop_drop]

end Fields

/-! ### GEOMETRY and INTEGRITY -/

theorem encode_parseGeometrySide {b : List Byte} {o : Nat} (h : o + 11 ≤ b.length) :
    encodeGeometrySide (parseGeometrySide b o) = (b.drop o).take 11 := by
  simp (disch := omega) only [encodeGeometrySide, parseGeometrySide, word16_field, byte_field, signed16_field,
    slice_append, Nat.reduceAdd]

theorem encode_parseGeometry {b : List Byte} (h : b.length = 22) : encodeGeometry (parseGeometry b) = b := by
  rw [encodeGeometry, parseGeometry, encode_parseGeometrySide (by omega), encode_parseGeometrySide (by omega)]
  exact (slice_append b 0 11 11).trans (List.take_of_length_le h.le)

theorem encode_parseIntegrity {b : List Byte} (h : b.length = 15) : encodeIntegrity (parseIntegrity b) = b := by
  simp (disch := omega) only [encodeIntegrity, parseIntegrity, word16_field, byte_field, signed16_field,
    List.drop_zero, ← List.take_add, Nat.reduceAdd]
  exact List.take_of_length_le h.le

/-! ### IMAGE -/

theorem encode_weights {b : List Byte} {o n : Nat} (h : o + n ≤ b.length) :
    ((List.range n).map fun i => field b (o + i) 1).flatMap byte = (b.drop o).take n := by
  have hfields := bytesOfNat_fields b 1 o n (by omega)
  simp only [Nat.one_mul] at hfields
  rw [List.flatMap_map]
  exact hfields

theorem encode_patterns {b : List Byte} {o n : Nat} (h : o + 2 * n ≤ b.length) :
    ((List.range n).map fun i => field b (o + 2 * i) 2).flatMap word16 = (b.drop o).take (2 * n) := by
  rw [List.flatMap_map]
  exact bytesOfNat_fields b 2 o n h

theorem encode_curve {b : List Byte} {o n : Nat} (h : o + 4 * n ≤ b.length) :
    ((List.range n).map fun i => (⟨field b (o + 4 * i) 2, field b (o + 2 + 4 * i) 2⟩ : CurvePoint)).flatMap
      (fun p => word16 p.lux ++ word16 p.level) = (b.drop o).take (4 * n) := by
  rw [List.flatMap_map, ← bytesOfNat_fields b 4 o n h]
  refine List.flatMap_congr fun i hi => ?_
  rw [List.mem_range] at hi
  rw [bytesOfNat_field b (o + 4 * i) 4 (by omega), word16_field (by omega), word16_field (by omega),
    Nat.add_right_comm o 2 (4 * i)]
  exact slice_append b (o + 4 * i) 2 2

theorem encode_parseImage {b : List Byte} (h : b.length = 1992) : encodeImage (parseImage b) = b := by
  unfold encodeImage parseImage
  dsimp only
  rw [encode_weights (o := 34) (n := 384) (by omega), encode_patterns (o := 418) (n := 768) (by omega),
    encode_curve (o := 1954) (n := 8) (by omega)]
  simp (disch := omega) only [word16_field, byte_field, bytesOfNat_field]
  simp only [List.drop_zero, ← List.take_add, Nat.reduceAdd, Nat.reduceMul]
  exact List.take_of_length_le h.le

/-! ### CAPTURE and ACCESS -/

theorem flagByte_field {b : List Byte} {o : Nat} (h : o + 1 ≤ b.length) (hr : inRange (field b o 1) 0 1 = true) :
    flagByte (decide (field b o 1 = 1)) = (b.drop o).take 1 := by
  rw [← byte_field h]
  simp only [inRange, Bool.and_eq_true, decide_eq_true_eq] at hr
  have hv : field b o 1 = 0 ∨ field b o 1 = 1 := by omega
  rcases hv with hv | hv <;> rw [hv] <;> rfl

theorem encode_parseCapture {b : List Byte} (h : b.length = 8) (hv : captureValid b = true) :
    encodeCapture (parseCapture b) = b := by
  simp only [captureValid, Bool.and_eq_true] at hv
  obtain ⟨⟨⟨-, h4⟩, h5⟩, -⟩ := hv
  have hmask : (BitVec.ofNat 16 (field b 6 2)).toNat = field b 6 2 := by
    have hlt := field_lt b 6 2
    rw [BitVec.toNat_ofNat, Nat.mod_eq_of_lt (by omega)]
  simp (disch := omega) only [encodeCapture, parseCapture, hmask, word16_field, flagByte_field (o := 4) (by omega) h4,
    flagByte_field (o := 5) (by omega) h5, List.drop_zero, ← List.take_add, Nat.reduceAdd]
  exact List.take_of_length_le h.le

theorem encode_parseAuthority {b : List Byte} {o : Nat} (h : o + 1 ≤ b.length)
    (hr : inRange (field b o 1) 1 3 = true) : encodeAuthority (parseAuthority (field b o 1)) = (b.drop o).take 1 := by
  rw [← byte_field h]
  simp only [inRange, Bool.and_eq_true, decide_eq_true_eq] at hr
  have hv : field b o 1 = 1 ∨ field b o 1 = 2 ∨ field b o 1 = 3 := by omega
  rcases hv with hv | hv | hv <;> rw [hv] <;> rfl

theorem regionBits_testBit : ∀ v < 32, regionBits (perRegion fun r => v.testBit (regionNumber r)) = v := by decide

theorem encode_parseAccess {b : List Byte} (h : b.length = 7) (hv : accessValid b = true) :
    encodeAccess (parseAccess b) = b := by
  simp only [accessValid, Bool.and_eq_true, decide_eq_true_eq, List.all_eq_true, List.mem_range] at hv
  obtain ⟨hentries, hmask⟩ := hv
  simp (disch := omega) only [encodeAccess, parseAccess, encode_parseAuthority (by omega) (hentries 0 (by omega)),
    encode_parseAuthority (by omega) (hentries 1 (by omega)), encode_parseAuthority (by omega) (hentries 2 (by omega)),
    encode_parseAuthority (by omega) (hentries 3 (by omega)), encode_parseAuthority (by omega) (hentries 4 (by omega)),
    encode_parseAuthority (by omega) (hentries 5 (by omega)), regionBits_testBit _ hmask, byte_field,
    List.drop_zero, ← List.take_add, Nat.reduceAdd]
  exact List.take_of_length_le h.le

/-- Settles O8: each region read from its valid bytes is written back as them, and a region that is not valid as the
defaults. -/
theorem validRegionsKeepTheirBytes : Obligations.ValidRegionsKeepTheirBytes := by
  intro st r hlen
  refine ⟨fun hv => ?_, fun hv => ?_⟩
  · have hitems : itemsValid r (perRegionGet st r).items = true := (Bool.and_eq_true_iff.1 hv).2
    cases r
    case geometry => exact (congrArg encodeGeometry (if_pos hv)).trans (encode_parseGeometry hlen)
    case image => exact (congrArg encodeImage (if_pos hv)).trans (encode_parseImage hlen)
    case integrity => exact (congrArg encodeIntegrity (if_pos hv)).trans (encode_parseIntegrity hlen)
    case capture => exact (congrArg encodeCapture (if_pos hv)).trans (encode_parseCapture hlen hitems)
    case access => exact (congrArg encodeAccess (if_pos hv)).trans (encode_parseAccess hlen hitems)
  · have hnot : ¬ regionValid r (perRegionGet st r) = true := by simp [hv]
    cases r
    case geometry => exact congrArg encodeGeometry (if_neg hnot)
    case image => exact congrArg encodeImage (if_neg hnot)
    case integrity => exact congrArg encodeIntegrity (if_neg hnot)
    case capture => exact congrArg encodeCapture (if_neg hnot)
    case access => exact congrArg encodeAccess (if_neg hnot)

end Sys2Proof.Machine


/-! PROOF. READ_TILE_MAP (R61, R62): O35. -/

namespace Sys2Proof.Machine

theorem testBit_full {v : Nat} (h : v ≤ 256) : v.testBit 8 = decide (v = 256) := by
  rw [Nat.testBit_eq_decide_div_mod_eq]
  exact decide_eq_decide.2 (by omega)

theorem mapEntry_eq {t : GlareTile} (ht : t.gt ≤ 256) (he : t.ge ≤ 256) (ha : t.ga ≤ 256) : mapEntry t =
    [BitVec.ofNat 8 ((if t.flag then 1 else 0) + (if t.gt = 256 then 2 else 0) + (if t.ge = 256 then 4 else 0)
        + (if t.ga = 256 then 8 else 0)),
      BitVec.ofNat 8 t.gt, BitVec.ofNat 8 t.ge, BitVec.ofNat 8 t.ga, BitVec.ofNat 8 t.h] := by
  have hbit (P : Prop) [Decidable P] (k : Nat) : k * (decide P).toNat = if P then k else 0 := by
    by_cases h : P <;> simp [h]
  have hbits : bitsOf [t.flag, decide (t.gt = 256), decide (t.ge = 256), decide (t.ga = 256)] =
      (if t.flag then 1 else 0) + (if t.gt = 256 then 2 else 0) + (if t.ge = 256 then 4 else 0)
        + (if t.ga = 256 then 8 else 0) := by
    have h1 := hbit (t.gt = 256) 2
    have h2 := hbit (t.ge = 256) 4
    have h3 := hbit (t.ga = 256) 8
    have h0 : t.flag.toNat = if t.flag then 1 else 0 := by cases t.flag <;> rfl
    simp only [bitsOf]
    omega
  rw [mapEntry, testBit_full ht, testBit_full he, testBit_full ha, hbits]
  simp [byte_eq]

theorem orZero_nat (o : Option Nat) : orZero 2 o = word16 (o.getD 0) := by cases o <;> rfl

/-- The summary as 11 section 11.4 lays it out. -/
theorem tileSummary_eq (side : Side) (x : SideState) (first : Byte) (n : Nat) : tileSummary side x first.toNat n =
    [BitVec.ofNat 8 (sideNumber side), BitVec.ofNat 8 (dayNightNumber x.expo.dayNight),
      BitVec.ofNat 8 (bitsOf [x.stats.statsFrame.isSome, x.glare.lastUpdate.isSome, x.glare.lastBref.isSome])]
    ++ word16 (x.stats.statsFrame.getD 0).toNat ++ word16 x.stats.fmean
    ++ word16 (x.glare.lastUpdate.getD 0).toNat ++ word16 (x.glare.lastBref.getD 0)
    ++ [BitVec.ofNat 8 (x.glare.tiles.countP (·.flag))] ++ word16 (minGain x.glare) ++ [first, BitVec.ofNat 8 n] := by
  rw [tileSummary, orZero_word, orZero_word, orZero_nat, byte_toNat]
  simp only [byte_eq, glareCount, List.append_assoc, List.cons_append, List.nil_append]

/-- The entries of a reply, one by one or as a piece of the tiles. -/
theorem flatMap_entries {α : Type} {l : List α} {first n : Nat} (d : α) (f : α → List Byte)
    (h : first + n ≤ l.length) :
    ((List.range n).flatMap fun i => f (l.getD (first + i) d)) = ((l.drop first).take n).flatMap f := by
  rw [take_drop_eq d h, List.flatMap_map]

/-- Settles O35: the refusals, and the summary with the entries of the tiles asked for. -/
theorem tileMapRead : Obligations.TileMapRead := by
  refine ⟨fun t ht he ha _ => mapEntry_eq ht he ha, fun t => by simp [statsEntry, word16_eq], ?_⟩
  intro s p tag sd view first count hr
  have hexec {y : Answer} (h : readTileMap [sd, view, first, count] s = y) :
      exec (.readTileMap p tag [sd, view, first, count]) s
        = .next (answered p .readTileMap tag y.status y.payload s) := by
    subst h
    exact congrArg _ (takeRequest_reaches s p .readTileMap tag _ _ hr rfl)
  have hp0 : param [sd, view, first, count] 0 = sd.toNat := rfl
  have hp1 : param [sd, view, first, count] 1 = view.toNat := rfl
  have hp2 : param [sd, view, first, count] 2 = first.toNat := rfl
  have hp3 : param [sd, view, first, count] 3 = count.toNat := rfl
  have hcount : count.toNat = 0 ↔ count = 0 := ⟨fun h => BitVec.eq_of_toNat_eq h, fun h => by rw [h]; rfl⟩
  refine ⟨fun hbad => hexec (y := plain .refusedParam) ?_, ?_⟩
  · simp only [readTileMap, hp0, hp1, hp2, hp3, hcount]
    rcases hbad with hbad | hbad | hbad
    · rw [sideOfParam_eq_none hbad]
    · rw [flagOfParam_eq_none hbad]
      cases sideOfParam sd.toNat <;> rfl
    · split
      · exact if_pos hbad
      · rfl
  · rintro side n x rfl hfirst hne hn rfl hstats hglare st rfl
    have hside : sideOfParam (BitVec.ofNat 8 (sideNumber side)).toNat = some side := sideOfParam_sideByte side []
    have hin : ¬ (191 < first.toNat ∨ count = 0) := fun h => h.elim (Nat.not_lt.2 hfirst) hne
    have hle : first.toNat + n ≤ 192 := by omega
    have hstatus : okIf (decide (n ≠ count.toNat)) = if n = count.toNat then .ok else .okClamped := okIf_sent Iff.rfl
    obtain ⟨-, hleast, hfrom⟩ := minGain_spec (s.side side).glare
    refine ⟨_, minGain (s.side side).glare, rfl, ?_, hleast, hfrom, ?_, ?_⟩
    · simp [word16_length]
    · rintro rfl
      have hentries := flatMap_entries unityTile mapEntry (hle.trans_eq hglare.symm)
      rw [← tileSummary_eq, ← hentries, ← hstatus]
      refine hexec (y := { status := _, payload := _ }) ?_
      simp only [readTileMap, hp0, hp1, hp2, hp3, hcount, hside, if_neg hin, ← hn]
      rfl
    · rintro rfl
      have hentries := flatMap_entries ⟨0, 0, 0⟩ statsEntry (hle.trans_eq hstats.symm)
      rw [← tileSummary_eq, ← hentries, ← hstatus]
      refine hexec (y := { status := _, payload := _ }) ?_
      simp only [readTileMap, hp0, hp1, hp2, hp3, hcount, hside, if_neg hin, ← hn]
      rfl

end Sys2Proof.Machine


/-! PROOF. The frame-completion operation stage by stage (R23, R24): the frame of each stage. -/

namespace Sys2Proof.Machine

/-! ### What each stage leaves (R24) -/

/-- What a stage leaves of the side's blocks: each changes what is its own. -/
structure StageKeeps (st : Stage) (x y : SideState) : Prop where
  inputs : y.inputs = x.inputs
  testFlag : y.testFlag = x.testFlag
  testNumber : y.testNumber = x.testNumber
  dlt : y.dlt = x.dlt
  stats : st ≠ .statistics → y.stats = x.stats
  glare : st ≠ .glare → st ≠ .dayNight → y.glare = x.glare
  expo : st ≠ .exposure → st ≠ .dayNight → y.expo = x.expo
  mode : st ≠ .dayNight → y.expo.dayNight = x.expo.dayNight
  clr : st ≠ .exposure → y.clr = x.clr
  view : st ≠ .statistics → st ≠ .offer → y.view = x.view

theorem isCamera_iff (img : Image) : isCamera img = true ↔ ∃ rows, img = .camera rows := by
  cases img <;> simp [isCamera]

/-- R65, R79: the offer is a change of the composer, and a clear of STALE_VIEW at most. -/
theorem stageOffer_changes (s : State) (sd : Side) (f : AcceptedFrame) : ∃ y t, stageOffer sd f s =
    { s.modView sd (fun _ => y) with table := t } := by
  obtain ⟨-, ht⟩ := stageOffer_spec s _ sd f _ _ (isCamera f.image) rfl rfl rfl (isCamera_iff f.image)
  exact ⟨_, _, ht⟩

theorem stageOffer_frame (s : State) (sd : Side) (f : AcceptedFrame) : StageFrame sd s (stageOffer sd f s) := by
  obtain ⟨y, t, h⟩ := stageOffer_changes s sd f
  rw [h]
  exact (stageFrame_mod s sd _ ⟨rfl, rfl, rfl, rfl⟩).trans ((sameButReports_table _ t).stageFrame sd)

theorem StageKeeps.of_frame {st : Stage} {sd : Side} {s t : State} (h : StageFrame sd s t)
    (hstats : st ≠ .statistics → (t.side sd).stats = (s.side sd).stats)
    (hglare : st ≠ .glare → st ≠ .dayNight → (t.side sd).glare = (s.side sd).glare)
    (hexpo : st ≠ .exposure → st ≠ .dayNight → (t.side sd).expo = (s.side sd).expo)
    (hmode : st ≠ .dayNight → (t.side sd).expo.dayNight = (s.side sd).expo.dayNight)
    (hclr : st ≠ .exposure → (t.side sd).clr = (s.side sd).clr)
    (hview : st ≠ .statistics → st ≠ .offer → (t.side sd).view = (s.side sd).view) :
    StageKeeps st (s.side sd) (t.side sd) := by
  obtain ⟨-, -, -, -, -, -, -, -, -, -, -, hinputs, hflag, hnumber, hdlt⟩ := h
  exact ⟨hinputs, hflag, hnumber, hdlt, hstats, hglare, hexpo, hmode, hclr, hview⟩

theorem stageWork_keeps (s : State) (sd : Side) (c : Completion) :
    StageKeeps c.next (s.side sd) ((stageWork sd c s).1.side sd) := by
  unfold stageWork
  cases c.next with
  | statistics =>
    obtain ⟨hframe, hrest⟩ := stageStatistics_rest s sd c.frame
    obtain ⟨hclr, hexpo, hglare, -⟩ := hrest sd
    exact .of_frame hframe (absurd rfl) (fun _ _ => hglare) (fun _ _ => hexpo) (fun _ => congrArg _ hexpo)
      (fun _ => hclr) (absurd rfl)
  | glare =>
    dsimp only
    rw [stageGlare_spec]
    exact .of_frame (stageFrame_mod s sd _ ⟨rfl, rfl, rfl, rfl⟩) (fun _ => by simp) (absurd rfl) (fun _ _ => by simp)
      (fun _ => by simp) (fun _ => by simp) (fun _ _ => by simp)
  | exposure =>
    obtain ⟨hframe, hstats, hglare, hview, -, hmode, -⟩ := stageExposure_rest s sd c.frame
    exact .of_frame hframe (fun _ => hstats) (fun _ _ => hglare) (absurd rfl) (fun _ => hmode) (absurd rfl)
      (fun _ _ => hview)
  | dayNight =>
    obtain ⟨hframe, -, hstats, hview, hclr, -⟩ := stageDayNight_rest s _ sd c.frame rfl
    exact .of_frame hframe (fun _ => hstats) (fun _ => absurd rfl) (fun _ => absurd rfl) (absurd rfl) (fun _ => hclr)
      (fun _ _ => hview)
  | digest =>
    have honly : OnlyRecorders s (stageDigest sd c.frame c.command s) := writeDigest_onlyRecorders s sd _
    have hside := honly.side_eq sd
    refine .of_frame (honly.stageFrame sd) (fun _ => ?_) (fun _ _ => ?_) (fun _ _ => ?_) (fun _ => ?_) (fun _ => ?_)
      fun _ _ => ?_
    all_goals
      dsimp only
      rw [hside]
  | offer =>
    obtain ⟨y, t, h⟩ := stageOffer_changes s sd c.frame
    refine .of_frame (stageOffer_frame s sd c.frame) (fun _ => ?_) (fun _ _ => ?_) (fun _ _ => ?_) (fun _ => ?_)
      (fun _ => ?_) fun _ => absurd rfl
    all_goals
      dsimp only
      rw [h]
      cases sd <;> rfl

/-- The command of an operation changes at its exposure stage alone. -/
theorem stageWork_command {c : Completion} (h : c.next ≠ .exposure) (sd : Side) (s : State) :
    (stageWork sd c s).2 = c.command := by
  unfold stageWork
  cases hn : c.next
  case exposure => exact absurd hn h
  all_goals rfl

theorem runStages_one {sd : Side} {s : State} {c : Completion} (h : (s.side sd).running = some c) :
    runStages sd 1 s = (stageWork sd c s).1.modSide sd fun x =>
      { x with running := moveOn c (stageWork sd c s).2 } :=
  runStages_succ sd 0 s c h

/-- One stage of an operation: its place, its command and what it leaves. -/
theorem oneStage {s t : State} {sd : Side} {c : Completion} (hc : (s.side sd).running = some c)
    (ht : t = runStages sd 1 s) :
    (t.side sd).running = moveOn c (stageWork sd c s).2 ∧ StageKeeps c.next (s.side sd) (t.side sd) := by
  have hkeeps := stageWork_keeps s sd c
  rw [ht, runStages_one hc, modSide_side]
  obtain ⟨h1, h2, h3, h4, h5, h6, h7, h8, h9, h10⟩ := hkeeps
  exact ⟨rfl, h1, h2, h3, h4, h5, h6, h7, h8, h9, h10⟩

end Sys2Proof.Machine


/-! PROOF. The exposure stage of an accepted frame (R30 to R35): whether a command is issued, and what it leaves. -/

namespace Sys2Proof.Machine

/-! ### The decision (R20, R31, R33) -/

theorem decideExposure_isSome_iff (k : ImageCal) (x : Exposure) (m e : Nat) : (decideExposure k x m e).isSome = true ↔
    (x.mode = .auto ∧ k.tgt < ((m : Int) - k.tgt).natAbs * 16)
      ∨ (x.mode = .manual ∧ x.manualSend = true ∧ x.manual.isSome = true) := by
  unfold decideExposure
  cases x.mode with
  | auto =>
    by_cases hband : inDeadBand k m = true
    · simpa [hband] using of_decide_eq_true hband
    · simpa [hband] using not_le.mp fun h => hband (decide_eq_true h)
  | hold => simp
  | manual => by_cases hsend : x.manualSend = true <;> simp [hsend]

theorem decideExposure_manual {k : ImageCal} {x : Exposure} {m e : Nat} {p : Nat × Nat}
    (h : decideExposure k x m e = some p) (hmode : x.mode = .manual) : x.manual = some p := by
  simp only [decideExposure, hmode] at h
  split at h
  · exact h
  · cases h

theorem decideExposure_auto {k : ImageCal} {x : Exposure} {m e : Nat} {p : Nat × Nat}
    (h : decideExposure k x m e = some p) (hmode : x.mode = .auto) :
    p = splitExposure k (requestedExposure k m e) := by
  simp only [decideExposure, hmode] at h
  by_cases hband : inDeadBand k m = true <;> simp [hband] at h
  exact h.symm

/-- The level that stage 3 meters (R30). -/
abbrev meteredOf (s : State) (sd : Side) : Nat :=
  meteredLevel (weightsOf s.cal sd) (s.side sd).glare (s.side sd).stats

theorem issued_eq (s : State) (sd : Side) (f : AcceptedFrame) : issued sd f s =
    if isCamera f.image = true ∧ (s.side sd).testFlag = false then
      decideExposure s.cal.image (s.side sd).expo (meteredOf s sd) (f.tRep * f.gRep)
    else none := by
  unfold issued
  cases f.image with
  | synthetic vs => rfl
  | camera rows => cases (s.side sd).testFlag <;> rfl

theorem issued_some {s : State} {sd : Side} {f : AcceptedFrame} {p : Nat × Nat} (h : issued sd f s = some p) :
    decideExposure s.cal.image (s.side sd).expo (meteredOf s sd) (f.tRep * f.gRep) = some p := by
  rw [issued_eq] at h
  split at h
  · exact h
  · cases h

/-! ### The controller after the stage (R30, R35) -/

/-- R35 step 2: the pending list with the entry of a new command at its end. -/
def appended (n : FrameNumber) (t g : Nat) (x : Exposure) : List PendingCommand :=
  x.commands ++ [{ tag := nextTag x, t := t, g := g, due := n + 3 }]

/-- R35: the controller after an issue; with four entries the oldest is pushed out. -/
def afterIssue (n : FrameNumber) (t g : Nat) (x : Exposure) : Exposure :=
  { x with lastIssued := nextTag x
           commands := if (appended n t g x).length = 4 then (appended n t g x).drop 1 else appended n t g x
           confirmedRun := if (appended n t g x).length = 4 then 0 else x.confirmedRun }

/-- R35: what an issue leaves on the side and of the record of EXPOSURE_TRACK. -/
theorem issueCommand_leaves (s : State) (sd : Side) (n : FrameNumber) (t g : Nat) (x : SideState)
    (list : List PendingCommand) (hx : x = s.side sd) (hl : list = appended n t g x.expo) :
    ((issueCommand sd n t g s).1.side sd).expo = afterIssue n t g x.expo
      ∧ ((issueCommand sd n t g s).1.side sd).clr = handCommand ⟨nextTag x.expo, t, g⟩ x.clr
      ∧ (list.length ≠ 4 → findRecord (issueCommand sd n t g s).1.table .exposureTrack (faultSideOf sd)
          = findRecord s.table .exposureTrack (faultSideOf sd))
      ∧ (list.length = 4 → ∀ e, list.head? = some e →
          findRecord (issueCommand sd n t g s).1.table .exposureTrack (faultSideOf sd)
            = findRecord (tableRaise s.table .exposureTrack (faultSideOf sd) (e.tag.setWidth 16) s.time)
              .exposureTrack (faultSideOf sd)) := by
  subst hx
  obtain ⟨-, hshort, hfull⟩ := issueCommand_spec s sd n t g _ list rfl hl
  by_cases h4 : list.length = 4
  · obtain ⟨e, rest, hcons, hissue⟩ := hfull h4
    have hclr (u : State) : ((countUnconfirmed sd e.tag u).side sd).clr = (u.side sd).clr := by
      unfold countUnconfirmed
      rw [(sendRaise_same _ _ _ _ (by decide)).side_eq]
      simp
    rw [hissue]
    refine ⟨?_, ?_, fun h => absurd h4 h, fun _ d hd => ?_⟩
    · have hdrop : list.drop 1 = rest := by rw [hcons]; rfl
      simp [countUnconfirmed_expo, afterIssue, ← hl, h4, hdrop]
    · simp [hclr]
    · rw [hcons] at hd
      obtain rfl : e = d := Option.some.inj hd
      simp [countUnconfirmed_record]
  · rw [hshort h4]
    refine ⟨?_, ?_, fun _ => ?_, fun h => absurd h h4⟩
    · simp [afterIssue, ← hl, h4]
    · simp
    · simp

/-- R30: the controller after the metering. -/
def afterMetering (s : State) (sd : Side) (f : AcceptedFrame) : Exposure :=
  { (s.side sd).expo with m := meteredOf s sd, l := sceneLevel (meteredOf s sd) (f.tRep * f.gRep) }

/-- R33: the controller as its manual exposure is issued. -/
def manualTaken (x : Exposure) : Exposure := if x.mode = .manual then { x with manualSend := false } else x

/-- Stage 3 without a command: the metering alone. -/
structure MeteredOnly (s t : State) (sd : Side) (f : AcceptedFrame) : Prop where
  expo : (t.side sd).expo = afterMetering s sd f
  clr : (t.side sd).clr = (s.side sd).clr
  record : findRecord t.table .exposureTrack (faultSideOf sd) = findRecord s.table .exposureTrack (faultSideOf sd)

/-- Stage 3 with a command: the metering, the issue and the record of an entry pushed out. -/
structure CommandIssued (s t : State) (sd : Side) (f : AcceptedFrame) (c : Command) : Prop where
  pair : issued sd f s = some (c.t, c.g)
  tag : c.tag = nextTag (s.side sd).expo
  expo : (t.side sd).expo = afterIssue f.number c.t c.g (manualTaken (afterMetering s sd f))
  clr : (t.side sd).clr = handCommand c (s.side sd).clr
  keptRecord : (appended f.number c.t c.g (s.side sd).expo).length ≠ 4 →
    findRecord t.table .exposureTrack (faultSideOf sd) = findRecord s.table .exposureTrack (faultSideOf sd)
  pushedRecord : (appended f.number c.t c.g (s.side sd).expo).length = 4 →
    ∀ e, (appended f.number c.t c.g (s.side sd).expo).head? = some e →
      findRecord t.table .exposureTrack (faultSideOf sd)
        = findRecord (tableRaise s.table .exposureTrack (faultSideOf sd) (e.tag.setWidth 16) s.time)
          .exposureTrack (faultSideOf sd)

/-- A tag is chosen by the reported tag and the pending entries alone (R35 step 1). -/
theorem nextTag_congr {x y : Exposure} (hissued : x.lastIssued = y.lastIssued)
    (hreported : x.lastReported = y.lastReported) (hcommands : x.commands = y.commands) : nextTag x = nextTag y := by
  unfold nextTag tagTaken
  rw [hissued, hreported, hcommands]

/-- Of the controller, the taking of a manual exposure changes its mark. -/
theorem manualTaken_eq (x : Exposure) :
    manualTaken x = { x with manualSend := if x.mode = .manual then false else x.manualSend } := by
  unfold manualTaken
  split <;> rfl

theorem nextTag_manualTaken (s : State) (sd : Side) (f : AcceptedFrame) :
    nextTag (manualTaken (afterMetering s sd f)) = nextTag (s.side sd).expo := by
  rw [manualTaken_eq]
  exact nextTag_congr (by simp only [afterMetering]) (by simp only [afterMetering]) (by simp only [afterMetering])

theorem appended_manualTaken (s : State) (sd : Side) (f : AcceptedFrame) (t g : Nat) :
    appended f.number t g (manualTaken (afterMetering s sd f)) = appended f.number t g (s.side sd).expo := by
  unfold appended
  rw [nextTag_manualTaken, manualTaken_eq]
  simp only [afterMetering]

theorem stageExposure_none {s : State} {sd : Side} {f : AcceptedFrame} (h : issued sd f s = none) :
    (stageExposure sd f s).2 = none ∧ MeteredOnly s (stageExposure sd f s).1 sd f := by
  rw [(stageExposure_spec s sd f).1 h]
  exact ⟨rfl, by simp [metered, afterMetering], by simp [metered], by simp [metered]⟩

theorem stageExposure_some {s : State} {sd : Side} {f : AcceptedFrame} {t g : Nat}
    (h : issued sd f s = some (t, g)) :
    (stageExposure sd f s).2 = some ⟨nextTag (s.side sd).expo, t, g⟩
      ∧ CommandIssued s (stageExposure sd f s).1 sd f ⟨nextTag (s.side sd).expo, t, g⟩ := by
  rw [(stageExposure_spec s sd f).2 t g h]
  generalize hu : (metered sd f s).modExpo sd (fun e => if e.mode = .manual then { e with manualSend := false } else e)
    = u
  have hexpo : (u.side sd).expo = manualTaken (afterMetering s sd f) := by
    rw [← hu, metered, modExpo_side_expo, modExpo_side_expo]
    rfl
  have hclr : (u.side sd).clr = (s.side sd).clr := by simp [← hu, metered]
  have htable : u.table = s.table := by simp [← hu, metered]
  have htime : u.time = s.time := by simp [← hu, metered]
  have htag : nextTag (u.side sd).expo = nextTag (s.side sd).expo := by rw [hexpo, nextTag_manualTaken]
  obtain ⟨hcmd, -⟩ := issueCommand_spec u sd f.number t g _ _ rfl rfl
  obtain ⟨h1, h2, h3, h4⟩ := issueCommand_leaves u sd f.number t g _ _ rfl rfl
  rw [htag] at hcmd h2
  rw [hexpo] at h1
  rw [hexpo, appended_manualTaken, htable] at h3 h4
  rw [hclr] at h2
  rw [htime] at h4
  exact ⟨congrArg some hcmd, h, rfl, h1, h2, h3, h4⟩

/-- R35: the last issued tag, the pending list, the confirmed run and the manual mark after a command. -/
theorem CommandIssued.controls {s t : State} {sd : Side} {f : AcceptedFrame} {c : Command} {x : Exposure}
    {list : List PendingCommand} (h : CommandIssued s t sd f c) (hx : (s.side sd).expo = x)
    (hl : list = appended f.number c.t c.g x) :
    (t.side sd).expo.lastIssued = nextTag x
      ∧ (t.side sd).expo.commands = (if list.length = 4 then list.drop 1 else list)
      ∧ (t.side sd).expo.confirmedRun = (if list.length = 4 then 0 else x.confirmedRun)
      ∧ (x.mode = .manual → (t.side sd).expo.manualSend = false) := by
  subst hx hl
  rw [h.expo, afterIssue, appended_manualTaken, nextTag_manualTaken, manualTaken_eq]
  refine ⟨rfl, rfl, ?_, fun hmode => ?_⟩
  · simp only [afterMetering]
  · exact if_pos (by simpa only [afterMetering] using hmode)

/-- R30, R33: what stage 3 leaves of the controller, with a command or without one. -/
structure ControlsKept (s : State) (sd : Side) (f : AcceptedFrame) (y : Exposure) : Prop where
  m : y.m = meteredOf s sd
  l : y.l = sceneLevel (meteredOf s sd) (f.tRep * f.gRep)
  dayNight : y.dayNight = (s.side sd).expo.dayNight
  lastReported : y.lastReported = (s.side sd).expo.lastReported
  mode : y.mode = (s.side sd).expo.mode
  manual : y.manual = (s.side sd).expo.manual
  policy : y.policy = (s.side sd).expo.policy

/-- Stage 3, by the decision that it takes. -/
theorem stageExposure_cases (s : State) (sd : Side) (f : AcceptedFrame) :
    ((stageExposure sd f s).2 = none ∧ issued sd f s = none ∧ MeteredOnly s (stageExposure sd f s).1 sd f)
      ∨ ∃ c, (stageExposure sd f s).2 = some c ∧ CommandIssued s (stageExposure sd f s).1 sd f c := by
  cases h : issued sd f s with
  | none =>
    obtain ⟨hcmd, hkept⟩ := stageExposure_none h
    exact .inl ⟨hcmd, rfl, hkept⟩
  | some p => exact .inr ⟨_, stageExposure_some h⟩

theorem stageExposure_controls (s : State) (sd : Side) (f : AcceptedFrame) :
    ControlsKept s sd f ((stageExposure sd f s).1.side sd).expo := by
  obtain ⟨-, -, hkept⟩ | ⟨c, -, hissued⟩ := stageExposure_cases s sd f
  · rw [hkept.expo]
    constructor <;> simp only [afterMetering]
  · rw [hissued.expo, manualTaken_eq]
    constructor <;> simp only [afterMetering, afterIssue]

theorem stageExposure_isSome (s : State) (sd : Side) (f : AcceptedFrame) :
    (stageExposure sd f s).2.isSome = (issued sd f s).isSome := by
  obtain ⟨hcmd, hi, -⟩ | ⟨c, hcmd, hissued⟩ := stageExposure_cases s sd f
  · rw [hcmd, hi]
    rfl
  · rw [hcmd, hissued.pair]
    rfl

end Sys2Proof.Machine


/-! PROOF. The first four stages of an operation on an accepted frame (R24, R27 to R45), seen on the side and the records
that they touch. -/

namespace Sys2Proof.Machine

/-! ### Stage 1 (R27 to R29) -/

theorem stageStatistics_takes (s : State) (sd : Side) (f : AcceptedFrame) (st : Stats)
    (hst : st = ((stageStatistics sd f s).side sd).stats) :
    st.tiles = tileStats s.cal.image.brightLevel f.image ∧ st.fmean = (tileMeans st).sum / 192
      ∧ st.statsFrame = some f.number := by
  have htakes : ∃ p i, st = { takeStats s.cal.image.brightLevel f (s.side sd).stats with
      prevMeans := p, identRun := i } := by
    rw [hst, stageStatistics_stats]
    split <;> exact ⟨_, _, rfl⟩
  obtain ⟨p, i, rfl⟩ := htakes
  exact ⟨rfl, rfl, rfl⟩

theorem stageStatistics_synthetic {s : State} {sd : Side} {f : AcceptedFrame} (h : isCamera f.image = false) :
    ((stageStatistics sd f s).side sd).stats.prevMeans = (s.side sd).stats.prevMeans
      ∧ ((stageStatistics sd f s).side sd).stats.identRun = (s.side sd).stats.identRun := by
  rw [stageStatistics_stats]
  cases hi : f.image with
  | camera rows => rw [hi] at h; cases h
  | synthetic vs => exact ⟨rfl, rfl⟩

theorem stageStatistics_camera {s : State} {sd : Side} {f : AcceptedFrame} (h : isCamera f.image = true) (st : Stats)
    (hst : st = ((stageStatistics sd f s).side sd).stats) :
    st.prevMeans = some (tileMeans st)
      ∧ st.identRun = (if (s.side sd).stats.prevMeans = none then (s.side sd).stats.identRun
          else if (s.side sd).stats.prevMeans = some (tileMeans st) then min ((s.side sd).stats.identRun + 1) 65535
          else 0) := by
  subst hst
  rw [stageStatistics_stats]
  cases hi : f.image with
  | synthetic vs => rw [hi] at h; cases h
  | camera rows =>
    refine ⟨rfl, ?_⟩
    cases hp : (s.side sd).stats.prevMeans with
    | none => rfl
    | some prev => exact (if_congr Option.some_inj.symm rfl rfl).trans (if_neg (Option.some_ne_none prev)).symm

/-! ### The stages before and after the exposure stage -/

/-- R44: the glare map after stage 2. -/
def glareAfter (s : State) (sd : Side) (f : AcceptedFrame) (st : Stats) : GlareMap :=
  if (s.side sd).expo.dayNight = .night then
    updateMap s.cal.image (s.side sd).expo.m f.number st (s.side sd).glare
  else (s.side sd).glare

/-- Stages 1 and 2, from s to b. -/
structure BeforeExposure (s b : State) (sd : Side) (f : AcceptedFrame) : Prop where
  frame : StageFrame sd s b
  stats : (b.side sd).stats = ((stageStatistics sd f s).side sd).stats
  glare : (b.side sd).glare = glareAfter s sd f (b.side sd).stats
  expo : (b.side sd).expo = (s.side sd).expo
  clr : (b.side sd).clr = (s.side sd).clr
  table : b.table = (stageStatistics sd f s).table

/-- Stage 4, from e to u. -/
structure AfterExposure (e u : State) (sd : Side) : Prop where
  frame : StageFrame sd e u
  table : u.table = e.table
  stats : (u.side sd).stats = (e.side sd).stats
  clr : (u.side sd).clr = (e.side sd).clr
  expo : (u.side sd).expo = { (e.side sd).expo with dayNight := (u.side sd).expo.dayNight
                                                    nightRun := (u.side sd).expo.nightRun
                                                    dayRun := (u.side sd).expo.dayRun }
  glare : (u.side sd).glare =
    if (e.side sd).expo.dayNight = .night ∧ (u.side sd).expo.dayNight = .day then unityMap else (e.side sd).glare

theorem stageFrame_running (s : State) (sd : Side) (r : Option Completion) :
    StageFrame sd s (s.modSide sd fun z => { z with running := r }) := stageFrame_mod s sd _ ⟨rfl, rfl, rfl, rfl⟩

theorem beforeExposure {s a b : State} {sd : Side} {f : AcceptedFrame} {q r : Option Completion}
    (ha : a = (stageStatistics sd f s).modSide sd fun z => { z with running := q })
    (hb : b = (stageGlare sd f a).modSide sd fun z => { z with running := r }) : BeforeExposure s b sd f := by
  obtain ⟨hframe, hrest⟩ := stageStatistics_rest s sd f
  obtain ⟨hclr, hexpo, hglare, -⟩ := hrest sd
  have hstore : (stageStatistics sd f s).cal = s.cal := by
    obtain ⟨-, -, -, -, -, -, -, -, hstore, -⟩ := hframe
    exact congrArg (·.cal) hstore
  rw [stageGlare_spec] at hb
  subst ha hb
  refine ⟨(hframe.trans (stageFrame_running _ sd q)).trans ((stageFrame_mod _ _ _ ⟨rfl, rfl, rfl, rfl⟩).trans
    (stageFrame_running _ sd r)), by simp, ?_, by simp [hexpo], by simp [hclr], by simp⟩
  simp [glareAfter, hexpo, hglare, hstore]

theorem afterExposure {e w u : State} {sd : Side} {f : AcceptedFrame} {q r : Option Completion}
    (hw : w = e.modSide sd fun z => { z with running := q })
    (hu : u = (stageDayNight sd f w).modSide sd fun z => { z with running := r }) : AfterExposure e u sd := by
  obtain ⟨hframe, htable, hstats, -, hclr, -, hexpo, hglare⟩ := stageDayNight_rest w _ sd f rfl
  subst hu
  have hwu : StageFrame sd e _ := (hw ▸ stageFrame_running e sd q).trans (hframe.trans (stageFrame_running _ sd r))
  subst hw
  refine ⟨hwu, ?_, ?_, ?_, ?_, ?_⟩
  · simpa using htable
  · simpa using hstats
  · simpa using hclr
  · simpa using hexpo
  · simpa using hglare

/-! ### The first four stages together -/

/-- Stages 1 to 4 from s to u, with b the state that the exposure stage meets and cmd the command that it issues. -/
structure FourStages (s b u : State) (sd : Side) (f : AcceptedFrame) (cmd : Option Command) : Prop where
  before : BeforeExposure s b sd f
  command : cmd = (stageExposure sd f b).2
  after : AfterExposure (stageExposure sd f b).1 u sd

namespace FourStages

variable {s b u : State} {sd : Side} {f : AcceptedFrame} {cmd : Option Command}

theorem frame (h : FourStages s b u sd f cmd) : StageFrame sd s u :=
  h.before.frame.trans ((stageExposure_rest b sd f).1.trans h.after.frame)

theorem stats_before (h : FourStages s b u sd f cmd) : (u.side sd).stats = (b.side sd).stats := by
  obtain ⟨-, hstats, -⟩ := stageExposure_rest b sd f
  exact h.after.stats.trans hstats

theorem stats (h : FourStages s b u sd f cmd) : (u.side sd).stats = ((stageStatistics sd f s).side sd).stats :=
  h.stats_before.trans h.before.stats

theorem cal (h : FourStages s b u sd f cmd) : b.cal = s.cal := by
  obtain ⟨-, -, -, -, -, -, -, -, hstore, -⟩ := h.before.frame
  exact congrArg (·.cal) hstore

theorem time (h : FourStages s b u sd f cmd) : b.time = s.time := by
  obtain ⟨-, -, -, -, -, htime, -⟩ := h.before.frame
  exact htime

theorem testFlag (h : FourStages s b u sd f cmd) : (b.side sd).testFlag = (s.side sd).testFlag := by
  obtain ⟨-, -, -, -, -, -, -, -, -, -, -, -, hflag, -⟩ := h.before.frame
  exact hflag

/-- Of the records that a stage touches those of FROZEN_IMAGE are stage 1's. -/
theorem frozen_record (h : FourStages s b u sd f cmd) : findRecord u.table .frozenImage (faultSideOf sd)
    = findRecord (stageStatistics sd f s).table .frozenImage (faultSideOf sd) := by
  obtain ⟨-, -, -, -, -, -, hfind⟩ := stageExposure_rest b sd f
  rw [h.after.table, hfind _ _ (by decide) (by decide), h.before.table]

theorem track_record_before (h : FourStages s b u sd f cmd) : findRecord b.table .exposureTrack (faultSideOf sd)
    = findRecord s.table .exposureTrack (faultSideOf sd) := by
  rw [h.before.table, stageStatistics_find _ _ _ _ _ (by decide) (by decide)]

theorem controls (h : FourStages s b u sd f cmd) :
    (u.side sd).expo.lastReported = (s.side sd).expo.lastReported ∧ (u.side sd).expo.mode = (s.side sd).expo.mode
      ∧ (u.side sd).expo.manual = (s.side sd).expo.manual ∧ (u.side sd).expo.policy = (s.side sd).expo.policy := by
  have hkept := stageExposure_controls b sd f
  rw [h.after.expo, ← h.before.expo]
  exact ⟨hkept.lastReported, hkept.mode, hkept.manual, hkept.policy⟩

theorem metering_before (h : FourStages s b u sd f cmd) : (u.side sd).expo.m = meteredOf b sd := by
  rw [h.after.expo]
  exact (stageExposure_controls b sd f).m

/-- R30, R44, R52: the map of stage 2, the metering over it, and the map that day and night leave. -/
theorem metering (h : FourStages s b u sd f cmd) :
    (u.side sd).expo.m = meteredLevel (weightsOf s.cal sd) (glareAfter s sd f (u.side sd).stats) (u.side sd).stats
      ∧ (u.side sd).expo.l = sceneLevel (u.side sd).expo.m (f.tRep * f.gRep)
      ∧ (u.side sd).glare = (if (s.side sd).expo.dayNight = .night ∧ (u.side sd).expo.dayNight = .day then unityMap
          else glareAfter s sd f (u.side sd).stats) := by
  have hkept := stageExposure_controls b sd f
  obtain ⟨-, -, hglare, -⟩ := stageExposure_rest b sd f
  have hmap := h.before.glare
  rw [← h.stats_before] at hmap
  refine ⟨?_, ?_, ?_⟩
  · rw [h.metering_before, meteredOf, h.cal, hmap, h.stats_before]
  · rw [h.metering_before, h.after.expo]
    exact hkept.l
  · rw [h.after.glare, hkept.dayNight, hglare, h.before.expo, hmap]

/-- R20, R31, R33: when a command is issued. -/
theorem command_isSome_iff (h : FourStages s b u sd f cmd) : cmd.isSome = true ↔
    isCamera f.image = true ∧ (s.side sd).testFlag = false
      ∧ (((s.side sd).expo.mode = .auto
          ∧ s.cal.image.tgt < (((u.side sd).expo.m : Int) - s.cal.image.tgt).natAbs * 16)
        ∨ ((s.side sd).expo.mode = .manual ∧ (s.side sd).expo.manualSend = true
          ∧ (s.side sd).expo.manual.isSome = true)) := by
  rw [h.command, stageExposure_isSome, issued_eq, h.testFlag, h.cal, h.before.expo, ← h.metering_before]
  split
  next hc => simp [hc, decideExposure_isSome_iff]
  next hc => simp only [Option.isSome_none, Bool.false_eq_true, false_iff]; exact fun hk => hc ⟨hk.1, hk.2.1⟩

/-- R33, R35: what a command issued leaves. -/
theorem command_some (h : FourStages s b u sd f cmd) (c : Command) (hc : cmd = some c) :
    (u.side sd).expo.lastIssued = c.tag ∧ (u.side sd).clr = handCommand c (s.side sd).clr
      ∧ c.tag = nextTag (s.side sd).expo
      ∧ ((s.side sd).expo.mode = .manual →
          (s.side sd).expo.manual = some (c.t, c.g) ∧ (u.side sd).expo.manualSend = false)
      ∧ ((s.side sd).expo.mode = .auto → (c.t, c.g)
          = splitExposure s.cal.image (requestedExposure s.cal.image (u.side sd).expo.m (f.tRep * f.gRep)))
      ∧ ∀ list, list = (s.side sd).expo.commands ++ [{ tag := c.tag, t := c.t, g := c.g, due := f.number + 3 }] →
          (list.length ≠ 4 → (u.side sd).expo.commands = list
            ∧ (u.side sd).expo.confirmedRun = (s.side sd).expo.confirmedRun
            ∧ findRecord u.table .exposureTrack (faultSideOf sd)
              = findRecord s.table .exposureTrack (faultSideOf sd))
          ∧ (list.length = 4 → (u.side sd).expo.commands = list.drop 1 ∧ (u.side sd).expo.confirmedRun = 0
            ∧ ∀ e, list.head? = some e → findRecord u.table .exposureTrack (faultSideOf sd) = findRecord
                (tableRaise s.table .exposureTrack (faultSideOf sd) (e.tag.setWidth 16) s.time)
                .exposureTrack (faultSideOf sd)) := by
  obtain ⟨hnone, -, -⟩ | ⟨d, hd, hissued⟩ := stageExposure_cases b sd f
  · rw [h.command, hnone] at hc
    cases hc
  obtain rfl : d = c := Option.some.inj (hd.symm.trans (h.command.symm.trans hc))
  have htag : d.tag = nextTag (s.side sd).expo := by rw [hissued.tag, h.before.expo]
  have hdecide := issued_some hissued.pair
  rw [h.cal, h.before.expo, ← h.metering_before] at hdecide
  have hexpo := h.after.expo
  have hlast : (u.side sd).expo.lastIssued = d.tag := by
    rw [hexpo, htag]
    exact (hissued.controls h.before.expo rfl).1
  refine ⟨hlast, ?_, htag, fun hmode => ⟨decideExposure_manual hdecide hmode, ?_⟩, decideExposure_auto hdecide, ?_⟩
  · rw [h.after.clr, hissued.clr, h.before.clr]
  · rw [hexpo]
    obtain ⟨-, -, -, hsend⟩ := hissued.controls h.before.expo rfl
    exact hsend hmode
  intro list hlist
  rw [htag] at hlist
  obtain ⟨-, hcommands, hrun, -⟩ := hissued.controls h.before.expo hlist
  have hkept := hissued.keptRecord
  have hpushed := hissued.pushedRecord
  have happended : appended f.number d.t d.g (b.side sd).expo = list := by
    rw [h.before.expo, hlist]
    rfl
  rw [happended] at hkept hpushed
  rw [hexpo, h.after.table]
  refine ⟨fun h4 => ⟨hcommands.trans (if_neg h4), hrun.trans (if_neg h4), (hkept h4).trans h.track_record_before⟩,
    fun h4 => ⟨hcommands.trans (if_pos h4), hrun.trans (if_pos h4), fun e he => ?_⟩⟩
  rw [hpushed h4 e he, h.time]
  exact findRecord_raise_congr _ _ _ _ _ _ h.track_record_before

theorem command_none (h : FourStages s b u sd f cmd) (hc : cmd = none) :
    (u.side sd).expo.lastIssued = (s.side sd).expo.lastIssued
      ∧ (u.side sd).expo.commands = (s.side sd).expo.commands
      ∧ (u.side sd).expo.confirmedRun = (s.side sd).expo.confirmedRun
      ∧ (u.side sd).expo.manualSend = (s.side sd).expo.manualSend ∧ (u.side sd).clr = (s.side sd).clr
      ∧ findRecord u.table .exposureTrack (faultSideOf sd) = findRecord s.table .exposureTrack (faultSideOf sd) := by
  obtain ⟨-, -, hexpo, hclr, hrecord⟩ | ⟨d, hd, -⟩ := stageExposure_cases b sd f
  · rw [h.after.expo, h.after.clr, h.after.table, hexpo, hclr, hrecord, h.before.clr, h.track_record_before,
      ← h.before.expo]
    simp only [afterMetering, and_self]
  · rw [h.command, hd] at hc
    cases hc

/-- R27, R28: the statistics that stage 1 takes. -/
theorem stats_taken (h : FourStages s b u sd f cmd) :
    (u.side sd).stats.tiles = tileStats s.cal.image.brightLevel f.image
      ∧ (u.side sd).stats.fmean = (tileMeans (u.side sd).stats).sum / 192
      ∧ (u.side sd).stats.statsFrame = some f.number := stageStatistics_takes s sd f _ h.stats

/-- A synthetic frame is not compared with the one before it (R28). -/
theorem synthetic (h : FourStages s b u sd f cmd) (hc : isCamera f.image = false) :
    (u.side sd).stats.prevMeans = (s.side sd).stats.prevMeans
      ∧ (u.side sd).stats.identRun = (s.side sd).stats.identRun
      ∧ findRecord u.table .frozenImage (faultSideOf sd) = findRecord s.table .frozenImage (faultSideOf sd) := by
  obtain ⟨hmeans, hrun⟩ := stageStatistics_synthetic (s := s) (sd := sd) hc
  obtain ⟨hrecord, -⟩ := stageStatistics_frozen s _ sd f rfl
  rw [h.stats, h.frozen_record]
  refine ⟨hmeans, hrun, hrecord fun rows hrows => ?_⟩
  rw [(isCamera_iff f.image).mpr ⟨rows, hrows⟩] at hc
  cases hc

/-- R28, R29: a camera frame moves the identical run, and FROZEN_IMAGE by it. -/
theorem camera (h : FourStages s b u sd f cmd) (hc : isCamera f.image = true) :
    (u.side sd).stats.prevMeans = some (tileMeans (u.side sd).stats)
      ∧ (u.side sd).stats.identRun = (if (s.side sd).stats.prevMeans = none then (s.side sd).stats.identRun
          else if (s.side sd).stats.prevMeans = some (tileMeans (u.side sd).stats) then
            min ((s.side sd).stats.identRun + 1) 65535
          else 0)
      ∧ ∀ (differs frozen : Prop),
        (differs ↔ ∃ p, (s.side sd).stats.prevMeans = some p ∧ p ≠ tileMeans (u.side sd).stats) →
          (frozen ↔ s.cal.integrity.frozenFrames ≤ (u.side sd).stats.identRun
            ∧ ∃ v, presentedSpeed s = some v ∧ s.cal.integrity.frozenSpeed ≤ v) →
          (frozen → ∃ r, findRecord u.table .frozenImage (faultSideOf sd) = some r ∧ r.active = true)
          ∧ (¬ differs → frozen → findRecord u.table .frozenImage (faultSideOf sd) = findRecord
              (tableRaise s.table .frozenImage (faultSideOf sd) (BitVec.ofNat 16 (u.side sd).stats.identRun) s.time)
              .frozenImage (faultSideOf sd))
          ∧ (differs → ¬ frozen →
              ∀ r, findRecord u.table .frozenImage (faultSideOf sd) = some r → r.active = false)
          ∧ (¬ differs → ¬ frozen → findRecord u.table .frozenImage (faultSideOf sd)
              = findRecord s.table .frozenImage (faultSideOf sd)) := by
  obtain ⟨hmeans, hrun⟩ := stageStatistics_camera hc _ h.stats
  refine ⟨hmeans, hrun, fun differs frozen hd hf => ?_⟩
  rw [h.stats] at hd hf
  obtain ⟨-, hrecord⟩ := stageStatistics_frozen s _ sd f rfl
  obtain ⟨h1, h2, h3, h4⟩ := hrecord ((isCamera_iff f.image).mp hc)
  rw [h.frozen_record, h.stats, hd, hf]
  exact ⟨h1, h2, h3, h4⟩

end FourStages

end Sys2Proof.Machine


/-! PROOF. The frame-completion operation on an accepted frame, whole and in pieces (R23, R24, log 16). -/

namespace Sys2Proof.Machine

/-! ### How an operation starts and goes on (R23, log 16) -/

theorem runCompletion_idle {s : State} {sd : Side} (hnone : (s.side sd).running = none)
    (hin : ∀ f rest, (s.side sd).inputs ≠ .accepted f :: rest) : runCompletion sd s = s := by
  have hstart : startCompletion sd s = s := by
    unfold startCompletion
    split
    next f rest _ h => exact absurd h (hin f rest)
    · rfl
  simp only [runCompletion, hstart, hnone]

theorem runCompletion_running {s v : State} {sd : Side} {c : Completion} {n : Nat}
    (hc : (s.side sd).running = some c) (hp : TakesPause s n v) : runCompletion sd s = runStages sd n v := by
  have hstart : startCompletion sd s = s := by simp only [startCompletion, hc]
  simp only [runCompletion, hstart, hc, takePause_spec hp]

theorem takesPause_modSide {s v : State} {n : Nat} (h : TakesPause s n v) (sd : Side) (g : SideState → SideState) :
    TakesPause (s.modSide sd g) n (v.modSide sd g) := by
  obtain ⟨hp, rfl, rfl⟩ | ⟨rest, hp, rfl⟩ := h
  · exact .inl ⟨by simpa using hp, rfl, rfl⟩
  · exact .inr ⟨rest, by simpa using hp, by cases sd <;> rfl⟩

/-- R23: a side with the operation on its oldest input begun. -/
abbrev begun (f : AcceptedFrame) (rest : List CompletionInput) (x : SideState) : SideState :=
  { x with inputs := rest, running := some { frame := f, next := .statistics, command := none } }

theorem runCompletion_start {s v : State} {sd : Side} {f : AcceptedFrame} {rest : List CompletionInput} {n : Nat}
    (hnone : (s.side sd).running = none) (hin : (s.side sd).inputs = .accepted f :: rest) (hp : TakesPause s n v) :
    runCompletion sd s = runStages sd n (v.modSide sd (begun f rest)) := by
  have hstart : startCompletion sd s = s.modSide sd (begun f rest) := by
    simp only [startCompletion, hnone, hin]
    rfl
  simp only [runCompletion, hstart, modSide_side, takePause_spec (takesPause_modSide hp sd (begun f rest))]

/-! ### The digest and the offer (R65, R79, R135) -/

theorem presented_congr {s u : State} (hvehicle : u.vehicle = s.vehicle) (hstore : u.store = s.store) :
    presentedSpeed u = presentedSpeed s ∧ presentedAngle u = presentedAngle s := by
  have hfresh : isFresh u = isFresh s := by rw [isFresh, isFresh, State.cal, State.cal, hvehicle, hstore]
  constructor
  · rw [presentedSpeed, presentedSpeed, hfresh, hvehicle]
  · rw [presentedAngle, presentedAngle, hfresh, hvehicle]

theorem acceptedDigest_readings {s u : State} (hvehicle : u.vehicle = s.vehicle) (hstore : u.store = s.store)
    (sd : Side) (f : AcceptedFrame) (cmd : Option Command) : DigestReadings s u sd (acceptedDigest sd f cmd u) := by
  obtain ⟨hle, hall, hex⟩ := minGain_spec (u.side sd).glare
  obtain ⟨hspeed, hangle⟩ := presented_congr hvehicle hstore
  exact ⟨rfl, hle, hall, hex, rfl, rfl, rfl, hspeed, hangle, rfl⟩

/-- R65: the frame offered is taken by the slot where it is of the kind that the view shows. -/
theorem stageOffer_slot {s : State} {sd : Side} {f : AcceptedFrame}
    (h : if ((stageOffer sd f s).side sd).view.state = .test then isCamera f.image = false
      else isCamera f.image = true) :
    ((stageOffer sd f s).side sd).view.slot = some { image := f.image, number := f.number }
      ∧ ((stageOffer sd f s).side sd).view.fresh = true := by
  obtain ⟨hview, -⟩ := stageOffer_spec s _ sd f _ _ (isCamera f.image) rfl rfl rfl (isCamera_iff f.image)
  rw [hview] at h ⊢
  have hkind : isCamera f.image = decide ((s.side sd).view.state ≠ .test) := by
    by_cases ht : (s.side sd).view.state = .test <;> simpa [ht] using h
  exact ⟨if_pos hkind, if_pos hkind⟩

/-! ### The whole operation (R24) -/

/-- R24: the order of the stages. -/
theorem nextStage_of_mem {st next : Stage} (h : (st, next) ∈ [(Stage.statistics, Stage.glare), (.glare, .exposure),
    (.exposure, .dayNight), (.dayNight, .digest), (.digest, .offer)]) : nextStage st = some next := by
  simp only [List.mem_cons, Prod.mk.injEq, List.not_mem_nil, or_false] at h
  obtain ⟨rfl, rfl⟩ | ⟨rfl, rfl⟩ | ⟨rfl, rfl⟩ | ⟨rfl, rfl⟩ | ⟨rfl, rfl⟩ := h <;> rfl

/-- R24: the operation taken whole is its first four stages, the digest and the offer. -/
theorem runStages_fourStages (sd : Side) (f : AcceptedFrame) (v : State) (n : Nat) (hn : 6 ≤ n)
    (h : (v.side sd).running = some { frame := f, next := .statistics, command := none }) :
    ∃ b cmd u, u = runStages sd 4 v ∧ FourStages v b u sd f cmd
      ∧ (u.side sd).running = some { frame := f, next := .digest, command := cmd }
      ∧ runStages sd n v = (stageOffer sd f ((writeDigest sd (acceptedDigest sd f cmd u) u).modSide sd fun z =>
          { z with running := some { frame := f, next := .offer, command := cmd } })).modSide sd (fun z =>
            { z with running := none }) := by
  obtain ⟨a, b, w, u, cmd, ha, hb, hcmd, hw, hu, hfour, hwhole⟩ := runStages_whole sd f v n hn h
  exact ⟨b, cmd, u, hfour, ⟨beforeExposure ha hb, hcmd, afterExposure hw hu⟩, by rw [hu, modSide_side], hwhole⟩

/-- Stages 5 and 6 leave what no stage touches. -/
theorem stageFrame_digestOffer (u : State) (sd : Side) (f : AcceptedFrame) (d : Digest) (q r : Option Completion) :
    StageFrame sd u ((stageOffer sd f ((writeDigest sd d u).modSide sd fun z => { z with running := q })).modSide sd
      fun z => { z with running := r }) :=
  ((writeDigest_onlyRecorders u sd d).stageFrame sd).trans ((stageFrame_running _ sd q).trans
    ((stageOffer_frame _ sd f).trans (stageFrame_running _ sd r)))

/-- What the beginning of an operation leaves of the state: all but the side's inputs and its operation. -/
structure Begun (s v V : State) (sd : Side) (f : AcceptedFrame) (rest : List CompletionInput) : Prop where
  side : V.side sd = begun f rest (s.side sd)
  other : V.side (otherSide sd) = s.side (otherSide sd)
  cal : V.cal = s.cal
  table : V.table = s.table
  time : V.time = s.time
  vehicle : V.vehicle = s.vehicle
  store : V.store = s.store
  pending : V.pending = s.pending
  pauses : V.pauses = v.pauses
  phase : V.phase = s.phase
  activePattern : V.activePattern = s.activePattern
  supplyOk : V.supplyOk = s.supplyOk
  eventIn : V.eventIn = s.eventIn
  port : ∀ p, V.port p = s.port p

theorem TakesPause.begun {s v : State} {n : Nat} (h : TakesPause s n v) (sd : Side) (f : AcceptedFrame)
    (rest : List CompletionInput) : Begun s v (v.modSide sd (Machine.begun f rest)) sd f rest := by
  obtain ⟨p, rfl⟩ : ∃ p, v = { s with pauses := p } := by
    obtain ⟨-, -, rfl⟩ | ⟨p, -, rfl⟩ := h
    · exact ⟨v.pauses, rfl⟩
    · exact ⟨p, rfl⟩
  cases sd <;> exact ⟨rfl, rfl, rfl, rfl, rfl, rfl, rfl, rfl, rfl, rfl, rfl, rfl, rfl, fun _ => rfl⟩

/-- Settles O28: an operation begins on the state but for its inputs, its first four stages are FourStages, and the
digest is formed from what they leave; an operation cut in pieces, one stage, and the offer have their own rules. -/
theorem frameCompletionRunsStages : Obligations.FrameCompletionRunsStages := by
  refine ⟨fun s sd hrun => ⟨fun hnone hin => next_whileRunning hrun (runCompletion_idle hnone hin),
    fun c n v hc hp => next_whileRunning hrun (runCompletion_running hc hp),
    fun f rest n v hnone hin hp => next_whileRunning hrun (runCompletion_start hnone hin hp), ?_⟩,
    fun s sd m n => runStages_add sd m n s, ?_, ?_⟩
  · intro f rest n v x k camera hnone hp hn hin hx hk hcamera
    obtain rfl : isCamera f.image = camera := Bool.eq_iff_iff.mpr ((isCamera_iff f.image).trans hcamera.symm)
    subst hx hk
    have hb := hp.begun sd f rest
    obtain ⟨b, cmd, u, hu, hfour, hrunning, hwhole⟩ :=
      runStages_fourStages sd f (v.modSide sd (begun f rest)) n hn (by rw [hb.side])
    have hframe := hfour.frame
    have hend : StageFrame sd (v.modSide sd (begun f rest)) _ :=
      hframe.trans (stageFrame_digestOffer u sd f (acceptedDigest sd f cmd u) (some ⟨f, .offer, cmd⟩) none)
    obtain ⟨hspeed, -⟩ := presented_congr hb.vehicle hb.store
    refine ⟨u, _, acceptedDigest sd f cmd u, u.side sd,
      next_whileRunning hrun ((runCompletion_start hnone hin hp).trans hwhole), hu, rfl, rfl, ?_, ?_, ?_⟩
    · obtain ⟨-, -, -, -, -, htime, -, hvehicle, hstore, -, -, hinputs, hflag, hnumber, hdlt⟩ := hframe
      obtain ⟨htiles, hmean, hnum⟩ := hfour.stats_taken
      obtain ⟨hm, hl, hglare⟩ := hfour.metering
      obtain ⟨hreported, hmode, hmanual, hpolicy⟩ := hfour.controls
      have hsynthetic := hfour.synthetic
      have hcam := hfour.camera
      have hiff := hfour.command_isSome_iff
      have hsome := hfour.command_some
      have hnone := hfour.command_none
      simp only [hb.side] at hinputs hflag hnumber hdlt hreported hmode hmanual hpolicy
      simp only [hb.side, hb.cal, hb.table, hb.time, hspeed, glareAfter] at htiles hm hglare hsynthetic hcam
      simp only [hb.side, hb.cal, hb.table, hb.time] at hiff hsome hnone
      exact ⟨hinputs, hrunning, htiles, hmean, hnum, hsynthetic, hcam, ⟨_, rfl, hm, hl, hglare⟩, hiff, hsome, hnone,
        hreported, hmode, hmanual, hpolicy, hdlt, hflag, hnumber, rfl, rfl, htime.trans hb.time, rfl, rfl, rfl, rfl, rfl,
        rfl, rfl, rfl, acceptedDigest_readings (hvehicle.trans hb.vehicle) (hstore.trans hb.store) sd f cmd⟩
    · rw [modSide_side]
      exact stageOffer_slot
    · obtain ⟨hpending, hpauses, hphase, hsupply, hevent, htime, hpattern, hvehicle, hstore, hport, hother, -⟩ := hend
      rw [hb.other] at hother
      refine ⟨hpending.trans hb.pending, hphase.trans hb.phase, htime.trans hb.time, hvehicle.trans hb.vehicle,
        hstore.trans hb.store, hpattern.trans hb.activePattern, hsupply.trans hb.supplyOk, hevent.trans hb.eventIn,
        hpauses.trans hb.pauses, fun p => ?_, hother⟩
      have hp := hport p
      rwa [hb.port] at hp
  · intro s t sd c x y hx hc ht hy
    subst hx hy
    obtain ⟨hrunning, hkeeps⟩ := oneStage hc ht
    refine ⟨fun next hnext => ?_, fun hlast => ?_, hkeeps.inputs, hkeeps.testFlag, hkeeps.testNumber, hkeeps.dlt,
      hkeeps.stats, hkeeps.glare, hkeeps.expo, hkeeps.mode, hkeeps.clr, hkeeps.view⟩
    · have hmove : moveOn c (stageWork sd c s).2 = some ⟨c.frame, next, (stageWork sd c s).2⟩ := by
        rw [moveOn, nextStage_of_mem hnext]
        rfl
      exact ⟨_, hrunning.trans hmove, fun h => stageWork_command h sd s⟩
    · rw [hrunning, moveOn, hlast]
      rfl
  · intro s t sd f x y camera hx ht hy hc
    exact stageOffer_spec s t sd f x y camera hx ht hy hc

end Sys2Proof.Machine
